-- ==== Sys2Proof/Word.lean ====
section
/-! DEFINITION. The words of the AB-716: bytes, and the widths the manual gives its fields.
Arithmetic on them and every byte-order helper stand in Machine/Bytes.lean. -/

namespace Sys2Proof

/-- One byte of a line block, a frame or a message. -/
abbrev Byte := BitVec 8

/-- A run of bytes in the order they are sent. -/
abbrev Bytes := List Byte

/-- A 16-bit field. -/
abbrev Half := BitVec 16

/-- A 48-bit hardware address, its first byte on the wire most significant. -/
abbrev Mac := BitVec 48

/-- A 32-bit IPv4 address. -/
abbrev Ip := BitVec 32

end Sys2Proof
end

