-- ==== Sys2Proof/Syntax.lean ====
section
/-! DEFINITION. The commands of the AB-716: one constructor of `Instr` per row of the table of operations
and events (spec/opcode_table.json), with the operands the row's rule names. -/

namespace Sys2Proof

/-- A phone port (00_scope.md). -/
inductive Port where
  | a | b
deriving DecidableEq, Repr

/-- A call slot; slot n uses voice channel n (R146). -/
inductive Slot where
  | zero | one
deriving DecidableEq, Repr

/-- Who sent a directive: the local authority, with the source address of its frame (R203), or the
exchange authority (R204). -/
inductive Sender where
  | loc (source : Mac)
  | exch
deriving DecidableEq, Repr

/-- The six inputs read at every sample of the 8 kHz clock: loop sense and ring trip per port (R97), and the
two power-sense inputs (R180). -/
structure Pins where
  loopA : Bool
  loopB : Bool
  tripA : Bool
  tripB : Bool
  mains : Bool
  batteryLow : Bool
deriving DecidableEq, Repr

/-- A Profile Table entry as written (section 11.5). -/
structure ProfileImage where
  valid : Byte
  rateCap : Half
  blockSize : Byte
  efficiency : Half
  minMargin : Half
deriving DecidableEq, Repr

/-- A Match Table entry as written, 26 bytes (section 11.5): `flags` is byte 0 and `codes` is byte 1. -/
structure MatchImage where
  flags : Byte
  codes : Byte
  dest : Mac
  src : Mac
  typeValue : Half
  protocol : Byte
  dscp : Byte
  ip : Ip
  low : Half
  high : Half
deriving DecidableEq, Repr

/-- The commands. A directive row carries its sender, its tag and the fields of its body as bytes, so that
every value the wire can carry is there, the refused ones too. -/
inductive Instr where
  /-- POWER_UP_RESET (R215) -/
  | powerUpReset
  /-- BUDGET_PERIOD_START (R52) -/
  | budgetPeriodStart
  /-- VOICE_FRAME_CLOSE (R132) -/
  | voiceFrameClose
  /-- UPTIME_SECOND (R183) -/
  | uptimeSecond
  /-- TRAINED (R22): the rate in kb/s and the margin, two's complement tenths of dB -/
  | trained (rate : Nat) (margin : Half)
  /-- NO_TRAIN (R31) -/
  | noTrain
  /-- SYNC_LOST (R33) -/
  | syncLost
  /-- SYNC_BACK (R34) -/
  | syncBack
  /-- MARGIN (R43): two's complement tenths of dB -/
  | margin (value : Half)
  /-- TRANSCEIVER_SILENT (R23) -/
  | transceiverSilent
  /-- TRAIN_TIMER_EXPIRY (R31) -/
  | trainTimerExpiry
  /-- RIDE_TIMER_EXPIRY (R35) -/
  | rideTimerExpiry
  /-- HOLD_TIMER_EXPIRY (R36) -/
  | holdTimerExpiry
  /-- BACKOFF_EXPIRY (R32) -/
  | backoffExpiry
  /-- LOOPBACK_LIMIT_EXPIRY (R195) -/
  | loopbackLimitExpiry
  /-- LINE_BLOCK_RECEIVED (R11): the block's bytes, header first, CRC last -/
  | lineBlockReceived (block : List Byte)
  /-- HOME_FRAME_RECEIVED (R74): the frame's bytes, frame check sequence last -/
  | homeFrameReceived (frame : List Byte)
  /-- HOME_ITEM_SENT (R91) -/
  | homeItemSent
  /-- HOME_LINK_UP (R73) -/
  | homeLinkUp
  /-- HOME_LINK_DOWN (R93) -/
  | homeLinkDown
  /-- LOOP_CHANGE (R100) -/
  | loopChange (port : Port)
  /-- RING_TRIP (R99) -/
  | ringTrip (port : Port)
  /-- ON_HOOK (R102) -/
  | onHook (port : Port)
  /-- INTERDIGIT (R103) -/
  | interdigit (port : Port)
  /-- PARK (R109) -/
  | park (port : Port)
  /-- CADENCE_SEGMENT_END (R116) -/
  | cadenceSegmentEnd (port : Port)
  /-- ALERT_LIMIT_EXPIRY (R156) -/
  | alertLimitExpiry (slot : Slot)
  /-- TEST_PHASE_EXPIRY (R198, R199) -/
  | testPhaseExpiry
  /-- POWER_STATE_CHANGE (R181): the two debounced power-sense values after the change -/
  | powerStateChange (mainsPresent batteryLow : Bool)
  /-- READ_TABLE (R210) -/
  | readTable (sender : Sender) (tag : Half) (table first count : Byte)
  /-- WRITE_TABLE_PROFILE (R24): table 1 -/
  | writeTableProfile (sender : Sender) (tag : Half) (index : Byte) (entry : ProfileImage)
  /-- WRITE_TABLE_CADENCE (R114): table 2, eight durations and the repeat flag -/
  | writeTableCadence (sender : Sender) (tag : Half) (index : Byte) (durations : List Half) (rep : Byte)
  /-- WRITE_TABLE_MATCH (R81): table 3 -/
  | writeTableMatch (sender : Sender) (tag : Half) (index : Byte) (entry : MatchImage)
  /-- WRITE_TABLE_ANSWER (R191): table 4 -/
  | writeTableAnswer (sender : Sender) (tag : Half) (index valid : Byte) (hw : Mac) (ip : Ip)
  /-- WRITE_TABLE_FAULT (R172): table 5 -/
  | writeTableFault (sender : Sender) (tag : Half) (index level : Byte)
  /-- WRITE_TABLE_REFUSED (R206): a write to a table the sender does not own; the entry's bytes as sent -/
  | writeTableRefused (sender : Sender) (tag : Half) (table index : Byte) (entry : List Byte)
  /-- READ_STATUS (R214) -/
  | readStatus (sender : Sender) (tag : Half)
  /-- READ_PARAM (R209) -/
  | readParam (sender : Sender) (tag : Half) (ident : Byte)
  /-- WRITE_PARAM (R209) -/
  | writeParam (sender : Sender) (tag : Half) (ident : Byte) (value : BitVec 48)
  /-- CLEAR_FAULT (R173): kind 0 is all kinds -/
  | clearFault (sender : Sender) (tag : Half) (kind countReset : Byte)
  /-- LINE_ACTION START (R28) -/
  | lineActionStart (sender : Sender) (tag : Half)
  /-- LINE_ACTION STOP (R37) -/
  | lineActionStop (sender : Sender) (tag : Half)
  /-- LINE_ACTION RETRAIN (R38) -/
  | lineActionRetrain (sender : Sender) (tag : Half)
  /-- LINE_ACTION STEP_DOWN (R44) -/
  | lineActionStepDown (sender : Sender) (tag : Half)
  /-- LINE_ACTION STEP_UP (R45) -/
  | lineActionStepUp (sender : Sender) (tag : Half)
  /-- LINE_ACTION LOOP_ON (R195) -/
  | loopOn (sender : Sender) (tag : Half) (channel : Byte)
  /-- LINE_ACTION LOOP_OFF (R195) -/
  | loopOff (sender : Sender) (tag : Half)
  /-- PORT_ACTION TEST_RING (R197): port byte 1 for A, 2 for B -/
  | testRing (sender : Sender) (tag : Half) (port cadence seconds : Byte)
  /-- PORT_ACTION ECHO_TEST (R197) -/
  | echoTest (sender : Sender) (tag : Half) (port cadence seconds : Byte)
  /-- PORT_ACTION RELEASE_PORT (R112) -/
  | releasePort (sender : Sender) (tag : Half) (port : Byte)
  /-- PORT_ACTION DISABLE (R112) -/
  | disable (sender : Sender) (tag : Half) (port : Byte)
  /-- PORT_ACTION ENABLE (R112) -/
  | enable (sender : Sender) (tag : Half) (port : Byte)
  /-- QUIET ENTER (R187) -/
  | quietEnter (sender : Sender) (tag : Half)
  /-- QUIET LEAVE (R188) -/
  | quietLeave (sender : Sender) (tag : Half) (hitClear : Byte)
  /-- RESET (R216) -/
  | reset (sender : Sender) (tag : Half)
  /-- SAMPLE_INSTANT (R126): the codec sample of port A and of port B, and the sensed inputs -/
  | sampleInstant (sampleA sampleB : Half) (pins : Pins)
deriving DecidableEq, Repr

end Sys2Proof
end

