-- ==== Sys2Proof/Decode.lean ====
section
/-! DEFINITION. The commands that a word of the table's bits spells. No row of spec/opcode_table.json gives
bits: a command arrives as an event or as bytes inside the part's own traffic, and those bytes are read by the
machine (Machine/Operands.lean, Machine/Receive.lean). -/

namespace Sys2Proof

/-- The command whose table bits are `w`: none, for every word, since no row has bits. -/
def decodeTableWord (_nbits _w : Nat) : Option Instr := none

end Sys2Proof
end

