-- ==== Sys2Proof/Config.lean ====
section
/-! DEFINITION. The fixed capacities of the part ("Fixed capacities", 00_scope.md) and the saturation
limits, and the two free values: values the spec names and does not give. -/

namespace Sys2Proof.Config

/-- Priority queue capacity in frames (R86). -/
abbrev priorityFrames : Nat := 64
/-- Priority queue capacity in bytes (R86). -/
abbrev priorityBytes : Nat := 16384
/-- Bulk queue capacity in frames (R86). -/
abbrev bulkFrames : Nat := 128
/-- Bulk queue capacity in bytes (R86). -/
abbrev bulkBytes : Nat := 32768
/-- Downstream FIFO capacity in bytes (R90). -/
abbrev fifoBytes : Nat := 24576
/-- Exchange reply queue capacity in replies (R89). -/
abbrev replies : Nat := 4
/-- Signal queue capacity in signals, per slot (R149). -/
abbrev signals : Nat := 8
/-- Loop store capacity in blocks (R196). -/
abbrev loopBlocks : Nat := 16
/-- Error history capacity in grades (R41). -/
abbrev history : Nat := 60
/-- Samples of one budget period (00_scope.md). -/
abbrev periodSamples : Nat := 80
/-- Ticks of one budget period (00_scope.md). -/
abbrev periodTicks : Nat := 10
/-- Ticks of one uptime second (R183). -/
abbrev secondTicks : Nat := 1000
/-- Consecutive differing tick decisions that change a power-sense input (R180). -/
abbrev powerTicks : Nat := 50
/-- The silence watch's limit in ms (R23). -/
abbrev silenceMs : Nat := 3000
/-- The largest value of an 8-bit saturating count. -/
abbrev max8 : Nat := 255
/-- The largest value of a 16-bit saturating count. -/
abbrev max16 : Nat := 65535
/-- The largest value of a 32-bit saturating counter. -/
abbrev max32 : Nat := 4294967295
/-- The dying gasp's kind of record keeps exchange level 3 (R171, R178). -/
abbrev gaspLevel : Nat := 3

/-- A free value: the answer time of a POWER_LIMITED test result, which the spec does not state (R198, R200; log entry
11). It is applied to a counter that each use advances. -/
opaque powerLimitedTime : Nat → BitVec 32
/-- A free value: whether the alert limit's remaining seconds count a part of a second as a whole one, with so many
milliseconds left (section 11.5; log entry 9). -/
opaque partSecond : Nat → Bool

end Sys2Proof.Config
end

