-- ==== Sys2Proof/Machine/Types.lean ====
section
/-! DEFINITION. The pieces of state of the eleven blocks, as plain data. Each structure's docstring names the
chapter and rule that give it. -/

namespace Sys2Proof.Machine

/-- One value per phone port. -/
structure PerPort (α : Type) where
  a : α
  b : α
deriving DecidableEq, Repr

/-- One value per call slot. -/
structure PerSlot (α : Type) where
  zero : α
  one : α
deriving DecidableEq, Repr

/-- A set of ports: attached ports, ring sets (R146). -/
structure PortSet where
  a : Bool
  b : Bool
deriving DecidableEq, Repr

/-- A running timer: its limit as read when it started, and the milliseconds it has run (section 2.1). A
stopped timer is `none`. -/
structure Timer where
  limit : Nat
  elapsed : Nat
deriving DecidableEq, Repr

/-- One of the sixteen line channels (R1). -/
abbrev Chan := Fin 16

/-- One of the 176 counters of table 8 (R220). -/
abbrev Counter := Fin 176

/-- The two authorities (00_scope.md). -/
inductive Authority where
  | loc | exch
deriving DecidableEq, Repr

/-! ## Fault kinds (R167) -/

/-- The twenty fault kinds, in the order of their numbers 1 to 20 (R167). -/
inductive FaultKind where
  | lineDown | ride | retrain | stepDown | noRung | marginLow | severeRun | callRefused | callCut | callDropped
  | portParked | ringLimited | clipping | playoutLoss | priorityDrop | bulkDrop | reassemblyLoss | mainsLost
  | batteryLow | directiveRefused
deriving DecidableEq, Repr

/-! ## Line blocks (01_line_blocks_and_channels.md) -/

/-- Block sizes S of 32, 64 and 128 bytes (section 1.2). -/
inductive BlockSize where
  | b32 | b64 | b128
deriving DecidableEq, Repr

/-- Block kinds (R2). -/
inductive BlockKind where
  | whole | first | middle | last
deriving DecidableEq, Repr

/-- Where a frame in progress came from (R6). A notice remembers its kind and the repeats it carries (R176). -/
inductive Source where
  | voice (slot : Slot)
  | signal (slot : Slot)
  | priority
  | bulk
  | reply
  | notice (kind : FaultKind) (repeats : Nat)
  | probe
deriving DecidableEq, Repr

/-- A segmentation context in SENDING (R6); the frame's length L is the length of `bytes`. -/
structure Sending where
  source : Source
  bytes : Bytes
  frameNo : Byte
  total : Nat
  emitted : Nat
deriving DecidableEq, Repr

/-- A reassembly context in COLLECTING (R14). -/
structure Collecting where
  frameNo : Byte
  bytes : Bytes
deriving DecidableEq, Repr

/-- The framer's state of one channel: transmit sequence and next frame number (R5), segmentation context
(R6; `none` is IDLE), expected receive sequence (R12; `none` is unset), reassembly context (R14; `none` is
IDLE). -/
structure Channel where
  txSeq : Byte
  nextFrame : Byte
  seg : Option Sending
  expected : Option Byte
  asm : Option Collecting
deriving DecidableEq, Repr

/-- A received block kept for loopback (R196). -/
structure Looped where
  kind : BlockKind
  frameNo : Byte
  used : Nat
  payload : Bytes
deriving DecidableEq, Repr

/-- The Block Framer: the sixteen channels and the loop store (R19, R196). -/
structure Framer where
  channels : Vector Channel 16
  loopStore : List Looped
deriving DecidableEq, Repr

/-! ## The Line Supervisor (02_holding_the_line.md) -/

/-- Link states (section 2.4). -/
inductive LinkState where
  | stopped | training | carrying | riding | retraining | waiting
deriving DecidableEq, Repr

/-- Grades of a second (R41). -/
inductive Grade where
  | clean | errored | severe
deriving DecidableEq, Repr

/-- One rung of the Profile Table (R24). -/
structure Rung where
  valid : Bool
  cap : Nat
  size : BlockSize
  eff : Nat
  minMargin : Int
deriving DecidableEq, Repr

/-- The rung-in-use copy (section 2.1). -/
structure InUse where
  size : BlockSize
  eff : Nat
  minMargin : Int
deriving DecidableEq, Repr

/-- The channels line loopback can hold (R195). -/
inductive LoopChannel where
  | three | fourteen
deriving DecidableEq, Repr

/-- Loopback in force: the looped channel and the limit timer (R47). -/
structure Loopback where
  channel : LoopChannel
  limit : Timer
deriving DecidableEq, Repr

/-- The Line Supervisor's state (section 2.1), the Profile Table with it (section 2.3). -/
structure Supervisor where
  link : LinkState
  rung : Fin 8
  inUse : InUse
  rate : Nat
  margin : Int
  history : List Grade
  gradesSince : Nat
  crcBad : Nat
  gapMark : Bool
  syncLostMark : Bool
  cleanRun : Nat
  lowMargin : Nat
  train : Option Timer
  ride : Option Timer
  hold : Option Timer
  backoff : Option Timer
  backoffLength : Nat
  silence : Option Nat
  stepUpDeferred : Bool
  loopback : Option Loopback
  profile : Vector Rung 8
deriving DecidableEq, Repr

/-- What the part sends to the transceiver (R20). -/
inductive XcvrMsg where
  | train (cap : Nat)
  | halt
deriving DecidableEq, Repr

/-! ## The Line Budget Unit (03_the_line_budget.md) -/

/-- The budget record (R50). B, s and F(S) are functions of the staged rate, size and efficiency, and the
reserved count v is the number of non-FREE slots; they have no second home here. -/
structure Budget where
  rate : Nat
  size : BlockSize
  eff : Nat
  bitsCarry : Nat
  blockCarry : Nat
  blocks : Nat
  floor : Nat
  pendingFloor : Option Nat
  turn : Slot
  urgent : Bool
deriving DecidableEq, Repr

/-! ## Home port, Match Engine, Queue Manager (04_home_port_match_table_and_queues.md) -/

/-- Directions of a Match entry (R78). -/
inductive Direction where
  | up | down | both
deriving DecidableEq, Repr

/-- Classes (R78). -/
inductive FrameClass where
  | priority | bulk | drop
deriving DecidableEq, Repr

/-- A Match Table entry (R78). `none` for the direction or the class is the code 0 the entry holds after a
reset (R95), which no write can store (R81). -/
structure MatchEntry where
  valid : Bool
  dir : Option Direction
  dest : Mac
  src : Mac
  typeValue : Half
  protocol : Byte
  dscp : Nat
  dscpAny : Bool
  ip : Ip
  low : Nat
  high : Nat
  cls : Option FrameClass
  wake : Bool
  forward : Bool
  answer : Option (Fin 4)
  hits : Nat
deriving DecidableEq, Repr

/-- An Answer record (R191). -/
structure AnswerRecord where
  valid : Bool
  hw : Mac
  ip : Ip
deriving DecidableEq, Repr

/-- The Match Engine: Match Table, Answer Table, quiet flag, wake pin (R78, R191, R187). -/
structure MatchEngine where
  table : Vector MatchEntry 32
  answers : Vector AnswerRecord 4
  quiet : Bool
  wake : Bool
deriving DecidableEq, Repr

/-- The four kinds of downstream FIFO item (R90). -/
inductive FifoKind where
  | delivered | localReply | localNotice | arpAnswer
deriving DecidableEq, Repr

/-- A downstream FIFO item: its kind and its frame without padding and check sequence (R90). -/
structure FifoItem where
  kind : FifoKind
  bytes : Bytes
deriving DecidableEq, Repr

/-- The Queue Manager and the home link state (R73, R85, R89, R90). -/
structure QueueManager where
  priority : List Bytes
  bulk : List Bytes
  replies : List Bytes
  fifo : List FifoItem
  homeUp : Bool
deriving DecidableEq, Repr

/-! ## The Phone Port Unit (05_phone_ports_loop_dial_and_ring.md) -/

/-- Port states (section 5.4). -/
inductive PortState where
  | disabled | idle | ringing | inCall | released | parked | testing | localTone
deriving DecidableEq, Repr

/-- Tone kinds (R121); a port with no tone holds `none`. -/
inductive ToneKind where
  | lineDown | refusal | release | test
deriving DecidableEq, Repr

/-- What an armed compare watches for (R100). -/
inductive CompareKind where
  | onHook | interdigit
deriving DecidableEq, Repr

/-- An armed compare with its value in ms (R100). -/
structure Compare where
  kind : CompareKind
  value : Nat
deriving DecidableEq, Repr

/-- The mode of a running cadence channel (R115). -/
inductive ChannelMode where
  | ring (cadence : Fin 8)
  | tone (kind : ToneKind)
deriving DecidableEq, Repr

/-- A running cadence channel (R115): mode, position, on or off, end compare in ticks (`none` for the
continuous test tone, R121) and ticks counted. -/
structure CadenceChannel where
  mode : ChannelMode
  pos : Nat
  on : Bool
  endAt : Option Nat
  count : Nat
deriving DecidableEq, Repr

/-- One port of the Phone Port Unit (section 5.1). -/
structure PortUnit where
  state : PortState
  closed : Bool
  differ : Nat
  trip : Nat
  measure : Nat
  capture : Nat
  compare : Option Compare
  pulses : Nat
  park : Option Timer
  chan : Option CadenceChannel
  tone : Option ToneKind
deriving DecidableEq, Repr

/-- How two ports started by one ring request hang together: not at all, as a ring group that port A leads
(R118), or with port B waiting for the end of port A's first on segment (R119). -/
inductive RingPair where
  | apart
  | group
  | waiting (cadence : Fin 8)
deriving DecidableEq, Repr

/-- A cadence: eight durations in units of 10 ms, and the repeat flag (R114). -/
structure Cadence where
  durations : Vector Nat 8
  rep : Bool
deriving DecidableEq, Repr

/-- The Phone Port Unit: both ports, the pairing of their ringing, the Cadence Table. -/
structure PhoneUnit where
  ports : PerPort PortUnit
  pair : RingPair
  cadences : Vector Cadence 8
deriving DecidableEq, Repr

/-! ## The Call Controller (07_calls.md) -/

/-- Slot states (R146). -/
inductive SlotState where
  | free | originating | alerting | connected
deriving DecidableEq, Repr

/-- Call directions (R146). -/
inductive CallDir where
  | out | inward
deriving DecidableEq, Repr

/-- Cause codes (section 11.2). -/
inductive Cause where
  | normal | budget | line | noAnswer | slotBusy | portsBusy | power | badCadence
deriving DecidableEq, Repr

/-- The signals the part sends (R148). -/
inductive Signal where
  | seize (port : Port)
  | digit (d : Nat)
  | flash
  | answer (port : Port)
  | clear (cause : Cause)
  | refuse (cause : Cause)
  | refresh (state : SlotState) (ports : PortSet)
deriving DecidableEq, Repr

/-- A slot record of the Call Table (R146) and the slot's signal queue (R149). -/
structure CallSlot where
  state : SlotState
  held : Bool
  attached : PortSet
  ringSet : PortSet
  dir : CallDir
  stamp : Nat
  cadence : Nat
  group : Bool
  alert : Option Timer
  start : Nat
  sent : Nat
  received : Nat
  endCause : Option Cause
  mark : Bool
  signals : List Signal
deriving DecidableEq, Repr

/-- The Call Controller: the Call Table and the admission stamp counter (R146). -/
structure CallController where
  slots : PerSlot CallSlot
  stamp : Nat
deriving DecidableEq, Repr

/-! ## The Media Unit (06_voice_media.md) -/

/-- Media states (R125). -/
inductive MediaState where
  | off | flowing | held
deriving DecidableEq, Repr

/-- Playout states (section 6.5). -/
inductive PlayState where
  | off | filling | playing
deriving DecidableEq, Repr

/-- A frame builder that is building: the codes so far, and whether every attached port has had an uplink gain
of 0 at every sample so far (R132). -/
structure Builder where
  codes : Bytes
  muted : Bool
deriving DecidableEq, Repr

/-- A frame in the playout ring (R134, R135). -/
structure RingFrame where
  seq : Half
  silent : Bool
  codes : Bytes
deriving DecidableEq, Repr

/-- The Media Unit's state of one slot (section 6.1). -/
structure MediaSlot where
  media : MediaState
  seq : Half
  resume : Bool
  builder : Option Builder
  due : Option Bytes
  play : PlayState
  base : Option Half
  ring : Vector (Option RingFrame) 16
  age : Nat
  miss : Nat
  prev : Option (List Int)
  playing : List Int
deriving DecidableEq, Repr

/-- The Media Unit's state of one port: the DC block (R126) and the tone phase (R139). -/
structure MediaPort where
  dcIn : Int
  dcOut : Int
  phase : Nat
deriving DecidableEq, Repr

/-- The Media Unit (section 6.1). -/
structure MediaUnit where
  ports : PerPort MediaPort
  slots : PerSlot MediaSlot
  clips : Nat
  conceals : Nat
  second : Nat
deriving DecidableEq, Repr

/-! ## The Fault Unit (08_faults_notices_and_power.md) -/

/-- A fault record (R168); its kind and class are fixed by its index. -/
structure FaultRecord where
  active : Bool
  count : Nat
  first : Nat
  last : Nat
  detail : Nat
  locLevel : Nat
  exchLevel : Nat
  locLatch : Bool
  exchLatch : Bool
deriving DecidableEq, Repr

/-- An item of a pending notice list (R174). -/
structure PendingItem where
  kind : FaultKind
  level : Nat
  entry : Nat
  repeats : Nat
deriving DecidableEq, Repr

/-- Power states (R181). -/
inductive PowerState where
  | mains | battery | low
deriving DecidableEq, Repr

/-- The Fault Unit (chapter 8, opening table). -/
structure FaultUnit where
  records : Vector FaultRecord 20
  exchList : List PendingItem
  locList : List PendingItem
  uptime : Nat
  tick : Nat
  power : PowerState
  mains : Bool
  batteryLow : Bool
  mainsDiffer : Nat
  batteryDiffer : Nat
  since : Nat
  gaspSent : Bool
deriving DecidableEq, Repr

/-! ## The Directive Unit and the Test Responder -/

/-- The parameters (R208), in the order of their identifiers (section 11.6). -/
inductive Param where
  | rideTime | trainTimeout | holdLimit | severeThreshold | stepDownCount | stepUpPeriod | marginHysteresis
  | floorRate | startRung | autoStart | dataFloor | alertLimit | loopbackLimit
  | ownAddress | hostAddress | classUp | classDown | bulkFloor | wakeLevel | playoutTarget | flashMaximum
  | interdigitTime | parkTime | joinPolicy | upGainA | upGainB | downGainA | downGainB | clipThreshold
  | lossThreshold
deriving DecidableEq, Repr

/-- Causes of the last reset (R214). -/
inductive ResetCause where
  | powerUp | localDirective | exchangeDirective
deriving DecidableEq, Repr

/-- The Directive Unit: the parameter set, the local manager address (`none` while unknown, R203) and the cause
of the last reset (R215, R216). -/
structure DirectiveUnit where
  params : Vector Nat 30
  manager : Option Mac
  cause : ResetCause
deriving DecidableEq, Repr

/-- Port test kinds (R197). -/
inductive TestKind where
  | ring | echo
deriving DecidableEq, Repr

/-- Port test phases (R198, R199). -/
inductive TestPhase where
  | ring | echo | tone
deriving DecidableEq, Repr

/-- Port test outcomes (R200). -/
inductive TestOutcome where
  | answered | notAnswered | powerLimited
deriving DecidableEq, Repr

/-- The port test context (section 9.4). `delay` is the echo delay in samples and `line` the echo delay line,
oldest sample first (R199). -/
structure PortTest where
  kind : TestKind
  port : Port
  auth : Authority
  tag : Half
  cadence : Fin 8
  seconds : Nat
  phase : TestPhase
  timer : Option Timer
  answerTime : Nat
  delay : Nat
  line : List Int
deriving DecidableEq, Repr

/-- The Test Responder: the probe reply slot (R193) and the port test context. -/
structure TestResponder where
  probe : Option Bytes
  test : Option PortTest
deriving DecidableEq, Repr

/-! ## The model's own fields -/

/-- Samples 4, 5 and 6 of the tick, of one input (R97). -/
structure Middle where
  s4 : Bool
  s5 : Bool
  s6 : Bool
deriving DecidableEq, Repr

/-- The phase of the sample clock (R97, R180, R183): samples taken in the tick, the middle samples of each
input, ticks taken in the budget period, samples taken in the budget period. -/
structure Clock where
  sampleInTick : Nat
  loopA : Middle
  loopB : Middle
  tripA : Middle
  tripB : Middle
  mains : Middle
  batteryLow : Middle
  tickInPeriod : Nat
  sampleInPeriod : Nat
deriving DecidableEq, Repr

/-- What the part has put on its outputs, oldest first: messages to the transceiver, line blocks, frames sent on
the home port, and the sample each codec was last given. -/
structure Outputs where
  xcvr : List XcvrMsg
  line : List Bytes
  home : List Bytes
  codec : PerPort Int
deriving DecidableEq, Repr

end Sys2Proof.Machine
end

