-- ==== Sys2Proof/Machine/Bytes.lean ====
section
/-! DEFINITION. Byte order, two's complement, the two cyclic checks, saturation: the helpers every format is
written with. Multi-byte fields go most significant byte first (section 11). -/

namespace Sys2Proof.Machine

/-- One byte of a number, its low eight bits. -/
def byteOf (n : Nat) : Byte := BitVec.ofNat 8 n

/-- Two bytes, most significant first. -/
def be16 (n : Nat) : Bytes := [byteOf (n / 256), byteOf n]

/-- Four bytes, most significant first. -/
def be32 (n : Nat) : Bytes := [byteOf (n / 16777216), byteOf (n / 65536), byteOf (n / 256), byteOf n]

/-- Six bytes, most significant first. -/
def be48 (n : Nat) : Bytes := be16 (n / 4294967296) ++ be32 n

/-- The number a run of bytes spells, most significant first. -/
def natOf (bs : Bytes) : Nat := bs.foldl (fun n b => n * 256 + b.toNat) 0

/-- A 16-bit field read from two bytes. -/
def half (hi lo : Byte) : Half := hi ++ lo

/-- A two's complement 16-bit field's number (margins, R167). -/
def be16Int (v : Int) : Bytes := be16 (BitVec.ofInt 16 v).toNat

/-- A flag's byte: 1 set, 0 clear. -/
def byteBool (b : Bool) : Byte := if b then 1 else 0

/-- A count increased by `k`, saturating at `max` (00_scope.md, Counters and time). -/
def satAdd (max n k : Nat) : Nat := min (n + k) max

/-- A number clamped into a range (00_scope.md, Clamping). -/
def clamp (lo hi n : Nat) : Nat := min (max n lo) hi

/-- An integer clamped into a range. -/
def clampInt (lo hi n : Int) : Int := min (max n lo) hi

/-- Saturation to the 16-bit sample range (chapter 6, opening). -/
def saturate (v : Int) : Int := clampInt (-32768) 32767 v

/-- Whether saturating changes the value: one clip (R140). -/
def clips (v : Int) : Bool := v < -32768 || 32767 < v

/-- The bytes of a frame from `off` on, `n` of them, when the frame holds them all (section 4.2: a field that
lies partly beyond the frame's last byte is absent). -/
def fieldAt (frame : Bytes) (off n : Nat) : Option Bytes :=
  if off + n ≤ frame.length then some ((frame.drop off).take n) else none

/-- The number in `n` bytes of a frame from `off` on, when they are there. -/
def numAt (frame : Bytes) (off n : Nat) : Option Nat := (fieldAt frame off n).map natOf

/-! ## The CRC of a line block (R3) -/

/-- One bit of the block CRC's register: x^16 + x^12 + x^5 + 1, most significant bit first. -/
def crcBit (r : BitVec 16) : BitVec 16 := if r.msb then (r <<< 1) ^^^ 0x1021#16 else r <<< 1

/-- One byte into the block CRC's register. -/
def crcByte (r : BitVec 16) (b : Byte) : BitVec 16 :=
  crcBit (crcBit (crcBit (crcBit (crcBit (crcBit (crcBit (crcBit (r ^^^ (b.setWidth 16 <<< 8)))))))))

/-- The block CRC of a run of bytes: register at all ones, result not inverted (R3). -/
def crc16 (bs : Bytes) : BitVec 16 := bs.foldl crcByte 0xFFFF#16

/-! ## The frame check sequence (R74) -/

/-- One bit of the frame check register, least significant bit first. -/
def fcsBit (r : BitVec 32) : BitVec 32 := if r.getLsbD 0 then (r >>> 1) ^^^ 0xEDB88320#32 else r >>> 1

/-- One byte into the frame check register. -/
def fcsByte (r : BitVec 32) (b : Byte) : BitVec 32 :=
  fcsBit (fcsBit (fcsBit (fcsBit (fcsBit (fcsBit (fcsBit (fcsBit (r ^^^ b.setWidth 32))))))))

/-- The frame check of a run of bytes: register at all ones, result inverted (R74). -/
def fcs32 (bs : Bytes) : BitVec 32 := ~~~ (bs.foldl fcsByte 0xFFFFFFFF#32)

/-- The four check bytes that follow a frame, least significant first (R74). -/
def fcsBytes (bs : Bytes) : Bytes :=
  let c := (fcs32 bs).toNat
  [byteOf c, byteOf (c / 256), byteOf (c / 65536), byteOf (c / 16777216)]

end Sys2Proof.Machine
end

