-- ==== Sys2Proof/Machine/Defaults.lean ====
section
/-! DEFINITION. The fixed tables of the part (fault kinds and their levels, parameters and their ranges) and each
block's values after a power-up reset. State.reset only puts these together. -/

namespace Sys2Proof.Machine

/-! ## Fault kinds: numbers, classes, levels (R167, R171) -/

/-- The kind's place in the Fault Table, counted from 0 (R167, R168). -/
def FaultKind.index : FaultKind → Fin 20
  | .lineDown => 0 | .ride => 1 | .retrain => 2 | .stepDown => 3 | .noRung => 4 | .marginLow => 5 | .severeRun => 6
  | .callRefused => 7 | .callCut => 8 | .callDropped => 9 | .portParked => 10 | .ringLimited => 11
  | .clipping => 12 | .playoutLoss => 13 | .priorityDrop => 14 | .bulkDrop => 15 | .reassemblyLoss => 16
  | .mainsLost => 17 | .batteryLow => 18 | .directiveRefused => 19

/-- The kind's number, 1 to 20 (R167). -/
def FaultKind.number (k : FaultKind) : Nat := k.index.val + 1

/-- The kind of a number (R167): none outside 1 to 20. -/
def FaultKind.ofNumber : Nat → Option FaultKind
  | 1 => some .lineDown | 2 => some .ride | 3 => some .retrain | 4 => some .stepDown | 5 => some .noRung
  | 6 => some .marginLow | 7 => some .severeRun | 8 => some .callRefused | 9 => some .callCut
  | 10 => some .callDropped | 11 => some .portParked | 12 => some .ringLimited | 13 => some .clipping
  | 14 => some .playoutLoss | 15 => some .priorityDrop | 16 => some .bulkDrop | 17 => some .reassemblyLoss
  | 18 => some .mainsLost | 19 => some .batteryLow | 20 => some .directiveRefused | _ => none

/-- The twenty kinds in the order of their numbers (R167). -/
def FaultKind.all : List FaultKind :=
  [.lineDown, .ride, .retrain, .stepDown, .noRung, .marginLow, .severeRun, .callRefused, .callCut, .callDropped,
   .portParked, .ringLimited, .clipping, .playoutLoss, .priorityDrop, .bulkDrop, .reassemblyLoss, .mainsLost,
   .batteryLow, .directiveRefused]

/-- Whether the kind is a condition (R167). -/
def FaultKind.isCondition : FaultKind → Bool
  | .lineDown | .noRung | .marginLow | .severeRun | .portParked | .clipping | .playoutLoss | .mainsLost
  | .batteryLow => true
  | .ride | .retrain | .stepDown | .callRefused | .callCut | .callDropped | .ringLimited | .priorityDrop
  | .bulkDrop | .reassemblyLoss | .directiveRefused => false

/-- The kind's level for an authority: default, lowest, highest (R171). -/
def FaultKind.levelRule (k : FaultKind) : Authority → Nat × Nat × Nat
  | .loc => match k with
    | .lineDown => (2, 1, 3) | .ride => (0, 0, 2) | .retrain => (1, 0, 2) | .stepDown => (1, 0, 3)
    | .noRung => (2, 1, 3) | .marginLow => (1, 0, 3) | .severeRun => (1, 0, 3) | .callRefused => (1, 0, 2)
    | .callCut => (2, 0, 3) | .callDropped => (2, 0, 3) | .portParked => (1, 0, 2) | .ringLimited => (1, 0, 2)
    | .clipping => (0, 0, 2) | .playoutLoss => (0, 0, 2) | .priorityDrop => (1, 0, 2) | .bulkDrop => (0, 0, 2)
    | .reassemblyLoss => (0, 0, 2) | .mainsLost => (3, 2, 3) | .batteryLow => (3, 3, 3)
    | .directiveRefused => (1, 0, 2)
  | .exch => match k with
    | .lineDown => (2, 1, 3) | .ride => (1, 0, 2) | .retrain => (1, 0, 2) | .stepDown => (2, 0, 3)
    | .noRung => (2, 1, 3) | .marginLow => (1, 0, 3) | .severeRun => (2, 0, 3) | .callRefused => (1, 0, 2)
    | .callCut => (2, 0, 3) | .callDropped => (2, 0, 3) | .portParked => (1, 0, 2) | .ringLimited => (0, 0, 2)
    | .clipping => (0, 0, 2) | .playoutLoss => (1, 0, 2) | .priorityDrop => (0, 0, 2) | .bulkDrop => (0, 0, 2)
    | .reassemblyLoss => (1, 0, 2) | .mainsLost => (2, 1, 3) | .batteryLow => (3, 3, 3)
    | .directiveRefused => (1, 0, 2)

/-- A record after a power-up reset: cleared, both levels at their defaults (R185). -/
def FaultKind.record (k : FaultKind) : FaultRecord :=
  { active := false, count := 0, first := 0, last := 0, detail := 0, locLevel := (k.levelRule .loc).1,
    exchLevel := (k.levelRule .exch).1, locLatch := false, exchLatch := false }

/-! ## Parameters (R208, section 11.6) -/

/-- How a parameter takes a value (R208): a number within a range, one of some codes, an address as written. -/
inductive ParamRule where
  | number (lo hi : Nat)
  | coded (codes : List Nat)
  | address
deriving DecidableEq, Repr

/-- The parameter's place in the parameter set. -/
def Param.index : Param → Fin 30
  | .rideTime => 0 | .trainTimeout => 1 | .holdLimit => 2 | .severeThreshold => 3 | .stepDownCount => 4
  | .stepUpPeriod => 5 | .marginHysteresis => 6 | .floorRate => 7 | .startRung => 8 | .autoStart => 9
  | .dataFloor => 10 | .alertLimit => 11 | .loopbackLimit => 12 | .ownAddress => 13 | .hostAddress => 14
  | .classUp => 15 | .classDown => 16 | .bulkFloor => 17 | .wakeLevel => 18 | .playoutTarget => 19
  | .flashMaximum => 20 | .interdigitTime => 21 | .parkTime => 22 | .joinPolicy => 23 | .upGainA => 24
  | .upGainB => 25 | .downGainA => 26 | .downGainB => 27 | .clipThreshold => 28 | .lossThreshold => 29

/-- The parameter's identifier (section 11.6). -/
def Param.ident : Param → Nat
  | .rideTime => 1 | .trainTimeout => 2 | .holdLimit => 3 | .severeThreshold => 4 | .stepDownCount => 5
  | .stepUpPeriod => 6 | .marginHysteresis => 7 | .floorRate => 8 | .startRung => 9 | .autoStart => 10
  | .dataFloor => 11 | .alertLimit => 12 | .loopbackLimit => 13 | .ownAddress => 32 | .hostAddress => 33
  | .classUp => 34 | .classDown => 35 | .bulkFloor => 36 | .wakeLevel => 37 | .playoutTarget => 38
  | .flashMaximum => 39 | .interdigitTime => 40 | .parkTime => 41 | .joinPolicy => 42 | .upGainA => 43
  | .upGainB => 44 | .downGainA => 45 | .downGainB => 46 | .clipThreshold => 47 | .lossThreshold => 48

/-- The parameter an identifier names (section 11.6). -/
def Param.ofIdent : Nat → Option Param
  | 1 => some .rideTime | 2 => some .trainTimeout | 3 => some .holdLimit | 4 => some .severeThreshold
  | 5 => some .stepDownCount | 6 => some .stepUpPeriod | 7 => some .marginHysteresis | 8 => some .floorRate
  | 9 => some .startRung | 10 => some .autoStart | 11 => some .dataFloor | 12 => some .alertLimit
  | 13 => some .loopbackLimit | 32 => some .ownAddress | 33 => some .hostAddress | 34 => some .classUp
  | 35 => some .classDown | 36 => some .bulkFloor | 37 => some .wakeLevel | 38 => some .playoutTarget
  | 39 => some .flashMaximum | 40 => some .interdigitTime | 41 => some .parkTime | 42 => some .joinPolicy
  | 43 => some .upGainA | 44 => some .upGainB | 45 => some .downGainA | 46 => some .downGainB
  | 47 => some .clipThreshold | 48 => some .lossThreshold | _ => none

/-- The parameter's owner (R208). -/
def Param.owner : Param → Authority
  | .rideTime | .trainTimeout | .holdLimit | .severeThreshold | .stepDownCount | .stepUpPeriod
  | .marginHysteresis | .floorRate | .startRung | .autoStart | .dataFloor | .alertLimit | .loopbackLimit => .exch
  | .ownAddress | .hostAddress | .classUp | .classDown | .bulkFloor | .wakeLevel | .playoutTarget
  | .flashMaximum | .interdigitTime | .parkTime | .joinPolicy | .upGainA | .upGainB | .downGainA | .downGainB
  | .clipThreshold | .lossThreshold => .loc

/-- The parameter's range or codes (R208; the codes in section 11.6). -/
def Param.rule : Param → ParamRule
  | .rideTime => .number 0 2000
  | .trainTimeout => .number 10 300
  | .holdLimit => .number 2 60
  | .severeThreshold => .number 1 100
  | .stepDownCount => .number 1 60
  | .stepUpPeriod => .number 60 86400
  | .marginHysteresis => .number 0 100
  | .floorRate => .number 32 2048
  | .startRung => .number 0 7
  | .autoStart => .coded [0, 1]
  | .dataFloor => .number 0 8
  | .alertLimit => .number 10 600
  | .loopbackLimit => .number 10 3600
  | .ownAddress => .address
  | .hostAddress => .address
  | .classUp => .coded [1, 2, 3]
  | .classDown => .coded [1, 2, 3]
  | .bulkFloor => .number 0 16
  | .wakeLevel => .number 1 3
  | .playoutTarget => .number 2 8
  | .flashMaximum => .number 300 1000
  | .interdigitTime => .number 200 1000
  | .parkTime => .number 10 300
  | .joinPolicy => .coded [1, 2]
  | .upGainA | .upGainB | .downGainA | .downGainB => .number 0 16384
  | .clipThreshold => .number 1 8000
  | .lossThreshold => .number 1 6000

/-- The parameter's default (R208). -/
def Param.default : Param → Nat
  | .rideTime => 400
  | .trainTimeout => 90
  | .holdLimit => 20
  | .severeThreshold => 10
  | .stepDownCount => 10
  | .stepUpPeriod => 900
  | .marginHysteresis => 30
  | .floorRate => 64
  | .startRung => 0
  | .autoStart => 1
  | .dataFloor => 0
  | .alertLimit => 120
  | .loopbackLimit => 600
  | .ownAddress => 0x020000000001
  | .hostAddress => 0
  | .classUp | .classDown => 2
  | .bulkFloor => 1
  | .wakeLevel => 3
  | .playoutTarget => 3
  | .flashMaximum => 800
  | .interdigitTime => 300
  | .parkTime => 60
  | .joinPolicy => 1
  | .upGainA | .upGainB | .downGainA | .downGainB => 4096
  | .clipThreshold => 80
  | .lossThreshold => 50

/-- The default parameter set (R208). -/
def paramDefaults : Vector Nat 30 :=
  #v[Param.default .rideTime, Param.default .trainTimeout, Param.default .holdLimit,
     Param.default .severeThreshold, Param.default .stepDownCount, Param.default .stepUpPeriod,
     Param.default .marginHysteresis, Param.default .floorRate, Param.default .startRung,
     Param.default .autoStart, Param.default .dataFloor, Param.default .alertLimit,
     Param.default .loopbackLimit, Param.default .ownAddress, Param.default .hostAddress,
     Param.default .classUp, Param.default .classDown, Param.default .bulkFloor, Param.default .wakeLevel,
     Param.default .playoutTarget, Param.default .flashMaximum, Param.default .interdigitTime,
     Param.default .parkTime, Param.default .joinPolicy, Param.default .upGainA, Param.default .upGainB,
     Param.default .downGainA, Param.default .downGainB, Param.default .clipThreshold,
     Param.default .lossThreshold]

/-! ## Power-up values, block by block -/

/-- A channel of the framer after either reset (R19). -/
def channelReset : Channel :=
  { txSeq := 0, nextFrame := 0, seg := none, expected := none, asm := none }

/-- The Block Framer after either reset (R19). -/
def framerReset : Framer := { channels := Vector.replicate 16 channelReset, loopStore := [] }

/-- Rung 0 after a power-up reset (R25). -/
def rungZero : Rung := { valid := true, cap := 16383, size := .b64, eff := 512, minMargin := 0 }

/-- Rungs 1 to 7 after a power-up reset (R25). -/
def rungOther : Rung := { valid := false, cap := 32, size := .b32, eff := 256, minMargin := 0 }

/-- The Profile Table after a power-up reset (R25). -/
def profileReset : Vector Rung 8 :=
  #v[rungZero, rungOther, rungOther, rungOther, rungOther, rungOther, rungOther, rungOther]

/-- The Line Supervisor's own state after either reset (R48, R49), with the Profile Table it holds. -/
def supervisorReset (profile : Vector Rung 8) : Supervisor :=
  { link := .stopped, rung := 0,
    inUse := { size := rungZero.size, eff := rungZero.eff, minMargin := rungZero.minMargin },
    rate := 0, margin := 0, history := [], gradesSince := 0, crcBad := 0, gapMark := false, syncLostMark := false,
    cleanRun := 0, lowMargin := 0, train := none, ride := none, hold := none, backoff := none,
    backoffLength := 30, silence := none, stepUpDeferred := false, loopback := none, profile := profile }

/-- The budget record after a reset (R71), with the effective data floor it takes (R72). -/
def budgetReset (floor : Nat) : Budget :=
  { rate := 0, size := .b64, eff := 512, bitsCarry := 0, blockCarry := 0, blocks := 0, floor := floor,
    pendingFloor := none, turn := .zero, urgent := false }

/-- A Match Table entry after either reset (R95). -/
def matchReset : MatchEntry :=
  { valid := false, dir := none, dest := 0, src := 0, typeValue := 0, protocol := 0, dscp := 0, dscpAny := false,
    ip := 0, low := 0, high := 0, cls := none, wake := false, forward := false, answer := none, hits := 0 }

/-- An Answer record after either reset (R202). -/
def answerReset : AnswerRecord := { valid := false, hw := 0, ip := 0 }

/-- The Match Engine after either reset (R95, R202). -/
def matchEngineReset : MatchEngine :=
  { table := Vector.replicate 32 matchReset, answers := Vector.replicate 4 answerReset, quiet := false,
    wake := false }

/-- The Queue Manager and the home link after either reset (R95, R96). -/
def queuesReset : QueueManager := { priority := [], bulk := [], replies := [], fifo := [], homeUp := false }

/-- A port after either reset (R123, R124). -/
def portReset : PortUnit :=
  { state := .idle, closed := false, differ := 0, trip := 0, measure := 0, capture := 0, compare := none,
    pulses := 0, park := none, chan := none, tone := none }

/-- An empty cadence (R114). -/
def cadenceEmpty : Cadence := { durations := Vector.replicate 8 0, rep := false }

/-- The Cadence Table after a power-up reset (R114). -/
def cadencesReset : Vector Cadence 8 :=
  #v[{ durations := #v[100, 400, 0, 0, 0, 0, 0, 0], rep := true },
     { durations := #v[40, 20, 40, 200, 0, 0, 0, 0], rep := true },
     cadenceEmpty, cadenceEmpty, cadenceEmpty, cadenceEmpty, cadenceEmpty, cadenceEmpty]

/-- The Phone Port Unit after a reset (R123, R124), with the Cadence Table it holds. -/
def phoneReset (cadences : Vector Cadence 8) : PhoneUnit :=
  { ports := { a := portReset, b := portReset }, pair := .apart, cadences := cadences }

/-- The empty set of ports. -/
def noPorts : PortSet := { a := false, b := false }

/-- A slot record after either reset (R165, R166). -/
def slotReset : CallSlot :=
  { state := .free, held := false, attached := noPorts, ringSet := noPorts, dir := .out, stamp := 0, cadence := 0,
    group := false, alert := none, start := 0, sent := 0, received := 0, endCause := none, mark := false,
    signals := [] }

/-- The Call Controller after either reset (R165, R166). -/
def callsReset : CallController := { slots := { zero := slotReset, one := slotReset }, stamp := 0 }

/-- A period of silence: 80 samples of 0 (R136, R137). -/
def silence : List Int := List.replicate Config.periodSamples 0

/-- The Media Unit's state of one slot after either reset (R144). -/
def mediaSlotReset : MediaSlot :=
  { media := .off, seq := 0, resume := false, builder := none, due := none, play := .off, base := none,
    ring := Vector.replicate 16 none, age := 0, miss := 0, prev := none, playing := silence }

/-- The Media Unit's state of one port after either reset (R144). -/
def mediaPortReset : MediaPort := { dcIn := 0, dcOut := 0, phase := 0 }

/-- The Media Unit after either reset (R144, R145). -/
def mediaReset : MediaUnit :=
  { ports := { a := mediaPortReset, b := mediaPortReset },
    slots := { zero := mediaSlotReset, one := mediaSlotReset }, clips := 0, conceals := 0, second := 0 }

/-- The Fault Table after a power-up reset (R185). -/
def recordsReset : Vector FaultRecord 20 :=
  #v[FaultKind.record .lineDown, FaultKind.record .ride, FaultKind.record .retrain, FaultKind.record .stepDown,
     FaultKind.record .noRung, FaultKind.record .marginLow, FaultKind.record .severeRun,
     FaultKind.record .callRefused, FaultKind.record .callCut, FaultKind.record .callDropped,
     FaultKind.record .portParked, FaultKind.record .ringLimited, FaultKind.record .clipping,
     FaultKind.record .playoutLoss, FaultKind.record .priorityDrop, FaultKind.record .bulkDrop,
     FaultKind.record .reassemblyLoss, FaultKind.record .mainsLost, FaultKind.record .batteryLow,
     FaultKind.record .directiveRefused]

/-- The Fault Unit after a power-up reset (R185). -/
def faultUnitReset : FaultUnit :=
  { records := recordsReset, exchList := [], locList := [], uptime := 0, tick := 0, power := .mains,
    mains := true, batteryLow := false, mainsDiffer := 0, batteryDiffer := 0, since := 0, gaspSent := false }

/-- The Directive Unit after a power-up reset (R215, R217). -/
def directiveUnitReset : DirectiveUnit := { params := paramDefaults, manager := none, cause := .powerUp }

/-- The Test Responder after either reset (R202). -/
def testResponderReset : TestResponder := { probe := none, test := none }

/-- Three middle samples of one level. -/
def middleOf (level : Bool) : Middle := { s4 := level, s5 := level, s6 := level }

/-- The sample clock's phase as the model starts it: DESIGN CHOICE (log entry 5); the levels are those of the
debounced inputs after a power-up reset (R123, R185). -/
def clockReset : Clock :=
  { sampleInTick := 0, loopA := middleOf false, loopB := middleOf false, tripA := middleOf false,
    tripB := middleOf false, mains := middleOf true, batteryLow := middleOf false, tickInPeriod := 0,
    sampleInPeriod := 0 }

/-- Nothing sent yet: the model's own record of the outputs (log entry 4). -/
def outputsReset : Outputs := { xcvr := [], line := [], home := [], codec := { a := 0, b := 0 } }

end Sys2Proof.Machine
end

