-- ==== Sys2Proof/Machine/State.lean ====
section
/-! DEFINITION. The whole state of the AB-716 as plain data, the reasons a step can stop, and the state right after
a power-up reset. INVENTORY.md lists every field with the rule that names it. -/

namespace Sys2Proof.Machine

/-- The state: one structure per block of the block overview (00_scope.md), the counters of table 8, and the
model's own fields: the commands that wait (`pending`, first in first out), the phase of the sample clock, the record
of the outputs, and the number of free values used so far (log entry 11). -/
structure State where
  pending : List Instr
  bf : Framer
  ls : Supervisor
  lbu : Budget
  me : MatchEngine
  qm : QueueManager
  ppu : PhoneUnit
  cc : CallController
  mdu : MediaUnit
  fu : FaultUnit
  du : DirectiveUnit
  tr : TestResponder
  counters : Vector Nat 176
  clock : Clock
  out : Outputs
  free : Nat
deriving DecidableEq, Repr

/-- The machine has no fault that stops it: the spec's faults are records of the Fault Table (R167), which are
state. The type has no constructor; nothing raises it. -/
inductive Fault where
deriving DecidableEq, Repr

/-- Reasons a command is refused by the model itself. The refusals of directives (R205) are replies, not these. -/
inductive Refusal where
  /-- Raised by `exec`'s arm for a command that has no meaning yet: none is left. Safe. -/
  | notModelled (mnemonic : String)
deriving DecidableEq, Repr

/-- The part right after a power-up reset (R19, R48, R71, R95, R123, R144, R165, R185, R202, R215), before the
line is started: starting it is the last act of POWER_UP_RESET and follows the reset (R28, R215; log entry 6). -/
def State.reset : State :=
  { pending := [], bf := framerReset, ls := supervisorReset profileReset, lbu := budgetReset 0,
    me := matchEngineReset, qm := queuesReset, ppu := phoneReset cadencesReset, cc := callsReset,
    mdu := mediaReset, fu := faultUnitReset, du := directiveUnitReset, tr := testResponderReset,
    counters := Vector.replicate 176 0, clock := clockReset, out := outputsReset, free := 0 }

end Sys2Proof.Machine
end

