-- ==== Sys2Proof/Machine/Counters.lean ====
section
/-! DEFINITION. The numbers of the 176 counters of table 8 (R220): one name each, block by block, in the order of
the chapters' counter tables. -/

namespace Sys2Proof.Machine

/-! Block Framer (R18), 0 to 25 -/

abbrev Ctr.blocksSent : Counter := 0
abbrev Ctr.fillSent : Counter := 1
abbrev Ctr.goodReceived : Counter := 2
abbrev Ctr.crcBad : Counter := 3
abbrev Ctr.fillReceived : Counter := 4
abbrev Ctr.unknownChannel : Counter := 5
abbrev Ctr.offLine : Counter := 6
abbrev Ctr.sequenceGaps : Counter := 7
abbrev Ctr.malformed : Counter := 8
abbrev Ctr.orphans : Counter := 9
abbrev Ctr.oversizeFrames : Counter := 10
abbrev Ctr.framesAbandoned : Counter := 11
abbrev Ctr.framesCutShort : Counter := 12
abbrev Ctr.badVoiceKind : Counter := 13

/-- The place of a channel among those that carry frames, 0 to 3, 14, 15 (R18): 0 to 5 (the others never carry one). -/
def sixth (c : Chan) : Fin 6 :=
  if c = 0 then 0 else if c = 1 then 1 else if c = 2 then 2 else if c = 3 then 3 else if c = 14 then 4 else 5

/-- frames sent, per channel (R7) -/
def Ctr.framesSent (c : Chan) : Counter := ⟨14 + (sixth c).val, by omega⟩
/-- frames delivered, per channel (R15) -/
def Ctr.framesDelivered (c : Chan) : Counter := ⟨20 + (sixth c).val, by omega⟩

/-! Line Supervisor (R46), 26 to 40 -/

abbrev Ctr.trainingsStarted : Counter := 26
abbrev Ctr.trainingsSucceeded : Counter := 27
abbrev Ctr.noTrainReceived : Counter := 28
abbrev Ctr.trainTimerExpiries : Counter := 29
abbrev Ctr.trainingsBelowFloor : Counter := 30
abbrev Ctr.ratesClamped : Counter := 31
abbrev Ctr.rides : Counter := 32
abbrev Ctr.ridesEndedBySyncBack : Counter := 33
abbrev Ctr.rideExpiries : Counter := 34
abbrev Ctr.holdLimitExpiries : Counter := 35
abbrev Ctr.waitsEntered : Counter := 36
abbrev Ctr.transceiverSilent : Counter := 37
abbrev Ctr.strayMessages : Counter := 38
abbrev Ctr.stepDowns : Counter := 39
abbrev Ctr.stepUps : Counter := 40

/-! Line Budget Unit (R70), 41 to 52 -/

abbrev Ctr.periodsCarried : Counter := 41
abbrev Ctr.emptyPeriods : Counter := 42
abbrev Ctr.admissionsGranted : Counter := 43
abbrev Ctr.admissionsRefused : Counter := 44
abbrev Ctr.callsCut : Counter := 45
abbrev Ctr.staleVoice : Counter := 46
abbrev Ctr.grantedUrgent : Counter := 47
abbrev Ctr.grantedVoice : Counter := 48
abbrev Ctr.grantedControl : Counter := 49
abbrev Ctr.grantedTest : Counter := 50
abbrev Ctr.grantedData : Counter := 51
abbrev Ctr.grantedOperations : Counter := 52

/-! Home port, Match Engine, Queue Manager (R94), 53 to 77 -/

abbrev Ctr.framesReceived : Counter := 53
abbrev Ctr.lengthErrors : Counter := 54
abbrev Ctr.fcsErrors : Counter := 55
abbrev Ctr.managementFrames : Counter := 56
abbrev Ctr.upDropped : Counter := 57
abbrev Ctr.priorityQueued : Counter := 58
abbrev Ctr.bulkQueued : Counter := 59
abbrev Ctr.priorityTailDrops : Counter := 60
abbrev Ctr.bulkTailDrops : Counter := 61
abbrev Ctr.bulkShed : Counter := 62
abbrev Ctr.downRunts : Counter := 63
abbrev Ctr.downOversize : Counter := 64
abbrev Ctr.downDropped : Counter := 65

/-- FIFO full, per kind (R90); a local notice is declined, not discarded (R92) -/
def Ctr.fifoFull : FifoKind → Counter
  | .delivered => 66 | .localReply => 67 | .arpAnswer => 68 | .localNotice => 77
/-- lost to home link down, per kind (R90, R93) -/
def Ctr.lostLinkDown : FifoKind → Counter
  | .delivered => 69 | .localReply => 70 | .localNotice => 71 | .arpAnswer => 72
/-- items sent, per kind (R91) -/
def Ctr.itemsSent : FifoKind → Counter
  | .delivered => 73 | .localReply => 74 | .localNotice => 75 | .arpAnswer => 76
abbrev Ctr.noticeDeclined : Counter := 77

/-! Phone Port Unit (R122), 78 to 103: the thirteen of port A, then the thirteen of port B -/

def Ctr.offHooks : Port → Counter | .a => 78 | .b => 91
def Ctr.answers : Port → Counter | .a => 79 | .b => 92
def Ctr.onHooks : Port → Counter | .a => 80 | .b => 93
def Ctr.loopGlitches : Port → Counter | .a => 81 | .b => 94
def Ctr.dialPulses : Port → Counter | .a => 82 | .b => 95
def Ctr.digits : Port → Counter | .a => 83 | .b => 96
def Ctr.badDigits : Port → Counter | .a => 84 | .b => 97
def Ctr.digitsWithoutCall : Port → Counter | .a => 85 | .b => 98
def Ctr.digitsAbandoned : Port → Counter | .a => 86 | .b => 99
def Ctr.flashes : Port → Counter | .a => 87 | .b => 100
def Ctr.flashesIgnored : Port → Counter | .a => 88 | .b => 101
def Ctr.ringStarts : Port → Counter | .a => 89 | .b => 102
def Ctr.parks : Port → Counter | .a => 90 | .b => 103

/-! Media Unit (R143), 104 to 118: a per-slot row is slot 0, then slot 1 -/

def Ctr.framesBuilt : Slot → Counter | .zero => 104 | .one => 105
abbrev Ctr.badMediaLength : Counter := 106
def Ctr.mediaWithoutCall : Slot → Counter | .zero => 107 | .one => 108
def Ctr.resumes : Slot → Counter | .zero => 109 | .one => 110
def Ctr.duplicates : Slot → Counter | .zero => 111 | .one => 112
def Ctr.overruns : Slot → Counter | .zero => 113 | .one => 114
def Ctr.lateFrames : Slot → Counter | .zero => 115 | .one => 116
abbrev Ctr.clips : Counter := 117
abbrev Ctr.concealments : Counter := 118

/-! Call Controller (R164), 119 to 131 -/

abbrev Ctr.callsOriginated : Counter := 119
abbrev Ctr.callsJoined : Counter := 120
abbrev Ctr.callsAlerted : Counter := 121
abbrev Ctr.callsAnswered : Counter := 122
abbrev Ctr.alertsUnanswered : Counter := 123
abbrev Ctr.originationsRefused : Counter := 124
abbrev Ctr.alertsRefused : Counter := 125
abbrev Ctr.callsDropped : Counter := 126
abbrev Ctr.refreshes : Counter := 127
abbrev Ctr.signalsLost : Counter := 128
abbrev Ctr.signalsDiscarded : Counter := 129
abbrev Ctr.badSignals : Counter := 130
abbrev Ctr.exchangeSignalsIgnored : Counter := 131

/-! Fault Unit (R184), 132 to 141 -/

abbrev Ctr.occurrences : Counter := 132
abbrev Ctr.itemsEnteredExch : Counter := 133
abbrev Ctr.itemsEnteredLoc : Counter := 134
abbrev Ctr.repeatsCoalesced : Counter := 135
abbrev Ctr.itemsRemoved : Counter := 136
abbrev Ctr.exchNoticesSent : Counter := 137
abbrev Ctr.locNoticesQueued : Counter := 138
abbrev Ctr.gaspsSent : Counter := 139
abbrev Ctr.gaspClaimsDropped : Counter := 140
abbrev Ctr.powerChanges : Counter := 141

/-! Match Engine and Test Responder (R201), 142 to 158 -/

abbrev Ctr.quietEntries : Counter := 142
abbrev Ctr.wakeFrames : Counter := 143
abbrev Ctr.quietDiscarded : Counter := 144
abbrev Ctr.wakes : Counter := 145
abbrev Ctr.arpAnswers : Counter := 146
abbrev Ctr.badProbes : Counter := 147
abbrev Ctr.probesAnswered : Counter := 148
abbrev Ctr.probeReplaced : Counter := 149
abbrev Ctr.probeDiscarded : Counter := 150
abbrev Ctr.loopbacksStarted : Counter := 151
abbrev Ctr.loopbackLimitExpiries : Counter := 152
abbrev Ctr.loopedLost : Counter := 153
abbrev Ctr.loopedSent : Counter := 154
abbrev Ctr.loopedDiscarded : Counter := 155
abbrev Ctr.portTestsStarted : Counter := 156
abbrev Ctr.testResultsSent : Counter := 157
abbrev Ctr.testResultsLost : Counter := 158

/-! Directive Unit (R217), 159 to 175 -/

def Ctr.received : Authority → Counter | .loc => 159 | .exch => 160
abbrev Ctr.directivesMalformed : Counter := 161
abbrev Ctr.exchangeDiscarded : Counter := 162
abbrev Ctr.repliesDone : Counter := 163
/-- replies refused, per status 1 to 9 (R217) -/
def Ctr.repliesRefused (status : Fin 9) : Counter := ⟨164 + status.val, by omega⟩
def Ctr.notOwner : Authority → Counter | .loc => 173 | .exch => 174
abbrev Ctr.paramsClamped : Counter := 175

end Sys2Proof.Machine
end

