-- ==== Sys2Proof/Machine/Ops.lean ====
section
/-! DEFINITION. The named operations every block's rules are written with: reading and updating one port, slot,
channel, record, parameter or counter; timers; the outputs. -/

namespace Sys2Proof.Machine

/-! ## Tables of a fixed size -/

/-- The entry of a table at an index. -/
def vget {α : Type} {n : Nat} (v : Vector α n) (i : Fin n) : α := v[i.val]'i.isLt

/-- A table with one entry replaced. -/
def vset {α : Type} {n : Nat} (v : Vector α n) (i : Fin n) (x : α) : Vector α n := v.set i.val x i.isLt

/-! ## Ports and slots -/

/-- The value of a port. -/
def PerPort.get {α : Type} (t : PerPort α) : Port → α
  | .a => t.a
  | .b => t.b

/-- The value of a port replaced. -/
def PerPort.set {α : Type} (t : PerPort α) (p : Port) (x : α) : PerPort α :=
  match p with
  | .a => { t with a := x }
  | .b => { t with b := x }

/-- The value of a slot. -/
def PerSlot.get {α : Type} (t : PerSlot α) : Slot → α
  | .zero => t.zero
  | .one => t.one

/-- The value of a slot replaced. -/
def PerSlot.set {α : Type} (t : PerSlot α) (n : Slot) (x : α) : PerSlot α :=
  match n with
  | .zero => { t with zero := x }
  | .one => { t with one := x }

end Sys2Proof.Machine

namespace Sys2Proof

/-- The other port. -/
def Port.other : Port → Port
  | .a => .b
  | .b => .a

/-- The other slot. -/
def Slot.other : Slot → Slot
  | .zero => .one
  | .one => .zero

/-- The port's number on the wire: 1 for A, 2 for B (section 11.2). -/
def Port.code : Port → Nat
  | .a => 1
  | .b => 2

/-- The slot's number. -/
def Slot.number : Slot → Nat
  | .zero => 0
  | .one => 1

/-- The voice channel of a slot (R146). -/
def Slot.chan : Slot → Machine.Chan
  | .zero => 0
  | .one => 1

end Sys2Proof

namespace Sys2Proof.Machine

/-- Whether a port is in a set. -/
def PortSet.has (t : PortSet) : Port → Bool
  | .a => t.a
  | .b => t.b

/-- A set with one port put in or taken out. -/
def PortSet.put (t : PortSet) (p : Port) (b : Bool) : PortSet :=
  match p with
  | .a => { t with a := b }
  | .b => { t with b := b }

/-- Whether a set holds no port. -/
def PortSet.isEmpty (t : PortSet) : Bool := !t.a && !t.b

/-- The ports of a set, A before B. -/
def PortSet.toList (t : PortSet) : List Port := (if t.a then [.a] else []) ++ (if t.b then [.b] else [])

/-- How many ports a set holds. -/
def PortSet.card (t : PortSet) : Nat := t.a.toNat + t.b.toNat

/-- A set's mask byte: bit 0 for A, bit 1 for B (section 11.2). -/
def PortSet.mask (t : PortSet) : Nat := t.a.toNat + 2 * t.b.toNat

/-! ## Updating one block -/

/-- The Block Framer updated. -/
def onBf (f : Framer → Framer) (s : State) : State := { s with bf := f s.bf }
/-- The Line Supervisor updated. -/
def onLs (f : Supervisor → Supervisor) (s : State) : State := { s with ls := f s.ls }
/-- The budget record updated. -/
def onLbu (f : Budget → Budget) (s : State) : State := { s with lbu := f s.lbu }
/-- The Match Engine updated. -/
def onMe (f : MatchEngine → MatchEngine) (s : State) : State := { s with me := f s.me }
/-- The Queue Manager updated. -/
def onQm (f : QueueManager → QueueManager) (s : State) : State := { s with qm := f s.qm }
/-- The Phone Port Unit updated. -/
def onPpu (f : PhoneUnit → PhoneUnit) (s : State) : State := { s with ppu := f s.ppu }
/-- The Call Controller updated. -/
def onCc (f : CallController → CallController) (s : State) : State := { s with cc := f s.cc }
/-- The Media Unit updated. -/
def onMdu (f : MediaUnit → MediaUnit) (s : State) : State := { s with mdu := f s.mdu }
/-- The Fault Unit updated. -/
def onFu (f : FaultUnit → FaultUnit) (s : State) : State := { s with fu := f s.fu }
/-- The Directive Unit updated. -/
def onDu (f : DirectiveUnit → DirectiveUnit) (s : State) : State := { s with du := f s.du }
/-- The Test Responder updated. -/
def onTr (f : TestResponder → TestResponder) (s : State) : State := { s with tr := f s.tr }
/-- The clock's phase updated. -/
def onClock (f : Clock → Clock) (s : State) : State := { s with clock := f s.clock }
/-- The outputs updated. -/
def onOut (f : Outputs → Outputs) (s : State) : State := { s with out := f s.out }

/-! ## One port, slot, channel, record, parameter, counter -/

/-- A port of the Phone Port Unit. -/
def State.port (s : State) (p : Port) : PortUnit := s.ppu.ports.get p

/-- A port of the Phone Port Unit updated. -/
def onPort (p : Port) (f : PortUnit → PortUnit) : State → State :=
  onPpu fun u => { u with ports := u.ports.set p (f (u.ports.get p)) }

/-- A slot record of the Call Table. -/
def State.call (s : State) (n : Slot) : CallSlot := s.cc.slots.get n

/-- A slot record updated. -/
def onCall (n : Slot) (f : CallSlot → CallSlot) : State → State :=
  onCc fun c => { c with slots := c.slots.set n (f (c.slots.get n)) }

/-- A slot of the Media Unit. -/
def State.media (s : State) (n : Slot) : MediaSlot := s.mdu.slots.get n

/-- A slot of the Media Unit updated. -/
def onMedia (n : Slot) (f : MediaSlot → MediaSlot) : State → State :=
  onMdu fun u => { u with slots := u.slots.set n (f (u.slots.get n)) }

/-- A port of the Media Unit. -/
def State.mediaPort (s : State) (p : Port) : MediaPort := s.mdu.ports.get p

/-- A port of the Media Unit updated. -/
def onMediaPort (p : Port) (f : MediaPort → MediaPort) : State → State :=
  onMdu fun u => { u with ports := u.ports.set p (f (u.ports.get p)) }

/-- A channel of the framer. -/
def State.chan (s : State) (c : Chan) : Channel := vget s.bf.channels c

/-- A channel of the framer updated. -/
def onChan (c : Chan) (f : Channel → Channel) : State → State :=
  onBf fun b => { b with channels := vset b.channels c (f (vget b.channels c)) }

/-- A fault record (R168). -/
def State.fault (s : State) (k : FaultKind) : FaultRecord := vget s.fu.records k.index

/-- A fault record replaced. -/
def setRec (k : FaultKind) (r : FaultRecord) : State → State :=
  onFu fun u => { u with records := vset u.records k.index r }

/-- Whether a condition is active (R168). -/
def State.isActive (s : State) (k : FaultKind) : Bool := (s.fault k).active

/-- A parameter's stored value (R209). -/
def State.param (s : State) (p : Param) : Nat := vget s.du.params p.index

/-- A parameter's stored value replaced (R209). -/
def setParam (p : Param) (v : Nat) : State → State :=
  onDu fun d => { d with params := vset d.params p.index v }

/-- A counter's value (R210). -/
def State.counter (s : State) (c : Counter) : Nat := vget s.counters c

/-- A counter increased by `k`, saturating at 32 bits (00_scope.md, Counters and time). -/
def bumpBy (c : Counter) (k : Nat) (s : State) : State :=
  { s with counters := vset s.counters c (satAdd Config.max32 (vget s.counters c) k) }

/-- A counter increased by one. -/
def bump (c : Counter) : State → State := bumpBy c 1

/-- Apply a change only when a condition holds. -/
def whenever (b : Bool) (f : State → State) (s : State) : State := if b then f s else s

/-! ## Timers (section 2.1) -/

/-- A timer of `ms` milliseconds, started. -/
def startMs (ms : Nat) : Timer := { limit := ms, elapsed := 0 }

/-- A timer of `sec` seconds, started. -/
def startSec (sec : Nat) : Timer := startMs (1000 * sec)

/-- A timer one tick later. -/
def Timer.tick (t : Timer) : Timer := { t with elapsed := t.elapsed + 1 }

/-- Whether a running timer has reached its limit. -/
def timerDue (t : Option Timer) : Bool :=
  match t with
  | some t => t.limit ≤ t.elapsed
  | none => false

/-- The seconds a running timer has left: the whole seconds, and one more for a part of a second where the free value
`Config.partSecond` says so (log entry 9). -/
def Timer.remaining (t : Timer) : Nat :=
  let left := t.limit - t.elapsed
  left / 1000 + (left % 1000 != 0 && Config.partSecond left).toNat

/-! ## Outputs (log entry 4) -/

/-- A message sent to the transceiver (R20). -/
def sendXcvr (m : XcvrMsg) : State → State := onOut fun o => { o with xcvr := o.xcvr ++ [m] }

/-- A line block emitted to the transceiver (R52). -/
def sendBlock (b : Bytes) : State → State := onOut fun o => { o with line := o.line ++ [b] }

/-- A frame sent on the home port (R91). -/
def sendHome (f : Bytes) : State → State := onOut fun o => { o with home := o.home ++ [f] }

end Sys2Proof.Machine
end

