-- ==== Sys2Proof/Machine/Flags.lean ====
section
/-! DEFINITION. Everything that is computed from the state and held nowhere: the figures of the budget, the
number of non-FREE slots, the ring outputs and who holds the ringer, the power state, the choice of a rung, and
the conditions of the step-up. -/

namespace Sys2Proof.Machine

/-! ## The budget's figures (chapter 3) -/

/-- S in bytes (section 1.2). -/
def BlockSize.bytes : BlockSize → Nat
  | .b32 => 32
  | .b64 => 64
  | .b128 => 128

/-- The payload area P = S - 6 bytes (section 1.2). -/
def BlockSize.payload : BlockSize → Nat
  | .b32 => 26
  | .b64 => 58
  | .b128 => 122

/-- F(S), the blocks of a voice frame (R50). -/
def BlockSize.voiceBlocks : BlockSize → Nat
  | .b32 => 4
  | .b64 => 2
  | .b128 => 1

/-- The block size code of a rung (R24). -/
def BlockSize.code : BlockSize → Nat
  | .b32 => 0
  | .b64 => 1
  | .b128 => 2

/-- B, the raw bits of a period (R50). -/
def Budget.bits (b : Budget) : Nat := 10 * b.rate

/-- 8S, the bits of a block (R52). -/
def Budget.blockBits (b : Budget) : Nat := 8 * b.size.bytes

/-- s, the sustained blocks (R54). -/
def Budget.sustained (b : Budget) : Nat := b.bits * b.eff / 512 / b.blockBits

/-- The non-FREE slots. -/
def State.nonFree (s : State) (n : Slot) : Bool := (s.call n).state != .free

/-- v, the reserved count: the number of non-FREE slots (R56). -/
def State.reserved (s : State) : Nat := (s.nonFree .zero).toNat + (s.nonFree .one).toNat

/-- Whether any slot is non-FREE (R27). -/
def State.inUse (s : State) : Bool := s.nonFree .zero || s.nonFree .one

/-- The blocks that `v` slots, the control block and a data floor need (R57). -/
def State.needed (s : State) (v floor : Nat) : Nat := v * s.lbu.size.voiceBlocks + 1 + floor

/-- The bound of R58 and R60 with the present count: it is not required while v is 0. -/
def State.boundHolds (s : State) (floor : Nat) : Bool :=
  s.reserved == 0 || s.needed s.reserved floor ≤ s.lbu.sustained

/-! ## Line states -/

/-- Whether the line carries. -/
def State.carrying (s : State) : Bool := s.ls.link == .carrying

/-- The link states from which a loss of the line is reported (R39). -/
def LinkState.wasUp : LinkState → Bool
  | .carrying | .riding | .retraining => true
  | .stopped | .training | .waiting => false

/-- The link states entered on such a loss (R39). -/
def LinkState.isDown : LinkState → Bool
  | .training | .waiting | .stopped => true
  | .carrying | .riding | .retraining => false

/-- The link states in which the line is held (R161). -/
def LinkState.isHold : LinkState → Bool
  | .riding | .retraining => true
  | .stopped | .training | .carrying | .waiting => false

/-! ## The ladder (R26) -/

/-- The rungs in ascending index order. -/
def rungList : List (Fin 8) := [0, 1, 2, 3, 4, 5, 6, 7]

/-- Whether a rung is valid. -/
def State.rungValid (s : State) (i : Fin 8) : Bool := (vget s.ls.profile i).valid

/-- The nearest valid rung below, of a greater index. -/
def State.rungBelow (s : State) (i : Fin 8) : Option (Fin 8) :=
  rungList.find? fun j => i < j && s.rungValid j

/-- The nearest valid rung above, of a smaller index. -/
def State.rungAbove (s : State) (i : Fin 8) : Option (Fin 8) :=
  rungList.reverse.find? fun j => j < i && s.rungValid j

/-- The rung chosen from `i`: itself if valid, else the nearest valid one below, else the valid rung of the lowest
index (R26). The ladder always holds a rung (R24); were it empty, the choice would be `i`. -/
def State.rungFrom (s : State) (i : Fin 8) : Fin 8 :=
  if s.rungValid i then i
  else match s.rungBelow i with
    | some j => j
    | none => (rungList.find? fun j => s.rungValid j).getD i

/-- The start rung parameter as a rung (R26). -/
def State.startParam (s : State) : Fin 8 := Fin.ofNat 8 (s.param .startRung)

/-- The start rung (R26). -/
def State.startRung (s : State) : Fin 8 := s.rungFrom s.startParam

/-- The same rung (R26). -/
def State.sameRung (s : State) : Fin 8 := s.rungFrom s.ls.rung

/-- The next rung up of a step-up, at or above the start rung parameter (R45). -/
def State.stepUpRung (s : State) : Option (Fin 8) :=
  match s.rungAbove s.ls.rung with
  | some j => if s.param .startRung ≤ j.val then some j else none
  | none => none

/-- The step-up conditions and the rung they lead to (R45); whether every slot is FREE is asked separately. -/
def State.stepUpDue (s : State) : Option (Fin 8) :=
  match s.stepUpRung with
  | some j =>
    if min (s.param .stepUpPeriod) Config.max16 ≤ s.ls.cleanRun ∧
        (vget s.ls.profile j).minMargin + (s.param .marginHysteresis : Int) ≤ s.ls.margin then some j else none
  | none => none

/-- The severe grades counted for SEVERE_RUN: those among the newest entries, as many as grades since training
(R42). -/
def State.severeCount (s : State) : Nat :=
  (s.ls.history.drop (s.ls.history.length - s.ls.gradesSince)).countP (· == Grade.severe)

/-- The grade of the second from its accumulators (R41). -/
def State.grade (s : State) : Grade :=
  if s.param .severeThreshold ≤ s.ls.crcBad || s.ls.syncLostMark then .severe
  else if 1 ≤ s.ls.crcBad || s.ls.gapMark then .errored
  else .clean

/-! ## Ringing -/

/-- Whether a channel runs in ring mode. -/
def CadenceChannel.isRing (c : CadenceChannel) : Bool :=
  match c.mode with
  | .ring _ => true
  | .tone _ => false

/-- Whether a port is in a ring-on segment (R98, R99): its channel runs in ring mode in an on segment. -/
def PortUnit.inRingOn (u : PortUnit) : Bool :=
  match u.chan with
  | some c => c.isRing && c.on
  | none => false

/-- Whether a port's channel runs in ring mode. -/
def PortUnit.inRingMode (u : PortUnit) : Bool :=
  match u.chan with
  | some c => c.isRing
  | none => false

/-- A port's ring output (R117): RINGING or TESTING, with its channel in ring mode in an on segment. -/
def State.ringOutput (s : State) (p : Port) : Bool :=
  ((s.port p).state == .ringing || (s.port p).state == .testing) && (s.port p).inRingOn

/-- Whether a port holds the ringer (R120): RINGING, or TESTING with its channel in ring mode. -/
def State.holdsRinger (s : State) (p : Port) : Bool :=
  (s.port p).state == .ringing || ((s.port p).state == .testing && (s.port p).inRingMode)

/-- Whether a cadence is empty: eight durations of 0 (R114). -/
def Cadence.isEmpty (c : Cadence) : Bool := c.durations.toList.all (· == 0)

/-- Whether every on segment of a cadence, odd in the playing order, is 0 (R119). -/
def Cadence.noOnSegment (c : Cadence) : Bool :=
  vget c.durations 0 == 0 && vget c.durations 2 == 0 && vget c.durations 4 == 0 && vget c.durations 6 == 0

/-- Whether a port of a test has been answered: its test is past the RING phase (R100, R101). -/
def State.testAnswered (s : State) (p : Port) : Bool :=
  match s.tr.test with
  | some t => t.port == p && t.phase != .ring
  | none => false

/-- Whether a port's loop is measured as that of a lifted handset: IN_CALL, RELEASED, LOCAL_TONE, PARKED, or
TESTING after the test's answer (R100, R101). -/
def State.offHook (s : State) (p : Port) : Bool :=
  match (s.port p).state with
  | .inCall | .released | .localTone | .parked => true
  | .testing => s.testAnswered p
  | .disabled | .idle | .ringing => false

/-- Whether a port is in the echo phase of a test, in which its samples are taken (R126, R199). -/
def State.echoing (s : State) (p : Port) : Bool :=
  (s.port p).state == .testing &&
    match s.tr.test with
    | some t => t.port == p && t.phase == .echo
    | none => false

/-! ## Power (R181) -/

/-- The power state of two debounced inputs (R181). -/
def powerOf (mains batteryLow : Bool) : PowerState :=
  if mains then .mains else if batteryLow then .low else .battery

/-- Whether the power state is other than MAINS. -/
def State.onBattery (s : State) : Bool := s.fu.power != .mains

/-! ## Calls -/

/-- The slot a port is attached to (R146). -/
def State.slotOf (s : State) (p : Port) : Option Slot :=
  if (s.call .zero).attached.has p then some .zero
  else if (s.call .one).attached.has p then some .one
  else none

/-- The slot whose ring set holds a port (R146). -/
def State.ringSlotOf (s : State) (p : Port) : Option Slot :=
  if (s.call .zero).ringSet.has p then some .zero
  else if (s.call .one).ringSet.has p then some .one
  else none

/-- The lowest-numbered FREE slot (R151). -/
def State.lowestFree (s : State) : Option Slot :=
  if !s.nonFree .zero then some .zero else if !s.nonFree .one then some .one else none

/-- Whether a slot can be joined: CONNECTED with exactly one port attached (R151). -/
def State.joinable (s : State) (n : Slot) : Bool :=
  (s.call n).state == .connected && (s.call n).attached.card == 1

/-- The slot an off-hook joins under JOIN, the lower number if both qualify (R151). -/
def State.joinSlot (s : State) : Option Slot :=
  if s.param .joinPolicy == 1 then
    if s.joinable .zero then some .zero else if s.joinable .one then some .one else none
  else none

/-- The media state a slot's record calls for (R125). -/
def CallSlot.mediaState (c : CallSlot) : MediaState :=
  match c.state with
  | .originating | .connected => if c.held then .held else .flowing
  | .free | .alerting => .off

/-! ## Loopback -/

/-- A loopback channel as a line channel (R195). -/
def LoopChannel.chan : LoopChannel → Chan
  | .three => 3
  | .fourteen => 14

/-- Whether line loopback holds a channel (R17). -/
def State.looped (s : State) (c : Chan) : Bool :=
  match s.ls.loopback with
  | some l => l.channel.chan == c
  | none => false

end Sys2Proof.Machine
end

