-- ==== Sys2Proof/Machine/Faults.lean ====
section
/-! DEFINITION. The Fault Unit's records and pending notice lists (R167 to R177), with the two neighbours an
occurrence reaches in the same act: the downstream FIFO that takes a local notice (R90, R92) and the wake pin
(R190). -/

namespace Sys2Proof.Machine

/-! ## The downstream FIFO (R90) -/

/-- The FIFO's fill: the sum of its items' sizes (R90). -/
def QueueManager.fill (q : QueueManager) : Nat := (q.fifo.map fun i => i.bytes.length).sum

/-- Whether a frame joins the FIFO when offered: the link is up and it fits (R90). -/
def State.fifoTakes (s : State) (frame : Bytes) : Bool :=
  s.qm.homeUp && s.qm.fill + frame.length ≤ Config.fifoBytes

/-- An item put at the back of the FIFO. -/
def pushFifo (kind : FifoKind) (frame : Bytes) : State → State :=
  onQm fun q => { q with fifo := q.fifo ++ [{ kind := kind, bytes := frame }] }

/-- A delivered frame, a local reply or an ARP answer offered to the FIFO: it joins, or it is discarded and
counted (R90). -/
def offerFifo (kind : FifoKind) (frame : Bytes) (s : State) : State :=
  if s.fifoTakes frame then pushFifo kind frame s
  else bump (if s.qm.homeUp then Ctr.fifoFull kind else Ctr.lostLinkDown kind) s

/-- An Ethernet frame without a tag: destination, source, type value, payload (R76). -/
def etherFrame (dest src : Mac) (typeValue : Nat) (payload : Bytes) : Bytes :=
  be48 dest.toNat ++ be48 src.toNat ++ be16 typeValue ++ payload

/-- The own address parameter (R90). -/
def State.ownAddress (s : State) : Mac := BitVec.ofNat 48 (s.param .ownAddress)

/-- Where local messages go: the local manager address, or broadcast until one is known (R90). -/
def State.localDest (s : State) : Mac := s.du.manager.getD (BitVec.allOnes 48)

/-- A management message as a frame to the local authority (R203, section 11.8). -/
def State.localFrame (s : State) (msg : Bytes) : Bytes := etherFrame s.localDest s.ownAddress 0x9A21 msg

/-! ## Notices (R175) -/

/-- A notice message, 18 bytes: from the item its kind, level and repeats, from the record the rest (R175, section
11.4). -/
def noticeMsg (i : PendingItem) (r : FaultRecord) : Bytes :=
  [1, 0x90] ++ be16 0 ++ be16 12 ++
    [byteOf i.kind.number, byteOf i.level, byteOf i.repeats, byteBool r.active] ++ be16 r.count ++ be16 r.detail ++
    be32 r.last

/-- The notice of an item as it stands (R175). -/
def State.notice (s : State) (i : PendingItem) : Bytes := noticeMsg i (s.fault i.kind)

/-! ## The wake pin (R190) -/

/-- The wake pin asserted; a change from deasserted is counted (R190). -/
def assertWake (s : State) : State :=
  if s.me.wake then s else s |> onMe (fun m => { m with wake := true }) |> bump Ctr.wakes

/-! ## Pending notice lists (R174) -/

/-- The order of a pending list: level descending, then entry second ascending, then kind ascending (R174). -/
def PendingItem.before (x y : PendingItem) : Bool :=
  y.level < x.level ||
    (x.level == y.level && (x.entry < y.entry || (x.entry == y.entry && x.kind.number < y.kind.number)))

/-- A new item takes its place in the order (R174). -/
def insertItem (x : PendingItem) : List PendingItem → List PendingItem
  | [] => [x]
  | y :: ys => if x.before y then x :: y :: ys else y :: insertItem x ys

/-- One more repeat for the item of a kind, saturating at 255 (R174). -/
def coalesce (k : FaultKind) (l : List PendingItem) : List PendingItem :=
  l.map fun i => if i.kind = k then { i with repeats := satAdd Config.max8 i.repeats 1 } else i

/-- Whether a list holds an item of a kind. -/
def holdsKind (k : FaultKind) (l : List PendingItem) : Bool := l.any fun i => i.kind == k

/-- A list without the item of a kind. -/
def removeKind (k : FaultKind) (l : List PendingItem) : List PendingItem := l.filter fun i => i.kind != k

/-- The new item of an occurrence: level at entry, entry second, one repeat (R174). -/
def State.newItem (s : State) (k : FaultKind) (level : Nat) : PendingItem :=
  { kind := k, level := level, entry := s.fu.uptime, repeats := 1 }

/-- An authority's pending list updated. -/
def onList (a : Authority) (f : List PendingItem → List PendingItem) : State → State :=
  onFu fun u => match a with
    | .loc => { u with locList := f u.locList }
    | .exch => { u with exchList := f u.exchList }

/-- Offers of the local list's head to the FIFO, at most `n`, until one does not join or the list is empty; none is
made while the home link is down or the part is quiet (R177, R92). -/
def drainLocal : Nat → State → State
  | 0, s => s
  | n + 1, s =>
    if s.qm.homeUp && !s.me.quiet then
      match s.fu.locList with
      | [] => s
      | i :: rest =>
        let frame := s.localFrame (s.notice i)
        if s.fifoTakes frame then
          s |> pushFifo .localNotice frame |> onList .loc (fun _ => rest) |> bump Ctr.locNoticesQueued |> drainLocal n
        else bump Ctr.noticeDeclined s
    else s

/-- The Fault Unit offers the head of the local list, and the next head at once each time one joins (R177). -/
def offerLocal (s : State) : State := drainLocal s.fu.locList.length s

/-- An occurrence enters its kind into the exchange list, or coalesces (R174). -/
def enterExch (k : FaultKind) (level : Nat) (s : State) : State :=
  if holdsKind k s.fu.exchList then s |> onList .exch (coalesce k) |> bump Ctr.repeatsCoalesced
  else s |> onList .exch (insertItem (s.newItem k level)) |> bump Ctr.itemsEnteredExch

/-- An occurrence enters its kind into the local list, or coalesces; a new item of high enough level wakes the
host while quiet (R174, R190); then the head is offered (R177). -/
def enterLoc (k : FaultKind) (level : Nat) (s : State) : State :=
  if holdsKind k s.fu.locList then s |> onList .loc (coalesce k) |> bump Ctr.repeatsCoalesced |> offerLocal
  else
    s |> onList .loc (insertItem (s.newItem k level)) |> bump Ctr.itemsEnteredLoc
      |> whenever (s.me.quiet && s.param .wakeLevel ≤ level) assertWake |> offerLocal

/-! ## Occurrences and ends (R169, R170) -/

/-- The record after an occurrence (R169). -/
def FaultRecord.occurred (r : FaultRecord) (condition : Bool) (now detail : Nat) : FaultRecord :=
  { r with count := satAdd Config.max16 r.count 1, first := if r.count = 0 then now else r.first, last := now,
           detail := detail % 65536, active := condition, locLatch := true, exchLatch := true }

/-- A report of an event, or of a condition becoming active: an occurrence unless the condition is active already
(R169). -/
def occurrence (k : FaultKind) (detail : Nat) (s : State) : State :=
  if k.isCondition && s.isActive k then s
  else
    let r := s.fault k
    s |> setRec k (r.occurred k.isCondition s.fu.uptime detail) |> bump Ctr.occurrences
      |> whenever (1 ≤ r.exchLevel) (enterExch k r.exchLevel)
      |> whenever (1 ≤ r.locLevel) (enterLoc k r.locLevel)

/-- A report of a condition's end: the record is no longer active and nothing else changes (R170). -/
def endCondition (k : FaultKind) (s : State) : State := setRec k { s.fault k with active := false } s

/-- A completed exchange notice takes the repeats it carried from its item, which leaves the list when none
remains (R176). -/
def takeRepeats (k : FaultKind) (carried : Nat) (l : List PendingItem) : List PendingItem :=
  l.filterMap fun i =>
    if i.kind = k then (if i.repeats ≤ carried then none else some { i with repeats := i.repeats - carried })
    else some i

/-- An exchange notice has completed (R176). -/
def noticeDone (k : FaultKind) (carried : Nat) (s : State) : State :=
  s |> onList .exch (takeRepeats k carried) |> bump Ctr.exchNoticesSent

end Sys2Proof.Machine
end

