-- ==== Sys2Proof/Machine/Framer.lean ====
section
/-! DEFINITION. The Block Framer (01_line_blocks_and_channels.md): building and emitting line blocks, segmentation,
frames that leave or are cut short, reassembly contexts abandoned, and the loop store. -/

namespace Sys2Proof.Machine

/-- The sixteen channels in ascending order. -/
def chanList : List Chan := [0, 1, 2, 3, 4, 5, 6, 7, 8, 9, 10, 11, 12, 13, 14, 15]

/-- The largest frame of a channel in use (R1); channels 4 to 13 carry none. -/
def largestFrame (c : Chan) : Nat :=
  if c = 0 ∨ c = 1 then 84 else if c = 2 ∨ c = 3 then 1536 else if c = 14 ∨ c = 15 then 256 else 0

/-- Whether a channel is assigned (R1). -/
def assigned (c : Chan) : Bool := c ≤ 3 || 14 ≤ c

/-- A block kind's code (section 11.1). -/
def BlockKind.code : BlockKind → Nat
  | .whole => 0
  | .first => 1
  | .middle => 2
  | .last => 3

/-- The block kind of a code, 0 to 3 (section 11.1). -/
def BlockKind.ofCode : Nat → BlockKind
  | 0 => .whole
  | 1 => .first
  | 2 => .middle
  | _ => .last

/-- The bytes of a line block: header, payload area filled with zeros, CRC (R2, R3, section 11.1). -/
def blockBytes (size : BlockSize) (c : Chan) (kind : BlockKind) (urgent fill : Bool) (seq : Byte) (used : Nat)
    (frameNo : Byte) (payload : Bytes) : Bytes :=
  let body := [byteOf (c.val * 16 + kind.code * 4 + urgent.toNat * 2 + fill.toNat), seq, byteOf used, frameNo] ++
    payload ++ List.replicate (size.payload - payload.length) 0
  body ++ be16 (crc16 body).toNat

/-- A block other than a fill block emitted on a channel: it carries the transmit sequence, which then advances
(R5). -/
def emitOn (c : Chan) (kind : BlockKind) (urgent : Bool) (used : Nat) (frameNo : Byte) (payload : Bytes)
    (s : State) : State :=
  s |> sendBlock (blockBytes s.lbu.size c kind urgent false (s.chan c).txSeq used frameNo payload)
    |> onChan c (fun h => { h with txSeq := h.txSeq + 1 })
    |> bump Ctr.blocksSent

/-- A fill block emitted (R4): no sequence and no frame number advances. -/
def emitFill (s : State) : State :=
  s |> sendBlock (blockBytes s.lbu.size 0 .whole false true 0 0 0 []) |> bump Ctr.fillSent

/-- The blocks a frame takes, N = ceil(L / P) (R6). -/
def blocksFor (size : BlockSize) (len : Nat) : Nat := (len + size.payload - 1) / size.payload

/-- The kind of the block at a position of a frame (R6). -/
def kindAt (emitted total : Nat) : BlockKind :=
  if total ≤ 1 then .whole
  else if emitted = 0 then .first
  else if emitted + 1 < total then .middle
  else .last

/-- A complete frame leaves its source (R7, R176; R133 for a voice frame's report to the Call Table). -/
def frameLeft (c : Chan) (source : Source) (s : State) : State :=
  let s := bump (Ctr.framesSent c) s
  match source with
  | .voice n => onCall n (fun k => { k with sent := satAdd Config.max32 k.sent 1 }) s
  | .signal n => onCall n (fun k => { k with signals := k.signals.tail }) s
  | .priority => onQm (fun q => { q with priority := q.priority.tail }) s
  | .bulk => onQm (fun q => { q with bulk := q.bulk.tail }) s
  | .reply => onQm (fun q => { q with replies := q.replies.tail }) s
  | .notice k r => noticeDone k r s
  | .probe => onTr (fun t => { t with probe := none }) s

/-- The next block of a frame in progress emitted (R6); its last block completes the frame (R7). -/
def emitNext (c : Chan) (sd : Sending) (s : State) : State :=
  let part := (sd.bytes.drop (sd.emitted * s.lbu.size.payload)).take s.lbu.size.payload
  let s := emitOn c (kindAt sd.emitted sd.total) false part.length sd.frameNo part s
  if sd.total ≤ sd.emitted + 1 then
    s |> onChan c (fun h => { h with seg := none }) |> frameLeft c sd.source
  else onChan c (fun h => { h with seg := some { sd with emitted := sd.emitted + 1 } }) s

/-- A frame taken from its source: its bytes are fixed, it takes the next frame number and its first block is
emitted (R5, R6). -/
def startFrame (c : Chan) (source : Source) (bytes : Bytes) (s : State) : State :=
  let sd : Sending :=
    { source := source, bytes := bytes, frameNo := (s.chan c).nextFrame,
      total := blocksFor s.lbu.size bytes.length, emitted := 0 }
  s |> onChan c (fun h => { h with nextFrame := h.nextFrame + 1 }) |> emitNext c sd

/-- A channel's segmentation context returned to IDLE without its frame leaving: the frame is restarted later, or
given up (R8, R9, R17). -/
def dropSeg (c : Chan) : State → State := onChan c fun h => { h with seg := none }

/-- A source has removed a frame: if that frame is the one in progress on the channel it is cut short (R10). -/
def cutShort (c : Chan) (removed : Source → Bool) (s : State) : State :=
  match (s.chan c).seg with
  | some sd => if removed sd.source then s |> dropSeg c |> bump Ctr.framesCutShort else s
  | none => s

/-! ## Reassembly contexts abandoned (R16) -/

/-- Causes of a REASSEMBLY_LOSS (R16). -/
inductive LossCause where
  | gap | superseded | mismatch | oversize | malformed | line
deriving DecidableEq, Repr

/-- The code of a cause (R16). -/
def LossCause.code : LossCause → Nat
  | .gap => 1
  | .superseded => 2
  | .mismatch => 3
  | .oversize => 4
  | .malformed => 5
  | .line => 6

/-- A REASSEMBLY_LOSS event: channel times 256 plus cause code (R16). -/
def reportLoss (c : Chan) (cause : LossCause) : State → State :=
  occurrence .reassemblyLoss (c.val * 256 + cause.code)

/-- A partial frame abandoned, if the channel is collecting one (R16). -/
def abandon (c : Chan) (cause : LossCause) (s : State) : State :=
  match (s.chan c).asm with
  | some _ => s |> onChan c (fun h => { h with asm := none }) |> bump Ctr.framesAbandoned |> reportLoss c cause
  | none => s

/-- Every partial frame abandoned as the line leaves CARRYING (R16). -/
def abandonAll (s : State) : State := chanList.foldl (fun s c => abandon c .line s) s

/-- Every segmentation context to IDLE as the line leaves CARRYING (R9). -/
def dropAllSegs (s : State) : State := chanList.foldl (fun s c => dropSeg c s) s

/-- Every expected receive sequence unset on entering CARRYING (R12). -/
def unsetExpected (s : State) : State :=
  chanList.foldl (fun s c => onChan c (fun h => { h with expected := none }) s) s

/-! ## The loop store (R196) -/

/-- The end of loopback: the limit timer stops, the state is off, the blocks still held are discarded and counted
(R195, R196). It changes nothing when loopback is off. -/
def endLoopback (s : State) : State :=
  match s.ls.loopback with
  | some _ =>
    s |> onLs (fun l => { l with loopback := none }) |> bumpBy Ctr.loopedDiscarded s.bf.loopStore.length
      |> onBf (fun b => { b with loopStore := [] })
  | none => s

/-- A block that reaches loopback joins the back of the store, or is lost when it is full (R196). -/
def storeLooped (b : Looped) (s : State) : State :=
  if s.bf.loopStore.length < Config.loopBlocks then onBf (fun f => { f with loopStore := f.loopStore ++ [b] }) s
  else bump Ctr.loopedLost s

/-- The oldest looped block emitted on the looped channel with a new sequence and CRC (R17, R196); none if the
store is empty. -/
def sendLooped (c : Chan) (s : State) : Option State :=
  match s.bf.loopStore with
  | b :: rest =>
    some (s |> onBf (fun f => { f with loopStore := rest }) |> emitOn c b.kind false b.used b.frameNo b.payload
      |> bump Ctr.loopedSent)
  | [] => none

end Sys2Proof.Machine
end

