-- ==== Sys2Proof/Machine/Budget.lean ====
section
/-! DEFINITION. The Line Budget Unit (03_the_line_budget.md): staging, the period arithmetic, admission, the data
floor. The grant order is in Machine/Grant.lean. -/

namespace Sys2Proof.Machine

/-- The data floor copied from its parameter and the pending floor cleared, on each entry to CARRYING (R51, R59). -/
def copyFloor (s : State) : State :=
  onLbu (fun b => { b with floor := s.param .dataFloor, pendingFloor := none }) s

/-- The budget staged on an entry to CARRYING by training: r, S and E taken, both carries 0, the data floor copied
(R51). -/
def stageBudget (rate : Nat) (size : BlockSize) (eff : Nat) (s : State) : State :=
  s |> onLbu (fun b => { b with rate := rate, size := size, eff := eff, bitsCarry := 0, blockCarry := 0 }) |> copyFloor

/-- U, the product of the period with the bits carry (R52, step 1). -/
def Budget.product (b : Budget) : Nat := b.bits * b.eff + b.bitsCarry

/-- a, the bits available in the period (R52, step 2). -/
def Budget.available (b : Budget) : Nat := b.product / 512

/-- C, the credit of the period (R52, step 3). -/
def Budget.credit (b : Budget) : Nat := b.available + b.blockCarry

/-- k, the blocks of the period (R52, step 4). -/
def Budget.periodBlocks (b : Budget) : Nat := b.credit / b.blockBits

/-- The record after the arithmetic of a period: k and the two new carries (R52). -/
def Budget.period (b : Budget) : Budget :=
  { b with blocks := b.periodBlocks, bitsCarry := b.product % 512, blockCarry := b.credit % b.blockBits }

/-- The blocks an admission would need, with v as it stands before the request (R57). -/
def State.requestNeeds (s : State) : Nat := s.needed (s.reserved + 1) s.lbu.floor

/-- Whether an admission request is granted: CARRYING, v below 2, and the bound holds after it (R57). -/
def State.admissible (s : State) : Bool :=
  s.carrying && s.reserved < 2 && s.requestNeeds ≤ s.lbu.sustained

/-- The count the Line Budget Unit makes of an admission's answer (R57). -/
def countAdmission (granted : Bool) : State → State :=
  bump (if granted then Ctr.admissionsGranted else Ctr.admissionsRefused)

/-- A CALL_REFUSED event for a request refused with these figures (R158). -/
def refuseAdmission (needs : Nat) (s : State) : State :=
  occurrence .callRefused (needs * 256 + min s.lbu.sustained 255) s

/-- v has decreased: while CARRYING, a pending data floor becomes the effective one if the bound holds with the new v
(R59). -/
def floorCheck (s : State) : State :=
  match s.lbu.pendingFloor with
  | some d =>
    if s.carrying && s.boundHolds d then onLbu (fun b => { b with floor := d, pendingFloor := none }) s else s
  | none => s

/-- The data floor parameter has been written (R59): outside CARRYING it waits for the next entry, and replaces a value
that is pending; in CARRYING it acts at once if the bound holds with it, and else becomes the pending data floor. -/
def floorWritten (d : Nat) (s : State) : State :=
  if s.carrying then
    if s.boundHolds d then onLbu (fun b => { b with floor := d, pendingFloor := none }) s
    else onLbu (fun b => { b with pendingFloor := some d }) s
  else onLbu (fun b => { b with pendingFloor := b.pendingFloor.map fun _ => d }) s

end Sys2Proof.Machine
end

