-- ==== Sys2Proof/Machine/Media.lean ====
section
/-! DEFINITION. The Media Unit (06_voice_media.md): the sample path both ways, companding, the frame builder, the
playout ring, tones, and what a change of media state does. -/

namespace Sys2Proof.Machine

/-! ## Arithmetic of one sample -/

/-- The DC block's output before saturation: accumulator rounded at Q15 (R126). -/
def dcRaw (x xPrev yPrev : Int) : Int := ((x - xPrev) * 32768 + 31785 * yPrev + 16384) / 32768

/-- A product or sum of samples with gains, rounded in units of 1/4096, before saturation (R127, R128, R138). -/
def gainRound (acc : Int) : Int := (acc + 2048) / 4096

/-- The magnitude a sample is compressed from: 32768 is clamped to 32767 (R129). -/
def magnitude (v : Int) : Nat := min v.natAbs 32767

/-- The segment of a magnitude (R129). -/
def segmentOf (m : Nat) : Nat := if m < 256 then 0 else m.log2 - 7

/-- The mantissa of a magnitude (R129). -/
def mantissaOf (m : Nat) : Nat := if m < 256 then m / 16 else m / 2 ^ (segmentOf m + 3) % 16

/-- A sample compressed to its code (R129). -/
def compress (v : Int) : Byte :=
  byteOf ((if v < 0 then 128 else 0) + segmentOf (magnitude v) * 16 + mantissaOf (magnitude v))

/-- The magnitude of a code (R130). -/
def expandMagnitude (seg mant : Nat) : Nat :=
  if seg = 0 then 16 * mant + 8 else (16 + mant) * 2 ^ (seg + 3) + 2 ^ (seg + 2)

/-- A code expanded to its sample (R130). -/
def expand (c : Byte) : Int :=
  let m : Int := expandMagnitude (c.toNat / 16 % 8) (c.toNat % 16)
  if c.toNat < 128 then m else -m

/-- The triangle value of a tone phase (R139). -/
def triangle (p : Nat) : Int := if p < 32768 then 2 * (p : Int) - 32768 else 98302 - 2 * (p : Int)

/-- The tone sample of a phase (R139). -/
def toneSample (p : Nat) : Int := (triangle p * 8192 + 16384) / 32768

/-- The phase increment of a tone kind: 425 Hz or 1000 Hz (R139). -/
def ToneKind.increment : ToneKind → Nat
  | .lineDown | .refusal | .release => 3482
  | .test => 8192

/-! ## Media state (R125) -/

/-- An empty playout ring. -/
def ringEmpty : Vector (Option RingFrame) 16 := Vector.replicate 16 none

/-- The playout emptied and filling with no base (R125, R137). -/
def MediaSlot.refill (u : MediaSlot) : MediaSlot :=
  { u with ring := ringEmpty, play := .filling, base := none, age := 0, miss := 0, prev := none }

/-- The slot's media starts: uplink sequence 0 with the resume mark, playout filling (R125, from OFF). What the slot
plays until the next period start is silence (R138; log entry 10). -/
def MediaSlot.begin (u : MediaSlot) (m : MediaState) : MediaSlot :=
  { u.refill with media := m, seq := 0, resume := true, builder := none, due := none, playing := silence }

/-- The slot's media is held: a frame in the builder and a closed frame are given up, the next frame carries RESUME
(R125). -/
def MediaSlot.pause (u : MediaSlot) : MediaSlot :=
  { u.refill with media := .held, builder := none, due := none, resume := true, playing := silence }

/-- The slot's media ends (R125): the ring emptied and the state OFF. What else of the playout returns to its reset value is log entry
49. -/
def MediaSlot.finish (u : MediaSlot) : MediaSlot :=
  { u with media := .off, builder := none, due := none, ring := ringEmpty, play := .off, base := none, age := 0,
           miss := 0, prev := none, playing := silence }

/-- The slot after a change of media state (R125). -/
def MediaSlot.change (u : MediaSlot) (m : MediaState) : MediaSlot :=
  match u.media, m with
  | .off, .off => u
  | .off, m => u.begin m
  | .flowing, .flowing => u
  | .flowing, .held => u.pause
  | .held, .held => u
  | .held, .flowing => { u with media := .flowing }
  | _, .off => u.finish

/-- The media state of a slot set; a closed frame given up as the media leaves FLOWING is stale (R63, R133). -/
def setMedia (n : Slot) (m : MediaState) (s : State) : State :=
  let stale := (s.media n).media == .flowing && m != .flowing && (s.media n).due.isSome
  s |> onMedia n (fun u => u.change m) |> whenever stale (bump Ctr.staleVoice)

/-- The media state of a slot brought in line with its Call Table record (R125, R147). -/
def followCall (n : Slot) (s : State) : State := setMedia n (s.call n).mediaState s

/-! ## The uplink (R126 to R133) -/

/-- The clip count increased by one, saturating at 65535 (R140). -/
def addClip : State → State := onMdu fun u => { u with clips := satAdd Config.max16 u.clips 1 }

/-- A value saturated to a sample, a clip counted if that changes it (R140). -/
def saturated (v : Int) (s : State) : State × Int := (whenever (clips v) addClip s, saturate v)

/-- The uplink gain of a port (R127). -/
def State.upGain (s : State) : Port → Nat
  | .a => s.param .upGainA
  | .b => s.param .upGainB

/-- The downlink gain of a port (R138). -/
def State.downGain (s : State) : Port → Nat
  | .a => s.param .downGainA
  | .b => s.param .downGainB

/-- The DC block of a port takes a sample, when the port is IN_CALL or its echo test takes its samples (R126). -/
def dcBlock (p : Port) (x : Int) (s : State) : State :=
  if (s.port p).state == .inCall || s.echoing p then
    let r := saturated (dcRaw x (s.mediaPort p).dcIn (s.mediaPort p).dcOut) s
    onMediaPort p (fun m => { m with dcIn := x, dcOut := r.2 }) r.1
  else s

/-- The accumulator of a slot's uplink: the products of the attached ports, before any rounding (R127, R128). -/
def State.uplinkSum (s : State) (n : Slot) : Int :=
  ((s.call n).attached.toList.map fun p => (s.mediaPort p).dcOut * (s.upGain p : Int)).sum

/-- Whether every attached port of a slot has an uplink gain of 0 (R132). -/
def State.slotMuted (s : State) (n : Slot) : Bool := (s.call n).attached.toList.all fun p => s.upGain p == 0

/-- One sample of a slot's uplink compressed into the frame being built, at most 80 of them (R127 to R129, R132). -/
def uplinkSample (n : Slot) (s : State) : State :=
  match (s.media n).builder with
  | some b =>
    if b.codes.length < Config.periodSamples then
      let r := saturated (gainRound (s.uplinkSum n)) s
      onMedia n (fun u =>
        { u with builder := some { codes := b.codes ++ [compress r.2], muted := b.muted && s.slotMuted n } }) r.1
    else s
  | none => s

/-- The bytes of a voice frame (R131, section 11.2). -/
def voiceFrame (resume silent : Bool) (seq : Half) (codes : Bytes) : Bytes :=
  [2, byteOf (resume.toNat + 2 * silent.toNat)] ++ be16 seq.toNat ++ codes

/-- The frame builder of a slot closes its frame at the 80th sample: the frame takes the sequence, the RESUME and SILENT
flags, and becomes the due frame (R132). A builder with fewer samples has not reached that moment. -/
def closeFrame (n : Slot) (s : State) : State :=
  match (s.media n).builder with
  | some b =>
    if b.codes.length = Config.periodSamples then
      s |> onMedia n (fun u =>
            { u with
              due := some (voiceFrame u.resume b.muted u.seq
                (if b.muted then List.replicate Config.periodSamples 0 else b.codes))
              seq := u.seq + 1, resume := false, builder := none })
        |> bump (Ctr.framesBuilt n)
    else s
  | none => s

/-- The frame builder of a slot begins a frame at a period start, when its media flows and it is idle (R132). -/
def MediaSlot.beginFrame (u : MediaSlot) : MediaSlot :=
  if u.media == .flowing && u.builder.isNone then { u with builder := some { codes := [], muted := true } } else u

/-! ## Playout (R134 to R137) -/

/-- The position of a sequence in the ring (R135). -/
def ringPos (q : Half) : Fin 16 := Fin.ofNat 16 q.toNat

/-- The frames the ring holds. -/
def MediaSlot.ringCount (u : MediaSlot) : Nat := u.ring.toList.countP (·.isSome)

/-- A frame stored at its position (R135). -/
def MediaSlot.store (u : MediaSlot) (f : RingFrame) : MediaSlot :=
  { u with ring := vset u.ring (ringPos f.seq) (some f) }

/-- The playout started afresh from a frame: ring emptied, FILLING with its sequence as base (R135). -/
def MediaSlot.restart (u : MediaSlot) (f : RingFrame) : MediaSlot :=
  ({ u.refill with base := some f.seq } : MediaSlot).store f

/-- Whether the ring holds the frame of a sequence (R135, R137). -/
def MediaSlot.holdsSeq (u : MediaSlot) (q : Half) : Bool :=
  match vget u.ring (ringPos q) with
  | some f => f.seq == q
  | none => false

/-- An arriving frame taken by the playout of a slot that is not OFF (R135). -/
def playArrival (n : Slot) (resume : Bool) (f : RingFrame) (s : State) : State :=
  if resume then s |> onMedia n (fun u => u.restart f) |> bump (Ctr.resumes n)
  else
    match (s.media n).base with
    | none => onMedia n (fun u => ({ u with base := some f.seq, age := 0 } : MediaSlot).store f) s
    | some b =>
      let d := (f.seq - b).toNat
      if d ≤ 15 then
        if (s.media n).holdsSeq f.seq then bump (Ctr.duplicates n) s else onMedia n (fun u => u.store f) s
      else if d ≤ 32767 then s |> onMedia n (fun u => u.restart f) |> bump (Ctr.overruns n)
      else bump (Ctr.lateFrames n) s

/-- A MEDIA message delivered for a slot: its length and the playout state are checked, then it is taken and counted in
the Call Table (R134). -/
def mediaArrives (n : Slot) (frame : Bytes) (s : State) : State :=
  if frame.length ≠ 84 then bump Ctr.badMediaLength s
  else if (s.media n).play = .off then bump (Ctr.mediaWithoutCall n) s
  else
    let flags := (frame.getD 1 0).toNat
    let f : RingFrame :=
      { seq := half (frame.getD 2 0) (frame.getD 3 0), silent := flags / 2 % 2 == 1, codes := frame.drop 4 }
    s |> playArrival n (flags % 2 == 1) f
      |> onCall n (fun k => { k with received := satAdd Config.max32 k.received 1 })

/-- The samples of a frame: its codes expanded, or 80 zeros if it is SILENT (R137). -/
def RingFrame.samples (f : RingFrame) : List Int := if f.silent then silence else f.codes.map expand

/-- The frame that stands in for a first missing one: every sample halved by an arithmetic shift (R137). -/
def halved (l : List Int) : List Int := l.map fun v => v / 2

/-- The frame of sequence base is in the ring: it is taken out and played (R137). -/
def MediaSlot.playFrame (u : MediaSlot) (b : Half) (f : RingFrame) : MediaSlot :=
  { u with ring := vset u.ring (ringPos b) none, base := some (b + 1), playing := f.samples,
           prev := some f.samples, miss := 0 }

/-- The frame of sequence base is missing: the previous frame halved at the first miss, else silence; the fifth miss
starts the playout afresh (R137). -/
def MediaSlot.playMiss (u : MediaSlot) (b : Half) : MediaSlot :=
  let miss := u.miss + 1
  let shown := match u.prev with
    | some l => if miss = 1 then halved l else silence
    | none => silence
  let u := { u with miss := miss, base := some (b + 1), playing := shown }
  if miss = 5 then u.refill else u

/-- One period played from sequence `b`, and whether the frame was missing (R137). -/
def MediaSlot.playFrom (u : MediaSlot) (b : Half) : MediaSlot × Bool :=
  match vget u.ring (ringPos b) with
  | some f => if f.seq = b then (u.playFrame b f, false) else (u.playMiss b, true)
  | none => (u.playMiss b, true)

/-- The playout of a slot at a period start, with the playout target T; and whether a frame was missing (R136,
R137). -/
def MediaSlot.playPeriod (u : MediaSlot) (target : Nat) : MediaSlot × Bool :=
  match u.play, u.base with
  | .playing, some b => u.playFrom b
  | .filling, some b =>
    let u := { u with age := u.age + 1 }
    if target ≤ u.ringCount ∨ target ≤ u.age then ({ u with play := .playing } : MediaSlot).playFrom b
    else ({ u with playing := silence }, false)
  | _, _ => ({ u with playing := silence }, false)

/-- The Media Unit's part of a period start for a slot: playout, then the next uplink frame begun (R132, R136, R137); a
missing frame is counted (R141). -/
def mediaPeriod (n : Slot) (s : State) : State :=
  let r := (s.media n).playPeriod (s.param .playoutTarget)
  s |> onMedia n (fun _ => r.1.beginFrame)
    |> whenever r.2 (onMdu fun u => { u with conceals := satAdd Config.max16 u.conceals 1 })

/-! ## Output samples (R138, R139, R199) -/

/-- The tone sample of a port, its phase advanced; 0 in an off segment (R139). -/
def playTone (p : Port) (kind : ToneKind) (s : State) : State × Int :=
  match (s.port p).chan with
  | some c =>
    if c.on && !c.isRing then
      (onMediaPort p (fun m => { m with phase := (m.phase + kind.increment) % 65536 }) s,
        toneSample (s.mediaPort p).phase)
    else (s, 0)
  | none => (s, 0)

/-- A port's playing sample with its downlink gain (R138). -/
def playCall (p : Port) (n : Slot) (s : State) : State × Int :=
  if (s.media n).media = .flowing then
    saturated (gainRound ((s.media n).playing.getD s.clock.sampleInPeriod 0 * (s.downGain p : Int))) s
  else (s, 0)

/-- The echo of a test: the port's uplink sample after gain goes into the delay line, and the sample taken a delay
earlier comes out; 0 until the line is full (R127, R199). -/
def playEcho (p : Port) (t : PortTest) (s : State) : State × Int :=
  let r := saturated (gainRound ((s.mediaPort p).dcOut * (s.upGain p : Int))) s
  if t.line.length < t.delay then
    (onTr (fun u => { u with test := some { t with line := t.line ++ [r.2] } }) r.1, 0)
  else (onTr (fun u => { u with test := some { t with line := t.line.tail ++ [r.2] } }) r.1, t.line.headD 0)

/-- A port's output sample, chosen by the port's state (R138). -/
def outputSample (p : Port) (s : State) : State × Int :=
  match (s.port p).state with
  | .inCall => match s.slotOf p with
    | some n => playCall p n s
    | none => (s, 0)
  | .localTone | .released => match (s.port p).tone with
    | some k => playTone p k s
    | none => (s, 0)
  | .testing => match s.tr.test with
    | some t =>
      if t.port = p then
        match t.phase with
        | .echo => playEcho p t s
        | .tone => playTone p .test s
        | .ring => (s, 0)
      else (s, 0)
    | none => (s, 0)
  | .disabled | .idle | .ringing | .parked => (s, 0)

/-- A port's codec given its output sample (R138). -/
def giveSample (p : Port) (s : State) : State :=
  let r := outputSample p s
  onOut (fun o => { o with codec := o.codec.set p r.2 }) r.1

/-! ## The sensed inputs (R97, R180) -/

/-- One input's level taken at a sample of the tick: samples 4, 5 and 6 are kept (R97). -/
def Middle.take (m : Middle) (number : Nat) (level : Bool) : Middle :=
  if number = 4 then { m with s4 := level }
  else if number = 5 then { m with s5 := level }
  else if number = 6 then { m with s6 := level }
  else m

/-- The tick decision of an input: the level of at least two of samples 4, 5 and 6 (R97, R180). -/
def Middle.decision (m : Middle) : Bool := (m.s4 && m.s5) || (m.s4 && m.s6) || (m.s5 && m.s6)

/-- The six inputs read at a sample, and the sample counted in its tick and its period (R97, R180). -/
def Clock.sample (c : Clock) (pins : Pins) : Clock :=
  let number := c.sampleInTick + 1
  { c with
    sampleInTick := number % 8
    sampleInPeriod := (c.sampleInPeriod + 1) % Config.periodSamples
    loopA := c.loopA.take number pins.loopA
    loopB := c.loopB.take number pins.loopB
    tripA := c.tripA.take number pins.tripA
    tripB := c.tripB.take number pins.tripB
    mains := c.mains.take number pins.mains
    batteryLow := c.batteryLow.take number pins.batteryLow }

/-- One sample of the 8 kHz clock: the DC blocks, the uplink of both slots, the output samples, then the sensed inputs
(R126 to R129, R138, R139, R199, R97, R180). -/
def sampleInstant (a b : Int) (pins : Pins) (s : State) : State :=
  s |> dcBlock .a a |> dcBlock .b b |> uplinkSample .zero |> uplinkSample .one |> giveSample .a |> giveSample .b
    |> onClock (fun c => c.sample pins)

/-! ## The thresholds of a second and a minute (R140, R141) -/

/-- A condition kept by comparing a completed count with a threshold: active from the first count at or above it, ended
by the first below it (R140, R141). -/
def keepThreshold (k : FaultKind) (count threshold : Nat) (s : State) : State :=
  if threshold ≤ count then occurrence k count s
  else endCondition k s

/-- The Media Unit's part of an uptime second (R140, R141). DESIGN CHOICE: CLIPPING is judged before PLAYOUT_LOSS (log entry
16). -/
def mediaSecond (s : State) : State :=
  let c := s.mdu.clips
  let s := s |> bumpBy Ctr.clips c |> onMdu (fun u => { u with clips := 0 })
    |> keepThreshold .clipping c (s.param .clipThreshold)
  if 59 ≤ s.mdu.second then
    let m := s.mdu.conceals
    s |> bumpBy Ctr.concealments m |> onMdu (fun u => { u with second := 0, conceals := 0 })
      |> keepThreshold .playoutLoss m (s.param .lossThreshold)
  else onMdu (fun u => { u with second := u.second + 1 }) s

end Sys2Proof.Machine
end

