-- ==== Sys2Proof/Machine/Line.lean ====
section
/-! DEFINITION. The Line Supervisor's own moves (02_holding_the_line.md) that ask nothing of the Call Controller:
messages to the transceiver, a change of link state with LINE_DOWN, leaving CARRYING, the step-up, and the report that the
last slot became FREE. -/

namespace Sys2Proof.Machine

/-- HALT sent to the transceiver (R20). -/
def sendHalt : State → State := sendXcvr .halt

/-- TRAIN sent at a rung: its rate cap as the table stands, the train timer afresh, the current rung now that rung (R20,
R26). -/
def sendTrain (i : Fin 8) (s : State) : State :=
  s |> sendXcvr (.train (vget s.ls.profile i).cap)
    |> onLs (fun l => { l with rung := i, train := some (startSec (s.param .trainTimeout)) })
    |> bump Ctr.trainingsStarted

/-- The link state entered; LINE_DOWN becomes active when the line is lost with it (R39). -/
def enterLink (new : LinkState) (s : State) : State :=
  let lost := s.ls.link.wasUp && new.isDown
  s |> onLs (fun l => { l with link := new }) |> whenever lost (occurrence .lineDown s.ls.rate)

/-- An urgent claim that still waits is dropped as the line leaves CARRYING (R62, R179). -/
def dropClaim (s : State) : State :=
  if s.lbu.urgent then s |> onLbu (fun b => { b with urgent := false }) |> bump Ctr.gaspClaimsDropped else s

/-- Leaving CARRYING (R30), whatever the state entered: segmentation contexts by R9, partial frames by R16 in channel order,
before what the act reports after it (log entry 16), SEVERE_RUN and MARGIN_LOW ended, low-margin count 0, step-up-deferred
flag clear, silence watch stopped, loopback ended, an urgent claim dropped. The slots' hold or drop is the Call Controller's
and follows. -/
def leaveCarrying (s : State) : State :=
  s |> dropAllSegs |> abandonAll |> endCondition .severeRun |> endCondition .marginLow
    |> onLs (fun l => { l with lowMargin := 0, stepUpDeferred := false, silence := none })
    |> endLoopback |> dropClaim

/-- A step-up carried out at a rung (R45). -/
def stepUpTo (i : Fin 8) (s : State) : State :=
  s |> leaveCarrying |> sendHalt |> sendTrain i |> enterLink .training |> bump Ctr.stepUps

/-- The Line Supervisor is told that the last non-FREE slot has become FREE: in RETRAINING the hold ends (R36), in CARRYING a
deferred step-up is evaluated again (R45), in any other state nothing changes (R147). -/
def lastSlotFree (s : State) : State :=
  match s.ls.link with
  | .retraining => s |> onLs (fun l => { l with hold := none }) |> enterLink .training
  | .carrying =>
    if s.ls.stepUpDeferred then
      match s.stepUpDue with
      | some i => stepUpTo i s
      | none => onLs (fun l => { l with stepUpDeferred := false }) s
    else s
  | .stopped | .training | .riding | .waiting => s

end Sys2Proof.Machine
end

