-- ==== Sys2Proof/Machine/Phone.lean ====
section
/-! DEFINITION. The Phone Port Unit's own moves (05_phone_ports_loop_dial_and_ring.md): entering a port state, cadence
channels, ring requests, ring groups and staggered starts, tones, the park count. -/

namespace Sys2Proof.Machine

/-! ## Port states -/

/-- A port's state entered; entering IN_CALL or TESTING from another state clears its DC block (R126). -/
def enterPort (p : Port) (new : PortState) (s : State) : State :=
  let clears := (new == .inCall || new == .testing) && (s.port p).state != new
  s |> onPort p (fun u => { u with state := new })
    |> whenever clears (onMediaPort p fun m => { m with dcIn := 0, dcOut := 0 })

/-- A port's cadence channel, tone and park count stopped (R109, R111). -/
def quieten (p : Port) : State → State :=
  onPort p fun u => { u with chan := none, tone := none, park := none, trip := 0 }

/-! ## Cadence channels (R115, R116) -/

/-- The duration of a segment, 1 to 8, as the table stands (R115). -/
def State.segment (s : State) (cad : Fin 8) (pos : Nat) : Nat :=
  vget (vget s.ppu.cadences cad).durations (Fin.ofNat 8 (pos - 1))

/-- The next nonzero segment from a position, and whether the cycle was restarted on the way: at most `n` steps (R116). -/
def State.seek (s : State) (cad : Fin 8) : Nat → Nat → Bool → Option (Nat × Bool)
  | 0, _, _ => none
  | n + 1, pos, restarted =>
    if 8 ≤ pos then
      if (vget s.ppu.cadences cad).rep then
        if s.segment cad 1 ≠ 0 then some (1, true) else s.seek cad n 1 true
      else none
    else if s.segment cad (pos + 1) ≠ 0 then some (pos + 1, restarted)
    else s.seek cad n (pos + 1) restarted

/-- A ring channel placed in a segment, its duration loaded from the table (R115); on if its number is odd (R114). -/
def State.ringAt (s : State) (cad : Fin 8) (pos : Nat) : CadenceChannel :=
  { mode := .ring cad, pos := pos, on := pos % 2 == 1, endAt := some (10 * s.segment cad pos), count := 0 }

/-- A port's channel loaded; the trip count is 0 at the start of a ring-on segment and outside one, the loop differ count at
the start of one (R98, R99). -/
def loadChannel (p : Port) (c : CadenceChannel) : State → State :=
  onPort p fun u =>
    if c.isRing && c.on then { u with chan := some c, differ := 0, trip := 0 } else { u with chan := some c, trip := 0 }

/-- A port's channel stopped, its ring output off with it (R117). -/
def stopChannel (p : Port) : State → State := onPort p fun u => { u with chan := none, trip := 0 }

/-- A port's channel started in ring mode from position 0 (R116). -/
def startRing (p : Port) (cad : Fin 8) (s : State) : State :=
  match s.seek cad 8 0 false with
  | some (pos, _) => loadChannel p (s.ringAt cad pos) s
  | none => stopChannel p s

/-- On and off times of a tone in ms; the test tone is continuous (R121). -/
def ToneKind.times : ToneKind → Option Nat
  | .lineDown => some 250
  | .refusal => some 500
  | .release => some 150
  | .test => none

/-- A port's channel in a segment of a tone; an on segment sets the tone phase to 0 (R121, R139). -/
def toneSegment (p : Port) (k : ToneKind) (on : Bool) (s : State) : State :=
  s |> loadChannel p { mode := .tone k, pos := if on then 1 else 2, on := on, endAt := k.times, count := 0 }
    |> whenever on (onMediaPort p fun m => { m with phase := 0 })

/-- A port's tone started with its on segment (R121). -/
def startTone (p : Port) (k : ToneKind) (s : State) : State :=
  s |> onPort p (fun u => { u with tone := some k }) |> toneSegment p k true

/-- The park count started at 0 with the park time as it stands (R109). -/
def startPark (p : Port) (s : State) : State :=
  onPort p (fun u => { u with park := some (startSec (s.param .parkTime)) }) s

/-- A port enters RELEASED with the release tone (R108, R109). -/
def toReleased (p : Port) (s : State) : State := s |> enterPort p .released |> startTone p .release |> startPark p

/-- A port enters LOCAL_TONE with a tone (R104, R109). -/
def toLocalTone (p : Port) (k : ToneKind) (s : State) : State :=
  s |> enterPort p .localTone |> startTone p k |> startPark p

/-- A port becomes IDLE, silent (R111). -/
def toIdle (p : Port) (s : State) : State := s |> quieten p |> enterPort p .idle

/-! ## PORT_PARKED (R110) -/

/-- Whether a port is PARKED. -/
def State.isParked (s : State) (p : Port) : Bool := (s.port p).state == .parked

/-- A port enters PARKED: the condition becomes active if no other port is PARKED (R109, R110). -/
def toParked (p : Port) (s : State) : State :=
  let alone := !s.isParked p.other
  s |> quieten p |> enterPort p .parked |> bump (Ctr.parks p) |> whenever alone (occurrence .portParked p.code)

/-- A port has left PARKED: the condition ends with the last one (R110). -/
def leftParked (s : State) : State := if s.isParked .a || s.isParked .b then s else endCondition .portParked s

/-! ## Two ports rung by one request (R118, R119) -/

/-- A port has stopped ringing: a group ends; if port A stops while port B waits, port B's channel starts at once (R118,
R119). -/
def unpair (p : Port) (s : State) : State :=
  match s.ppu.pair with
  | .apart => s
  | .group => onPpu (fun u => { u with pair := .apart }) s
  | .waiting cad =>
    s |> onPpu (fun u => { u with pair := .apart })
      |> whenever (p == .a && (s.port .b).state == .ringing) (startRing .b cad)

/-- A RINGING port stops ringing: its channel stops and it takes another state afterwards (R106, R107). -/
def endRinging (p : Port) (s : State) : State := s |> stopChannel p |> unpair p

/-- A port's ringing is stopped: a port no longer RINGING is left as it is (R107). -/
def stopRinging (p : Port) (s : State) : State :=
  if (s.port p).state = .ringing then s |> toIdle p |> unpair p else s

/-- One port of a ring request (R105, R120): not IDLE, it is not rung; outside MAINS with the other port holding the ringer it
is held back and RING_LIMITED recorded; else it enters RINGING. -/
def ringOne (p : Port) (s : State) : State :=
  if (s.port p).state ≠ .idle then s
  else if s.onBattery && s.holdsRinger p.other then occurrence .ringLimited p.code s
  else s |> enterPort p .ringing |> bump (Ctr.ringStarts p)

/-- The channels of the ports a request has put into RINGING (R105, R118, R119): alone, or as a group both at once, or in turn
with port B waiting for port A's first on segment to end, or, when the cadence has no on segment, at once. -/
def startRings (cad : Fin 8) (group : Bool) (rung : PortSet) (s : State) : State :=
  if rung.a && rung.b then
    if group then s |> onPpu (fun u => { u with pair := .group }) |> startRing .a cad |> startRing .b cad
    else if (vget s.ppu.cadences cad).noOnSegment then
      s |> onPpu (fun u => { u with pair := .apart }) |> startRing .a cad |> startRing .b cad
    else s |> onPpu (fun u => { u with pair := .waiting cad }) |> startRing .a cad
  else s |> whenever rung.a (startRing .a cad) |> whenever rung.b (startRing .b cad)

/-- A ring request: the IDLE ports of the set are rung in order A then B (R105); the answer is the set that entered
RINGING. -/
def ringPorts (ports : PortSet) (cad : Fin 8) (group : Bool) (s : State) : State × PortSet :=
  let was (s : State) (p : Port) : Bool := (s.port p).state == .ringing
  let s1 := whenever (ports.a && !was s .a) (ringOne .a) s
  let s2 := whenever (ports.b && !was s1 .b) (ringOne .b) s1
  let rung : PortSet := { a := !was s .a && was s2 .a, b := !was s .b && was s2 .b }
  (startRings cad group rung s2, rung)

/-- The channel of a port at the end of its segment (R116, R118, R119, R121). A ring channel steps to the next nonzero segment
or stops; when port A leads a group and its cycle restarts, port B's channel is set to A's; when port B waits for port A's
first on segment, it starts at that segment's end. A tone turns from on to off and back. -/
def segmentEnd (p : Port) (s : State) : State :=
  match (s.port p).chan with
  | none => s
  | some c =>
    match c.mode with
    | .tone k => if c.endAt.isSome then toneSegment p k (!c.on) s else s
    | .ring cad =>
      let found := s.seek cad 8 c.pos false
      let s := match found with
        | some (pos, _) => loadChannel p (s.ringAt cad pos) s
        | none => stopChannel p s
      let restarted := match found with
        | some (_, r) => r
        | none => false
      match s.ppu.pair with
      | .apart => s
      | .group =>
        match p, restarted, (s.port .a).chan with
        | .a, true, some lead => loadChannel .b lead s
        | _, _, _ => s
      | .waiting cadB =>
        if p = .a ∧ (c.on ∨ found = none ∨ (vget s.ppu.cadences cad).noOnSegment) then
          s |> onPpu (fun u => { u with pair := .apart }) |> startRing .b cadB
        else s

end Sys2Proof.Machine
end

