-- ==== Sys2Proof/Machine/Calls.lean ====
section
/-! DEFINITION. The Call Controller (07_calls.md): signals, admission, off-hooks, answers, endings, hold, refresh and
drop. -/

namespace Sys2Proof.Machine

/-! ## Signals (R148, R149, section 11.2) -/

/-- A cause's code (section 11.2). -/
def Cause.code : Cause → Nat
  | .normal => 1
  | .budget => 2
  | .line => 3
  | .noAnswer => 4
  | .slotBusy => 5
  | .portsBusy => 6
  | .power => 7
  | .badCadence => 8

/-- A slot state's code (sections 11.2 and 11.5). -/
def SlotState.code : SlotState → Nat
  | .free => 0
  | .originating => 1
  | .alerting => 2
  | .connected => 3

/-- The bytes of a signal (section 11.2). -/
def Signal.bytes : Signal → Bytes
  | .seize p => [1, 1, byteOf p.code]
  | .digit d => [1, 2, byteOf d]
  | .flash => [1, 3]
  | .answer p => [1, 4, byteOf p.code]
  | .clear c => [1, 5, byteOf c.code]
  | .refuse c => [1, 6, byteOf c.code]
  | .refresh st ports => [1, 7, byteOf st.code, byteOf ports.mask]

/-- A signal offered to the back of a slot's queue: discarded and counted when it holds 8 (R149). -/
def queueSignal (n : Slot) (g : Signal) (s : State) : State :=
  if (s.call n).signals.length < Config.signals then onCall n (fun c => { c with signals := c.signals ++ [g] }) s
  else bump Ctr.signalsLost s

/-- A REFRESH placed at the front of a slot's queue; a full queue gives up the signal at its back (R162). -/
def frontSignal (n : Slot) (g : Signal) (s : State) : State :=
  let full := Config.signals ≤ (s.call n).signals.length
  s |> onCall n (fun c => { c with signals := g :: (if full then c.signals.take (Config.signals - 1) else c.signals) })
    |> whenever full (bump Ctr.signalsLost)

/-! ## A slot admitted, a slot freed (R146, R147, R161) -/

/-- The record of a slot when it is admitted: stamp, direction, start second and counts set afresh, the end cause none
(R146, R151, R153). -/
def CallSlot.admitted (c : CallSlot) (st : SlotState) (dir : CallDir) (stamp now : Nat) : CallSlot :=
  { c with state := st, dir := dir, stamp := stamp, start := now, sent := 0, received := 0, endCause := none }

/-- A slot admitted: the admission stamp counter advances and the slot takes its new value (R56, R57, R146). -/
def occupy (n : Slot) (st : SlotState) (dir : CallDir) (s : State) : State :=
  let stamp := satAdd Config.max32 s.cc.stamp 1
  s |> countAdmission true |> onCc (fun c => { c with stamp := stamp })
    |> onCall n (fun c => c.admitted st dir stamp s.fu.uptime)

/-- The record of a slot that has become FREE (R146): direction, stamp, start second and counts stay, and so does the
signal queue (R149); `held` says whether the line is held, which gives the mark (R161). -/
def CallSlot.freed (c : CallSlot) (cause : Cause) (held : Bool) : CallSlot :=
  { c with state := .free, held := false, attached := noPorts, ringSet := noPorts, cadence := 0, group := false,
           alert := none, endCause := some cause, mark := c.mark || held }

/-- A slot becomes FREE; the Media Unit and the Line Budget Unit are told in the same act (R147, R59). -/
def freeSlot (n : Slot) (cause : Cause) (s : State) : State :=
  s |> onCall n (fun c => c.freed cause s.ls.link.isHold) |> followCall n |> floorCheck

/-- The report to the Line Supervisor when no slot is non-FREE any more (R147). -/
def reportIfIdle (s : State) : State := if s.inUse then s else lastSlotFree s

/-! ## Calls from the household (R151, R152, R158) -/

/-- A port attached to a slot and IN_CALL (R146). -/
def attach (p : Port) (n : Slot) (s : State) : State :=
  s |> onCall n (fun c => { c with attached := c.attached.put p true }) |> enterPort p .inCall

/-- A lifted handset joins a slot (R152). -/
def join (p : Port) (n : Slot) (s : State) : State := s |> attach p n |> bump Ctr.callsJoined

/-- A lifted handset originates a call on a slot (R151). -/
def originate (p : Port) (n : Slot) (s : State) : State :=
  s |> occupy n .originating .out |> attach p n |> queueSignal n (.seize p) |> bump Ctr.callsOriginated |> followCall n

/-- A refused origination (R151, R158). -/
def refuseOff (p : Port) (s : State) : State :=
  s |> countAdmission false |> toLocalTone p .refusal |> bump Ctr.originationsRefused
    |> refuseAdmission s.requestNeeds

/-- A handset lifted from IDLE: joined, line down, originated or refused (R104, R151). -/
def offHook (p : Port) (s : State) : State :=
  let s := bump (Ctr.offHooks p) s
  match s.joinSlot with
  | some n => join p n s
  | none =>
    if s.carrying then
      match s.lowestFree with
      | some n => if s.admissible then originate p n s else refuseOff p s
      | none => refuseOff p s
    else toLocalTone p .lineDown s

/-- A port found IDLE with its loop closed takes the off-hook at once (R107, R112). -/
def takeIfLifted (p : Port) (s : State) : State :=
  if (s.port p).state = .idle ∧ (s.port p).closed then offHook p s else s

/-- Both ports of a set taken by `takeIfLifted`, A before B. -/
def takeLifted (ports : PortSet) (s : State) : State :=
  s |> whenever ports.a (takeIfLifted .a) |> whenever ports.b (takeIfLifted .b)

/-- Both ports of a set stopped ringing (R107). DESIGN CHOICE: port A before port B, an order that the spec leaves open; with port B
waiting its turn (R119), its channel starts as port A stops and stops with it in the same act, which leaves its differ count 0
(log entry 51). -/
def stopAll (ports : PortSet) (s : State) : State :=
  s |> whenever ports.a (stopRinging .a) |> whenever ports.b (stopRinging .b)

/-- Both ports of a set made RELEASED (R108). -/
def releaseAll (ports : PortSet) (s : State) : State :=
  s |> whenever ports.a (toReleased .a) |> whenever ports.b (toReleased .b)

/-! ## Calls from the exchange (R153 to R157) -/

/-- A REFUSE queued on a slot's channel and counted (R148, R153). -/
def refuseAlert (n : Slot) (cause : Cause) (s : State) : State :=
  s |> queueSignal n (.refuse cause) |> bump Ctr.alertsRefused

/-- The IDLE ports of a set. -/
def State.idleOf (s : State) (ports : PortSet) : PortSet :=
  { a := ports.a && (s.port .a).state == .idle, b := ports.b && (s.port .b).state == .idle }

/-- Whether a cadence number names a cadence that can ring: 0 to 7 and not empty (R114, R153, R197). -/
def State.cadenceOf (s : State) (number : Nat) : Option (Fin 8) :=
  if h : number < 8 then
    if (vget s.ppu.cadences ⟨number, h⟩).isEmpty then none else some ⟨number, h⟩
  else none

/-- An admitted ALERT rings its ports: ALERTING with the ports that rang, or FREE again when the power limit held all of
them back (R153). -/
def alertRings (n : Slot) (ports : PortSet) (cad : Fin 8) (group : Bool) (s : State) : State :=
  let s := s |> occupy n .alerting .inward |> onCall n (fun c => { c with cadence := cad.val, group := group })
    |> followCall n
  let r := ringPorts ports cad group s
  if r.2.isEmpty then r.1 |> freeSlot n .power |> refuseAlert n .power |> reportIfIdle
  else
    r.1 |> onCall n (fun c => { c with ringSet := r.2, alert := some (startSec (s.param .alertLimit)) })
      |> bump Ctr.callsAlerted

/-- An ALERT on a FREE slot: ports, cadence and admission checked in order (R153). -/
def alert (n : Slot) (cadence : Nat) (ports : PortSet) (group : Bool) (s : State) : State :=
  if (s.idleOf ports).isEmpty then refuseAlert n .portsBusy s
  else
    match s.cadenceOf cadence with
    | none => refuseAlert n .badCadence s
    | some cad =>
      if s.admissible then alertRings n (s.idleOf ports) cad group s
      else s |> countAdmission false |> refuseAlert n .budget |> refuseAdmission s.requestNeeds

/-- A ringing port answers the slot whose ring set holds it (R106, R154). A port that no ring set holds has no call to
answer. -/
def answer (p : Port) (s : State) : State :=
  match s.ringSlotOf p with
  | none => s
  | some n =>
    let others := (s.call n).ringSet.put p false
    s |> stopChannel p |> bump (Ctr.answers p)
      |> onCall n (fun c => { c with alert := none, ringSet := noPorts, cadence := 0, group := false })
      |> attach p n |> stopAll others |> unpair p |> queueSignal n (.answer p)
      |> onCall n (fun c => { c with state := .connected }) |> followCall n |> bump Ctr.callsAnswered
      |> takeLifted others

/-- A port has left its slot's ring set without answering; an emptied set frees the slot with a CLEAR (R155). -/
def leaveRingSet (p : Port) (cause : Cause) (s : State) : State :=
  match s.ringSlotOf p with
  | none => s
  | some n =>
    let left := (s.call n).ringSet.put p false
    let s := onCall n (fun c => { c with ringSet := left }) s
    if left.isEmpty then s |> freeSlot n cause |> queueSignal n (.clear cause) |> reportIfIdle else s

/-- An ALERTING slot's call has rung for the alert limit (R156). -/
def alertLimit (n : Slot) (s : State) : State :=
  let ports := (s.call n).ringSet
  s |> stopAll ports |> freeSlot n .noAnswer |> queueSignal n (.clear .noAnswer) |> bump Ctr.alertsUnanswered
    |> reportIfIdle |> takeLifted ports

/-- A CANCEL on an ALERTING slot (R156). -/
def cancel (n : Slot) (s : State) : State :=
  let ports := (s.call n).ringSet
  s |> stopAll ports |> freeSlot n .normal |> reportIfIdle |> takeLifted ports

/-- A CONNECT on an ORIGINATING slot (R156). -/
def connect (n : Slot) (s : State) : State := s |> onCall n (fun c => { c with state := .connected }) |> followCall n

/-- The end cause of a RELEASE: its cause when the end cause field has it, else NORMAL (R146, R157). -/
def releaseCause (code : Nat) : Cause :=
  match code with
  | 2 => .budget
  | 3 => .line
  | 4 => .noAnswer
  | 6 => .portsBusy
  | 7 => .power
  | _ => .normal

/-- A RELEASE on a slot that is not FREE (R157). -/
def release (n : Slot) (code : Nat) (s : State) : State :=
  let attached := (s.call n).attached
  let ring := (s.call n).ringSet
  s |> releaseAll attached |> stopAll ring |> freeSlot n (releaseCause code) |> reportIfIdle |> takeLifted ring

/-- The set of ports of a mask byte (section 11.2). -/
def portsOf (mask : Nat) : PortSet := { a := mask % 2 == 1, b := mask / 2 % 2 == 1 }

/-- An exchange signal that its slot's state ignores (R150). -/
def ignoreSignal : State → State := bump Ctr.exchangeSignalsIgnored

/-- A SIGNAL message delivered for a slot: the length is checked, then the signal is taken by the slot's state (R150,
R218). -/
def signalArrives (n : Slot) (frame : Bytes) (s : State) : State :=
  let byteAt (i : Nat) : Nat := (frame.getD i 0).toNat
  match byteAt 1 with
  | 16 =>
    if frame.length < 5 then bump Ctr.badSignals s
    else match (s.call n).state with
      | .free => alert n (byteAt 2) (portsOf (byteAt 3)) (byteAt 4 != 0) s
      | .originating | .alerting | .connected => refuseAlert n .slotBusy s
  | 17 =>
    if frame.length < 2 then bump Ctr.badSignals s
    else match (s.call n).state with
      | .alerting => cancel n s
      | .free | .originating | .connected => ignoreSignal s
  | 18 =>
    if frame.length < 2 then bump Ctr.badSignals s
    else match (s.call n).state with
      | .originating => connect n s
      | .free | .alerting | .connected => ignoreSignal s
  | 19 =>
    if frame.length < 3 then bump Ctr.badSignals s
    else match (s.call n).state with
      | .free => ignoreSignal s
      | .originating | .alerting | .connected => release n (byteAt 2) s
  | _ => bump Ctr.badSignals s

/-! ## Ports inside a call (R159) -/

/-- A digit or a flash handed on by an attached port (R159). -/
def fromPort (p : Port) (g : Signal) (s : State) : State :=
  match s.slotOf p with
  | some n => queueSignal n g s
  | none => s

/-- A port detached from its slot; the last one frees it with CLEAR(NORMAL) (R159). -/
def detach (p : Port) (s : State) : State :=
  match s.slotOf p with
  | none => s
  | some n =>
    let left := (s.call n).attached.put p false
    let s := onCall n (fun c => { c with attached := left }) s
    if left.isEmpty then s |> freeSlot n .normal |> queueSignal n (.clear .normal) |> reportIfIdle else s

/-! ## Hold, preemption, refresh, drop (R160 to R163, R60) -/

/-- A slot held, if it is not FREE (R160). -/
def holdSlot (n : Slot) (s : State) : State :=
  if s.nonFree n then s |> onCall n (fun c => { c with held := true }) |> followCall n else s

/-- Every non-FREE slot held (R160). -/
def holdSlots (s : State) : State := s |> holdSlot .zero |> holdSlot .one

/-- A slot cut by the budget (R60, R162). -/
def cutSlot (n : Slot) (s : State) : State :=
  let attached := (s.call n).attached
  let ring := (s.call n).ringSet
  s |> releaseAll attached |> stopAll ring |> freeSlot n .budget |> queueSignal n (.clear .budget)
    |> occurrence .callCut n.number |> bump Ctr.callsCut |> reportIfIdle |> takeLifted ring

/-- The slot to cut: the non-FREE one admitted last, of equal stamps the higher number (R60). -/
def State.lastAdmitted (s : State) : Slot :=
  if s.nonFree .one && (!s.nonFree .zero || (s.call .zero).stamp ≤ (s.call .one).stamp) then .one else .zero

/-- One turn of the preemption check (R60). -/
def preemptOnce (s : State) : State := if s.boundHolds s.lbu.floor then s else cutSlot s.lastAdmitted s

/-- The preemption check: at most both slots are cut (R60). -/
def preempt (s : State) : State := s |> preemptOnce |> preemptOnce

/-- A slot's REFRESH queued, if it is not FREE (R162). -/
def refreshSlot (n : Slot) (s : State) : State :=
  if s.nonFree n then
    let c := s.call n
    s |> frontSignal n (.refresh c.state (if c.state = .alerting then c.ringSet else c.attached)) |> bump Ctr.refreshes
  else s

/-- A slot's hold released and its mark cleared (R162). -/
def endHold (n : Slot) (s : State) : State :=
  s |> onCall n (fun c => { c with held := false, mark := false }) |> followCall n

/-- The line has returned: preemption, refresh, release of the hold, marks (R162). -/
def lineReturns (s : State) : State :=
  s |> preempt |> refreshSlot .zero |> refreshSlot .one |> endHold .zero |> endHold .one

/-- A slot dropped with cause LINE, if it is not FREE (R163); a signal in progress is cut short with its queue (R10). -/
def dropSlot (n : Slot) (s : State) : State :=
  if s.nonFree n then
    let attached := (s.call n).attached
    let ring := (s.call n).ringSet
    s |> stopAll ring |> releaseAll attached
      |> cutShort n.chan (fun src => src == .signal n)
      |> bumpBy Ctr.signalsDiscarded (s.call n).signals.length
      |> onCall n (fun c => { c with signals := [] }) |> freeSlot n .line
      |> occurrence .callDropped n.number |> bump Ctr.callsDropped |> takeLifted ring
  else s

/-- Every non-FREE slot dropped, in slot order (R163). -/
def dropAll (s : State) : State := s |> dropSlot .zero |> dropSlot .one

end Sys2Proof.Machine
end

