-- ==== Sys2Proof/Machine/TestResponder.lean ====
section
/-! DEFINITION. The Test Responder (09_quiet_mode_and_line_tests.md): the echo probe and the port tests. -/

namespace Sys2Proof.Machine

/-! ## The echo probe (R193, R194) -/

/-- Whether a frame of the test channel is a probe (R218). -/
def isProbe (frame : Bytes) : Bool :=
  4 ≤ frame.length && frame.getD 0 0 == 0x41 && (frame.getD 1 0).toNat ≤ 200 &&
    frame.length == (frame.getD 1 0).toNat + 4

/-- The line report of a probe reply, 23 bytes (R193, section 11.3). -/
def State.lineReport (s : State) : Bytes :=
  [1, 2] ++ be16 s.ls.rate ++ [2, 2] ++ be16Int s.ls.margin ++ [3, 1, byteOf s.ls.rung.val] ++
    [4, 4] ++ be32 s.fu.uptime ++ [5, 4] ++ be32 (s.counter Ctr.crcBad)

/-- The reply to a probe: its pattern length and id copied, the line report, its pattern (R193, section 11.3). -/
def State.probeReply (s : State) (frame : Bytes) : Bytes :=
  [0x42] ++ (frame.drop 1).take 3 ++ s.lineReport ++ frame.drop 4

/-- A frame delivered from channel 14 (R193, R194). -/
def probeArrives (frame : Bytes) (s : State) : State :=
  if isProbe frame then
    let reply := s.probeReply frame
    s |> whenever s.tr.probe.isSome (fun s => s |> cutShort 14 (fun src => src == .probe) |> bump Ctr.probeReplaced)
      |> onTr (fun t => { t with probe := some reply }) |> bump Ctr.probesAnswered
  else bump Ctr.badProbes s

/-- LINE_ACTION STOP empties the probe reply slot (R194). -/
def endProbe (s : State) : State :=
  if s.tr.probe.isSome then
    s |> cutShort 14 (fun src => src == .probe) |> onTr (fun t => { t with probe := none })
      |> bump Ctr.probeDiscarded
  else s

/-! ## TEST_RESULT (R200) -/

/-- A test kind's code (section 11.4). -/
def TestKind.code : TestKind → Nat
  | .ring => 1
  | .echo => 2

/-- An outcome's code (section 11.4). -/
def TestOutcome.code : TestOutcome → Nat
  | .answered => 1
  | .notAnswered => 2
  | .powerLimited => 3

/-- The bytes of a TEST_RESULT message, 13 of them (R200, section 11.4). -/
def resultMsg (t : PortTest) (o : TestOutcome) (time : Nat) : Bytes :=
  [1, 0x91] ++ be16 t.tag.toNat ++ be16 7 ++ [byteOf t.port.code, byteOf t.kind.code, byteOf o.code] ++ be32 time

/-- A message put at the back of the exchange reply queue (R89). -/
def pushReply (msg : Bytes) : State → State := onQm fun q => { q with replies := q.replies ++ [msg] }

/-- A TEST_RESULT sent to the authority that started the test (R200). -/
def sendResult (t : PortTest) (o : TestOutcome) (time : Nat) (s : State) : State :=
  let msg := resultMsg t o time
  let s := bump Ctr.testResultsSent s
  match t.auth with
  | .loc => offerFifo .localReply (s.localFrame msg) s
  | .exch => if s.qm.replies.length < Config.replies then pushReply msg s else bump Ctr.testResultsLost s

/-! ## Port tests (R197 to R199) -/

/-- The test context replaced. -/
def setTest (t : Option PortTest) : State → State := onTr fun u => { u with test := t }

/-- A port test started: the context, TESTING, and the ring cadence from position 0 (R197). -/
def startTest (t : PortTest) (s : State) : State :=
  s |> setTest (some t) |> enterPort t.port .testing |> startRing t.port t.cadence |> bump Ctr.portTestsStarted

/-- The time a test has rung, in ms (R198). -/
def PortTest.rungFor (t : PortTest) : Nat :=
  match t.timer with
  | some c => c.elapsed
  | none => 0

/-- The context of an answered echo test: the ECHO phase with its timer afresh and its delay (R199). -/
def PortTest.echoPhase (t : PortTest) (target : Nat) : PortTest :=
  { t with phase := .echo, timer := some (startSec t.seconds), answerTime := t.rungFor,
           delay := Config.periodSamples * target, line := [] }

/-- A tested port is answered in the RING phase (R198). -/
def testAnswer (p : Port) (s : State) : State :=
  match s.tr.test with
  | none => s
  | some t =>
    if t.port = p ∧ t.phase = .ring then
      let s := s |> stopChannel p |> sendResult t .answered t.rungFor
      match t.kind with
      | .ring => s |> setTest none |> toLocalTone p .refusal
      | .echo => setTest (some (t.echoPhase (s.param .playoutTarget))) s
    else s

/-- The phase timer of a test expires: NOT_ANSWERED in the RING phase, the test tone after the ECHO phase; the TONE phase
has no timer (R198, R199). -/
def testExpiry (s : State) : State :=
  match s.tr.test with
  | none => s
  | some t =>
    if t.timer.isSome then
      match t.phase with
      | .ring => s |> stopChannel t.port |> sendResult t .notAnswered 0 |> setTest none |> toIdle t.port
      | .echo => s |> setTest (some { t with phase := .tone, timer := none, line := [] }) |> startTone t.port .test
      | .tone => s
    else s

/-- A tested port is declared on-hook in the ECHO or TONE phase (R199). -/
def testOnHook (p : Port) (s : State) : State :=
  match s.tr.test with
  | none => s
  | some t => if t.port = p ∧ t.phase ≠ .ring then s |> setTest none |> toIdle p else s

/-- A tested port's ringing is ended by the power limit (R120, R198): the answer time is a free value (log entry 11). -/
def testPowerLimited (p : Port) (s : State) : State :=
  match s.tr.test with
  | none => s
  | some t =>
    if t.port = p then
      { s with free := s.free + 1 } |> stopChannel p |> sendResult t .powerLimited (Config.powerLimitedTime s.free).toNat
        |> setTest none |> toIdle p
    else s

end Sys2Proof.Machine
end

