-- ==== Sys2Proof/Machine/Power.lean ====
section
/-! DEFINITION. The power monitor (08_faults_notices_and_power.md, 8.7): a change of the debounced power-sense inputs, the
two conditions, the dying gasp, and the blocks that act on the new power state. -/

namespace Sys2Proof.Machine

/-- The seconds since the mains was lost, with uptime's wrap, saturating at 65535 (R181, R183). -/
def State.batterySeconds (s : State) : Nat := min ((s.fu.uptime + 4294967296 - s.fu.since) % 4294967296) Config.max16

/-- BATTERY_LOW becomes active, and the dying gasp is claimed when the line carries and none was made since power-up
(R178). -/
def batteryLow (detail : Nat) (s : State) : State :=
  s |> occurrence .batteryLow detail
    |> whenever (s.carrying && !s.fu.gaspSent) (fun s =>
      s |> onFu (fun u => { u with gaspSent := true }) |> onLbu (fun b => { b with urgent := true }))

/-- MAINS_LOST becomes active; battery since is the current uptime (R181). -/
def mainsLost (detail : Nat) (s : State) : State :=
  s |> occurrence .mainsLost detail |> onFu (fun u => { u with since := u.uptime })

/-- The two conditions at a change of power state, in the order of the row (R181). -/
def powerConditions (old new : PowerState) (s : State) : State :=
  match old, new with
  | .mains, .battery => mainsLost 2 s
  | .mains, .low => s |> mainsLost 3 |> batteryLow 0
  | .battery, .low => batteryLow s.batterySeconds s
  | .low, .battery => endCondition .batteryLow s
  | .battery, .mains => endCondition .mainsLost s
  | .low, .mains => s |> endCondition .mainsLost |> endCondition .batteryLow
  | .mains, .mains | .battery, .battery | .low, .low => s

/-- The Bulk queue emptied on leaving MAINS (R87). -/
def shedBulk (s : State) : State :=
  let n := s.qm.bulk.length
  s |> cutShort 3 (fun src => src == .bulk) |> onQm (fun q => { q with bulk := [] }) |> bumpBy Ctr.bulkShed n
    |> whenever (1 ≤ n) (occurrence .bulkDrop 4)

/-- The one-ringer limit as the power leaves MAINS: port B stops when both ports hold the ringer (R120, R155, R198). -/
def limitRinger (s : State) : State :=
  if s.holdsRinger .a && s.holdsRinger .b then
    if (s.port .b).state = .ringing then
      s |> stopRinging .b |> leaveRingSet .b .power |> occurrence .ringLimited 2 |> takeIfLifted .b
    else s |> occurrence .ringLimited 2 |> testPowerLimited .b
  else s

/-- The two debounced inputs take their new values; the differ count of an input that changes returns to 0, the other input's
count is its own (R180). -/
def takeInputs (mains low : Bool) (u : FaultUnit) : FaultUnit :=
  { u with mains := mains, mainsDiffer := if mains = u.mains then u.mainsDiffer else 0,
           batteryLow := low, batteryDiffer := if low = u.batteryLow then u.batteryDiffer else 0 }

/-- The power state follows the two debounced inputs, taken together (R181, R182; log entry 44). Out of MAINS the conditions
report first, then the Bulk queue is shed and last the ringers are limited, an order that the spec leaves open (log entry 16). -/
def powerChange (mains low : Bool) (s : State) : State :=
  let old := s.fu.power
  let new := powerOf mains low
  let s := onFu (takeInputs mains low) s
  if old = new then s
  else
    s |> onFu (fun u => { u with power := new }) |> bump Ctr.powerChanges |> powerConditions old new
      |> whenever (old == .mains) (fun s => s |> shedBulk |> limitRinger)

/-- One tick's decision of an input against its debounced value: the new value and the new differ count (R180). -/
def debounce (limit differ : Nat) (held decision : Bool) : Bool × Nat :=
  if decision = held then (held, 0) else if limit ≤ differ + 1 then (decision, 0) else (held, differ + 1)

end Sys2Proof.Machine
end

