-- ==== Sys2Proof/Machine/PhoneEvents.lean ====
section
/-! DEFINITION. What the loop, the ring trip, the compares and the port actions do (05_phone_ports_loop_dial_and_ring.md,
5.3 and 5.4). -/

namespace Sys2Proof.Machine

/-! ## The measure channel (R100, R101) -/

/-- Classes of an open that ends (R101). -/
inductive OpenClass where
  | glitch | pulse | flash
deriving DecidableEq, Repr

/-- The class of an open of `b` milliseconds (R101). -/
def openClass (b : Nat) : OpenClass := if b ≤ 19 then .glitch else if b ≤ 120 then .pulse else .flash

/-- An open of `b` milliseconds that has ended in an off-hook state (R101). -/
def classify (p : Port) (b : Nat) (s : State) : State :=
  match openClass b with
  | .glitch => bump (Ctr.loopGlitches p) s
  | .pulse => s |> onPort p (fun u => { u with pulses := satAdd Config.max8 u.pulses 1 }) |> bump (Ctr.dialPulses p)
  | .flash =>
    let had := 1 ≤ (s.port p).pulses
    let s := s |> whenever had (bump (Ctr.digitsAbandoned p)) |> onPort p (fun u => { u with pulses := 0 })
    if (s.port p).state = .inCall then s |> fromPort p .flash |> bump (Ctr.flashes p)
    else bump (Ctr.flashesIgnored p) s

/-- The compare a change arms (R100): `lifted` says whether the port's loop is measured as that of a lifted handset. -/
def State.armed (s : State) (lifted closed : Bool) (pulses : Nat) : Option Compare :=
  if lifted then
    if closed then (if 1 ≤ pulses then some { kind := .interdigit, value := s.param .interdigitTime } else none)
    else some { kind := .onHook, value := s.param .flashMaximum + 1 }
  else none

/-- The measure channel takes a change of the debounced loop state (R100, R101). The tick of a change is not counted, so that changes
N ticks apart give a capture of N - 1 (log entry 48). -/
def takeChange (p : Port) (closed : Bool) (s : State) : State :=
  let lifted := s.offHook p
  let b := (s.port p).measure
  s |> onPort p (fun u => { u with closed := closed, differ := 0, trip := 0, capture := b, measure := 0 })
    |> whenever (lifted && closed) (classify p b)
    |> (fun s => onPort p (fun u => { u with compare := s.armed lifted closed u.pulses }) s)

/-- A closing handed on by the port's state: an off-hook, an answer, a test's answer (R104, R106, R198). -/
def closingTaken (p : Port) (s : State) : State :=
  match (s.port p).state with
  | .idle => offHook p s
  | .ringing => answer p s
  | .testing => testAnswer p s
  | .disabled | .inCall | .released | .parked | .localTone => s

/-- The debounced loop state of a port changes (R98, R100). In a ring-on segment loop sensing is off and no change
occurs. -/
def loopChange (p : Port) (s : State) : State :=
  if (s.port p).inRingOn then s
  else
    let closed := !(s.port p).closed
    s |> takeChange p closed |> whenever closed (closingTaken p)

/-- A port is answered by ring trip in a ring-on segment (R99). -/
def ringTrip (p : Port) (s : State) : State :=
  if (s.port p).inRingOn then s |> stopChannel p |> takeChange p true |> closingTaken p
  else s

/-! ## The compares (R102, R103, R111) -/

/-- A port declared on-hook leaves its state (R111, R199). -/
def onHookTaken (p : Port) (s : State) : State :=
  match (s.port p).state with
  | .inCall => s |> detach p |> toIdle p
  | .released | .localTone => toIdle p s
  | .parked => s |> toIdle p |> leftParked
  | .testing => testOnHook p s
  | .disabled | .idle | .ringing => s

/-- The on-hook compare fires (R102). -/
def onHookFires (p : Port) (s : State) : State :=
  let had := 1 ≤ (s.port p).pulses
  s |> onPort p (fun u => { u with compare := none, pulses := 0 }) |> whenever had (bump (Ctr.digitsAbandoned p))
    |> bump (Ctr.onHooks p) |> onHookTaken p

/-- A digit formed from a pulse count (R103). -/
def digitTaken (p : Port) (pulses : Nat) (s : State) : State :=
  if pulses = 0 then s
  else if pulses ≤ 10 then
    if (s.port p).state = .inCall then s |> fromPort p (.digit (pulses % 10)) |> bump (Ctr.digits p)
    else bump (Ctr.digitsWithoutCall p) s
  else bump (Ctr.badDigits p) s

/-- The interdigit compare fires (R103). -/
def interdigitFires (p : Port) (s : State) : State :=
  let pulses := (s.port p).pulses
  s |> onPort p (fun u => { u with compare := none, pulses := 0 }) |> digitTaken p pulses

/-- Whether a port has a compare of a kind armed that it takes: a DISABLED port takes none (R112). -/
def PortUnit.armedWith (u : PortUnit) (k : CompareKind) : Bool :=
  u.state != .disabled &&
    match u.compare with
    | some c => c.kind == k
    | none => false

/-- Whether a port's park count runs: it does in RELEASED and LOCAL_TONE (R109). -/
def PortUnit.parking (u : PortUnit) : Bool := (u.state == .released || u.state == .localTone) && u.park.isSome

/-- The park count of a port reaches the park time (R109). -/
def parkExpires (p : Port) (s : State) : State := if (s.port p).parking then toParked p s else s

/-! ## Port actions (R112) -/

/-- A port made DISABLED: silent, nothing armed, no pulse in hand (R112). -/
def toDisabled (p : Port) (s : State) : State :=
  s |> quieten p |> onPort p (fun u => { u with compare := none, pulses := 0 }) |> enterPort p .disabled

/-- PORT_ACTION DISABLE taken (R112); TESTING is refused before. -/
def disablePort (p : Port) (s : State) : State :=
  match (s.port p).state with
  | .idle | .localTone | .released => toDisabled p s
  | .parked => s |> toDisabled p |> leftParked
  | .ringing => s |> toDisabled p |> unpair p |> leaveRingSet p .portsBusy
  | .inCall => s |> detach p |> toDisabled p
  | .disabled | .testing => s

/-- PORT_ACTION ENABLE taken (R112). -/
def enablePort (p : Port) (s : State) : State :=
  if (s.port p).state = .disabled then s |> enterPort p .idle |> takeIfLifted p else s

/-- PORT_ACTION RELEASE_PORT taken in IN_CALL or RINGING (R112). -/
def releasePortAct (p : Port) (s : State) : State :=
  match (s.port p).state with
  | .inCall => s |> detach p |> toReleased p
  | .ringing => s |> stopRinging p |> leaveRingSet p .portsBusy |> takeIfLifted p
  | .disabled | .idle | .released | .parked | .testing | .localTone => s

end Sys2Proof.Machine
end

