-- ==== Sys2Proof/Machine/Supervisor.lean ====
section
/-! DEFINITION. The Line Supervisor (02_holding_the_line.md): training, riding, waiting, grading, step-down and step-up,
LINE_ACTION, line loopback. -/

namespace Sys2Proof.Machine

/-- A transceiver message that the link state does not fit (R21). -/
def stray : State → State := bump Ctr.strayMessages

/-! ## Starting and training (R28, R31, R32) -/

/-- TRAINING or RETRAINING as slots dictate, entered after a TRAIN (R27); RETRAINING starts the hold timer and the slots are
held (R36, R160). -/
def enterTraining (s : State) : State :=
  if s.inUse then
    s |> enterLink .retraining |> onLs (fun l => { l with hold := some (startSec (s.param .holdLimit)) }) |> holdSlots
  else enterLink .training s

/-- The line started: error history cleared, TRAIN at the start rung, TRAINING (R28). -/
def startLine (s : State) : State :=
  let s := onLs (fun l => { l with history := [], gradesSince := 0 }) s
  s |> sendTrain s.startRung |> enterLink .training

/-- A new round of training after WAITING (R32). -/
def newRound (s : State) : State :=
  s |> onLs (fun l => { l with backoff := none }) |> sendTrain s.startRung |> enterLink .training

/-- WAITING entered (R32). -/
def enterWaiting (s : State) : State :=
  let length := s.ls.backoffLength
  s |> sendHalt
    |> onLs (fun l =>
      { l with train := none, hold := none, backoff := some (startSec length), backoffLength := min (2 * length) 480 })
    |> enterLink .waiting |> occurrence .noRung length |> bump Ctr.waitsEntered |> dropAll

/-- A training has failed: the next rung down, or WAITING (R31). A train timer expiry sends HALT before the TRAIN. -/
def trainingFailed (halt : Bool) (s : State) : State :=
  match s.rungBelow s.ls.rung with
  | some i => s |> whenever halt sendHalt |> sendTrain i
  | none => enterWaiting s

/-- Whether the link is in TRAINING or RETRAINING. -/
def LinkState.isTraining : LinkState → Bool
  | .training | .retraining => true
  | .stopped | .carrying | .riding | .waiting => false

/-! ## Carrying (R29, R34, R39) -/

/-- What both entries to CARRYING do: expected sequences unset, low-margin count 0, silence watch started, LINE_DOWN ended
(R12, R29, R34, R39). -/
def startCarrying (s : State) : State :=
  s |> onLs (fun l => { l with link := .carrying, lowMargin := 0, silence := some 0 }) |> unsetExpected
    |> endCondition .lineDown

/-- A training accepted with this rate and margin: the effects in the order of R29. -/
def enterCarrying (rate : Nat) (margin : Int) (s : State) : State :=
  let r := vget s.ls.profile s.ls.rung
  s |> onLs (fun l =>
      { l with train := none, hold := none, backoffLength := 30,
               inUse := { size := r.size, eff := r.eff, minMargin := r.minMargin }, rate := rate, margin := margin })
    |> stageBudget rate r.size r.eff
    |> onLs (fun l =>
      { l with cleanRun := 0, gradesSince := 0, crcBad := 0, gapMark := false, syncLostMark := false,
               stepUpDeferred := false })
    |> startCarrying |> endCondition .noRung |> bump Ctr.trainingsSucceeded |> lineReturns

/-- A TRAINED taken in TRAINING or RETRAINING (R22). One below the floor rate is a NO_TRAIN, and the last margin stays as it is (log
entry 47). -/
def trainedTaken (rate : Nat) (margin : Int) (s : State) : State :=
  let cap := (vget s.ls.profile s.ls.rung).cap
  let s := whenever (cap < rate) (bump Ctr.ratesClamped) s
  if min rate cap < s.param .floorRate then
    s |> bump Ctr.trainingsBelowFloor |> bump Ctr.noTrainReceived |> trainingFailed false
  else enterCarrying (min rate cap) margin s

/-! ## Riding (R33 to R35) -/

/-- The ride has failed (R35). -/
def rideFails (s : State) : State :=
  let i := s.sameRung
  s |> sendHalt |> onLs (fun l => { l with ride := none }) |> sendTrain i |> occurrence .retrain i.val
    |> bump Ctr.rideExpiries |> enterTraining

/-- A ride starts, by SYNC_LOST or by silence (R33). With a ride time of 0 it fails at once. -/
def startRide (s : State) : State :=
  let time := s.param .rideTime
  let s := s |> onLs (fun l => { l with syncLostMark := true }) |> bump Ctr.rides |> leaveCarrying
    |> enterLink .riding |> onLs (fun l => { l with ride := some (startMs time) }) |> holdSlots
  if time = 0 then rideFails s else s

/-- The length of the ride in ms (R34). -/
def State.rideLength (s : State) : Nat :=
  match s.ls.ride with
  | some t => t.elapsed
  | none => 0

/-- SYNC_BACK taken in RIDING (R34). RIDE is reported before the CALL_CUT of a slot that the preemption check cuts (log entry 16). -/
def endRide (s : State) : State :=
  s |> onLs (fun l => { l with ride := none }) |> copyFloor |> startCarrying |> occurrence .ride s.rideLength
    |> bump Ctr.ridesEndedBySyncBack |> lineReturns

/-- The hold timer expires in RETRAINING: TRAINING, every slot dropped (R36, R163). -/
def holdExpires (s : State) : State :=
  s |> onLs (fun l => { l with hold := none }) |> enterLink .training |> bump Ctr.holdLimitExpiries |> dropAll

/-! ## Grading (R40 to R42) -/

/-- The error history with one more grade, 60 at most (R41). -/
def addGrade (g : Grade) (h : List Grade) : List Grade := (h ++ [g]).drop (h.length + 1 - Config.history)

/-- The Line Supervisor after a grade: history, grades since training, clean-run count, accumulators cleared (R40, R41). -/
def Supervisor.graded (l : Supervisor) (g : Grade) : Supervisor :=
  { l with history := addGrade g l.history, gradesSince := satAdd Config.history l.gradesSince 1,
           cleanRun := if g = .clean then satAdd Config.max16 l.cleanRun 1 else 0,
           crcBad := 0, gapMark := false, syncLostMark := false }

/-! ## Step-down (R44) -/

/-- A step-down carried out to a rung below (R44). -/
def stepDownTo (i : Fin 8) (s : State) : State :=
  s |> leaveCarrying |> sendHalt |> sendTrain i |> occurrence .stepDown i.val |> bump Ctr.stepDowns |> enterTraining

/-- A step-down asked for by a condition: carried out if a rung below is valid, else the line stays (R44). -/
def askStepDown (s : State) : State :=
  match s.rungBelow s.ls.rung with
  | some i => stepDownTo i s
  | none => s

/-- SEVERE_RUN evaluated after a grade (R42): at its becoming active a step-down is asked for. -/
def evalSevere (s : State) : State :=
  let n := s.severeCount
  if s.param .stepDownCount ≤ n then
    if s.isActive .severeRun then s else s |> occurrence .severeRun n |> askStepDown
  else endCondition .severeRun s

/-- The step-up conditions evaluated after the grade, while the line still carries (R45). -/
def evalStepUp (s : State) : State :=
  if s.carrying then
    match s.stepUpDue with
    | some i => if s.inUse then onLs (fun l => { l with stepUpDeferred := true }) s else stepUpTo i s
    | none => s
  else s

/-- The Line Supervisor's part of an uptime second (R41, R42, R45). DESIGN CHOICE: the first uptime second after a training is graded
as well, from the accumulators that the training cleared, where R30 says that after a return by training the second in progress is
not graded (log entry 52). -/
def gradeSecond (s : State) : State :=
  if s.carrying then s |> onLs (fun l => l.graded s.grade) |> evalSevere |> evalStepUp else s

/-! ## Margins (R43) -/

/-- A MARGIN taken in CARRYING (R43). -/
def marginTaken (margin : Int) (s : State) : State :=
  let s := onLs (fun l => { l with margin := margin, silence := some 0 }) s
  if margin < s.ls.inUse.minMargin then
    let s := onLs (fun l => { l with lowMargin := satAdd Config.max8 l.lowMargin 1 }) s
    if s.ls.lowMargin = 10 ∧ !s.isActive .marginLow then
      s |> occurrence .marginLow (BitVec.ofInt 16 margin).toNat |> askStepDown
    else s
  else s |> onLs (fun l => { l with lowMargin := 0 }) |> endCondition .marginLow

/-! ## LINE_ACTION (R28, R37, R38, R44, R45, R195) -/

/-- LINE_ACTION STOP (R37): the tests of channel 14 end with it (R194). DESIGN CHOICE: CARRYING is left first, so a probe reply or a
signal in progress is restarted (R9) before its source is emptied, and no frame is cut short (log entry 42). A STOP taken in STOPPED
sends HALT too (log entry 46). -/
def stopLine (s : State) : State :=
  s |> whenever s.carrying leaveCarrying |> sendHalt
    |> onLs (fun l => { l with train := none, ride := none, hold := none, backoff := none, silence := none })
    |> enterLink .stopped |> endCondition .noRung |> dropAll |> endProbe

/-- LINE_ACTION RETRAIN from CARRYING or RIDING (R38). -/
def retrainFromUp (s : State) : State :=
  let s := s |> whenever s.carrying leaveCarrying |> onLs (fun l => { l with ride := none }) |> sendHalt
  let i := s.sameRung
  s |> sendTrain i |> occurrence .retrain i.val |> enterTraining

/-- LINE_ACTION RETRAIN in a state that takes it (R38). -/
def retrain (s : State) : State :=
  match s.ls.link with
  | .carrying | .riding => retrainFromUp s
  | .training | .retraining => s |> sendHalt |> sendTrain s.sameRung
  | .waiting => newRound s
  | .stopped => s

/-- Loopback goes on for a channel, or its limit timer starts afresh (R195); a partial frame on the channel is abandoned and
its segmentation context returns to IDLE (R17). -/
def startLoopback (c : LoopChannel) (s : State) : State :=
  let limit := startSec (s.param .loopbackLimit)
  match s.ls.loopback with
  | some _ => onLs (fun l => { l with loopback := some { channel := c, limit := limit } }) s
  | none =>
    s |> onLs (fun l => { l with loopback := some { channel := c, limit := limit } }) |> bump Ctr.loopbacksStarted
      |> abandon c.chan .superseded |> dropSeg c.chan

/-- The loopback limit timer expires (R195). -/
def loopbackExpires (s : State) : State :=
  if s.ls.loopback.isSome then s |> bump Ctr.loopbackLimitExpiries |> endLoopback else s

end Sys2Proof.Machine
end

