-- ==== Sys2Proof/Machine/Home.lean ====
section
/-! DEFINITION. The data plane of the home (04_home_port_match_table_and_queues.md and 9.1): parsing, the Match Table, the
upstream queues, downstream delivery, the quiet rules, ARP answers, the downstream FIFO's completion and the home link. -/

namespace Sys2Proof.Machine

/-! ## Parsing (R76, R77) -/

/-- The fields that parsing reads; an absent field is `none` (R76, R77). -/
structure Parsed where
  dest : Option Nat
  src : Option Nat
  typeValue : Option Nat
  protocol : Option Nat
  dscp : Option Nat
  ip : Option Nat
  port : Option Nat
deriving DecidableEq, Repr

/-- Whether a frame carries a VLAN tag (R76). -/
def isTagged (f : Bytes) : Bool := numAt f 12 2 == some 0x8100

/-- Where a frame's type value stands (R76). -/
def typeOffset (f : Bytes) : Nat := if isTagged f then 16 else 12

/-- A frame's payload (R76). -/
def payloadOf (f : Bytes) : Bytes := f.drop (typeOffset f + 2)

/-- Whether a frame's IPv4 fields are read (R77). -/
def hasIpv4 (f : Bytes) : Bool :=
  numAt f (typeOffset f) 2 == some 0x0800 && 20 ≤ (payloadOf f).length &&
    ((payloadOf f).getD 0 0).toNat / 16 == 4 && 5 ≤ ((payloadOf f).getD 0 0).toNat % 16

/-- The destination port of an IPv4 payload: protocol 6 or 17, unfragmented, and the two bytes there (R77). -/
def destPort (p : Bytes) : Option Nat :=
  let byteAt (i : Nat) : Nat := (p.getD i 0).toNat
  if (byteAt 9 = 6 ∨ byteAt 9 = 17) ∧ (byteAt 6 * 256 + byteAt 7) % 16384 = 0 then
    numAt p (byteAt 0 % 16 * 4 + 2) 2
  else none

/-- A frame parsed (R76, R77). -/
def parseFrame (f : Bytes) : Parsed :=
  let p := payloadOf f
  let four := hasIpv4 f
  { dest := numAt f 0 6, src := numAt f 6 6, typeValue := numAt f (typeOffset f) 2,
    protocol := if four then numAt p 9 1 else none,
    dscp := if four then (numAt p 1 1).map (· / 4) else none,
    ip := if four then numAt p 16 4 else none,
    port := if four then destPort p else none }

/-! ## Matching (R79, R80) -/

/-- A test whose zero is the wildcard (R79). -/
def testField (want : Nat) (field : Option Nat) : Bool := want == 0 || field == some want

/-- Whether an entry's direction covers a frame's, upstream or not (R79). -/
def MatchEntry.covers (e : MatchEntry) (up : Bool) : Bool :=
  match e.dir with
  | some .both => true
  | some .up => up
  | some .down => !up
  | none => false

/-- The DSCP test (R79). -/
def MatchEntry.testDscp (e : MatchEntry) (field : Option Nat) : Bool := e.dscpAny || field == some e.dscp

/-- The port range test (R79). -/
def MatchEntry.testPort (e : MatchEntry) (field : Option Nat) : Bool :=
  (e.low == 0 && e.high == 0) ||
    match field with
    | some p => e.low ≤ p && p ≤ e.high
    | none => false

/-- Whether an entry matches a parsed frame (R79). -/
def MatchEntry.accepts (e : MatchEntry) (up : Bool) (p : Parsed) : Bool :=
  e.valid && e.covers up && testField e.dest.toNat p.dest && testField e.src.toNat p.src &&
    testField e.typeValue.toNat p.typeValue && testField e.protocol.toNat p.protocol && e.testDscp p.dscp &&
    testField e.ip.toNat p.ip && e.testPort p.port

/-- The entries in ascending index order. -/
def entryList : List (Fin 32) :=
  [0, 1, 2, 3, 4, 5, 6, 7, 8, 9, 10, 11, 12, 13, 14, 15, 16, 17, 18, 19, 20, 21, 22, 23, 24, 25, 26, 27, 28, 29, 30, 31]

/-- The first entry that matches (R80). -/
def State.matchFor (s : State) (up : Bool) (p : Parsed) : Option (Fin 32) :=
  entryList.find? fun i => (vget s.me.table i).accepts up p

/-- The hit counted on a matching entry, saturating (R80). -/
def countHit (found : Option (Fin 32)) (s : State) : State :=
  match found with
  | some i =>
    onMe (fun m =>
      { m with table := vset m.table i { vget m.table i with
          hits := satAdd Config.max32 (vget m.table i).hits 1 } }) s
  | none => s

/-- The class of a code (section 11.5). -/
def classOf : Nat → Option FrameClass
  | 1 => some .priority
  | 2 => some .bulk
  | 3 => some .drop
  | _ => none

/-- The class a frame takes: its entry's, or the default class of its direction (R80, R82). -/
def State.classFor (s : State) (up : Bool) (found : Option (Fin 32)) : FrameClass :=
  let dflt := (classOf (s.param (if up then .classUp else .classDown))).getD .bulk
  match found with
  | some i => (vget s.me.table i).cls.getD dflt
  | none => dflt

/-! ## The upstream queues (R83, R86, R87) -/

/-- The bytes a queue holds (R85). -/
def queueBytes (q : List Bytes) : Nat := (q.map List.length).sum

/-- The limit that refuses a frame: 1 for frames, 2 for bytes (R86). -/
def refusedBy (frames bytes : Nat) (q : List Bytes) (f : Bytes) : Option Nat :=
  if frames < q.length + 1 then some 1 else if bytes < queueBytes q + f.length then some 2 else none

/-- A frame offered to the Priority queue (R86). -/
def offerPriority (f : Bytes) (s : State) : State :=
  match refusedBy Config.priorityFrames Config.priorityBytes s.qm.priority f with
  | some d => s |> bump Ctr.priorityTailDrops |> occurrence .priorityDrop d
  | none => s |> onQm (fun q => { q with priority := q.priority ++ [f] }) |> bump Ctr.priorityQueued

/-- A frame offered to the Bulk queue (R86, R87). -/
def offerBulk (f : Bytes) (s : State) : State :=
  if s.onBattery then s |> bump Ctr.bulkShed |> occurrence .bulkDrop 3
  else
    match refusedBy Config.bulkFrames Config.bulkBytes s.qm.bulk f with
    | some d => s |> bump Ctr.bulkTailDrops |> occurrence .bulkDrop d
    | none => s |> onQm (fun q => { q with bulk := q.bulk ++ [f] }) |> bump Ctr.bulkQueued

/-- An upstream frame takes the action of its class (R83). -/
def classUpstream (c : FrameClass) (f : Bytes) (s : State) : State :=
  match c with
  | .priority => offerPriority f s
  | .bulk => offerBulk f s
  | .drop => bump Ctr.upDropped s

/-! ## ARP answers (R192, R221) -/

/-- Whether a frame is an ARP request (R192). -/
def isArpRequest (f : Bytes) : Bool :=
  numAt f (typeOffset f) 2 == some 0x0806 && 28 ≤ (payloadOf f).length &&
    (payloadOf f).take 8 == [0, 1, 8, 0, 6, 4, 0, 1]

/-- The Answer record that answers a request matched by an entry (R192). -/
def State.arpRecord (s : State) (found : Option (Fin 32)) (f : Bytes) : Option AnswerRecord :=
  match found with
  | none => none
  | some i =>
    match (vget s.me.table i).answer with
    | none => none
    | some k =>
      let r := vget s.me.answers k
      if r.valid ∧ natOf (((payloadOf f).drop 24).take 4) = r.ip.toNat then some r else none

/-- The ARP answer to a request (R221). -/
def arpAnswer (r : AnswerRecord) (f : Bytes) : Bytes :=
  let sender := ((payloadOf f).drop 8).take 6
  sender ++ be48 r.hw.toNat ++ (if isTagged f then (f.drop 12).take 4 else []) ++ be16 0x0806 ++
    [0, 1, 8, 0, 6, 4, 0, 2] ++ be48 r.hw.toNat ++ be32 r.ip.toNat ++ sender ++ ((payloadOf f).drop 14).take 4

/-- An upstream data frame: matched, an ARP request answered while quiet, and the class action (R80, R83, R192). -/
def upstream (f : Bytes) (s : State) : State :=
  let found := s.matchFor true (parseFrame f)
  let cls := s.classFor true found
  let s := countHit found s
  match (if s.me.quiet ∧ isArpRequest f then s.arpRecord found f else none) with
  | none => classUpstream cls f s
  | some r =>
    let forward := match found with
      | some i => (vget s.me.table i).forward
      | none => false
    let s := s |> bump Ctr.arpAnswers |> offerFifo .arpAnswer (arpAnswer r f)
    if forward then classUpstream cls f s else bump Ctr.quietDiscarded s

/-! ## Downstream (R84, R189) -/

/-- Whether a downstream frame is too short to be matched (R84). -/
def isRunt (f : Bytes) : Bool := f.length < 14 || (isTagged f && f.length < 18)

/-- Whether a downstream frame is filtered by the quiet rules: its destination is the host address, and that is not zero
(R189, log entry 32). A host address that is a group address filters like any other (log entry 45). -/
def State.forHost (s : State) (p : Parsed) : Bool :=
  s.me.quiet && s.param .hostAddress != 0 && p.dest == some (s.param .hostAddress)

/-- A downstream frame for the sleeping host (R189). -/
def quietRules (found : Option (Fin 32)) (f : Bytes) (s : State) : State :=
  match found with
  | some i =>
    let e := vget s.me.table i
    if e.wake then
      let s := s |> assertWake |> bump Ctr.wakeFrames
      if e.forward then offerFifo .delivered f s else bump Ctr.quietDiscarded s
    else bump Ctr.quietDiscarded s
  | none => bump Ctr.quietDiscarded s

/-- A frame delivered from channel 2 or 3 (R84). -/
def downstream (f : Bytes) (s : State) : State :=
  if isRunt f then bump Ctr.downRunts s
  else if 1518 < f.length then bump Ctr.downOversize s
  else
    let p := parseFrame f
    let found := s.matchFor false p
    let cls := s.classFor false found
    let host := s.forHost p
    let s := countHit found s
    if host then quietRules found f s
    else
      match cls with
      | .drop => bump Ctr.downDropped s
      | .priority | .bulk => offerFifo .delivered f s

/-! ## The home port (R91, R93) -/

/-- An item as it is sent: padded to 60 bytes, its check sequence appended (R91). -/
def onWire (f : Bytes) : Bytes :=
  let padded := f ++ List.replicate (60 - f.length) 0
  padded ++ fcsBytes padded

/-- The home port completes sending the head item (R91); the Fault Unit then offers again (R92, R177). Nothing is being sent
while the link is down or the FIFO is empty. -/
def itemSent (s : State) : State :=
  if s.qm.homeUp then
    match s.qm.fifo with
    | i :: rest =>
      s |> sendHome (onWire i.bytes) |> onQm (fun q => { q with fifo := rest }) |> bump (Ctr.itemsSent i.kind)
        |> offerLocal
    | [] => s
  else s

/-- The home link becomes up (R73, R92). -/
def homeUp (s : State) : State := s |> onQm (fun q => { q with homeUp := true }) |> offerLocal

/-- The home link becomes down: every item is discarded and counted (R73, R93). -/
def homeDown (s : State) : State :=
  let lost := s.qm.fifo
  lost.foldl (fun s i => bump (Ctr.lostLinkDown i.kind) s) (onQm (fun q => { q with homeUp := false, fifo := [] }) s)

end Sys2Proof.Machine
end

