-- ==== Sys2Proof/Machine/Operands.lean ====
section
/-! DEFINITION. The operand forms of the directives: the body of every code read from bytes and written to them (R219,
section 11.4), and the entries of the eight tables and the status record as they are read (sections 11.4 and 11.5). -/

namespace Sys2Proof.Machine

/-! ## Requests -/

/-- A directive's body, read (section 11.4). A WRITE_TABLE is one constructor per table that can be written. -/
inductive Request where
  | readTable (table first count : Byte)
  | writeProfile (index : Byte) (entry : ProfileImage)
  | writeCadence (index : Byte) (durations : List Half) (rep : Byte)
  | writeMatch (index : Byte) (entry : MatchImage)
  | writeAnswer (index valid : Byte) (hw : Mac) (ip : Ip)
  | writeFault (index level : Byte)
  | readStatus
  | readParam (ident : Byte)
  | writeParam (ident : Byte) (value : BitVec 48)
  | clearFault (kind countReset : Byte)
  | lineAction (action channel : Byte)
  | portAction (kind port cadence seconds : Byte)
  | quiet (kind hitClear : Byte)
  | reset
deriving DecidableEq, Repr

/-- The code of a directive (section 11.4). -/
def Request.code : Request → Nat
  | .readTable _ _ _ => 1
  | .writeProfile _ _ | .writeCadence _ _ _ | .writeMatch _ _ | .writeAnswer _ _ _ _ | .writeFault _ _ => 2
  | .readStatus => 3
  | .readParam _ => 4
  | .writeParam _ _ => 5
  | .clearFault _ _ => 6
  | .lineAction _ _ => 7
  | .portAction _ _ _ _ => 8
  | .quiet _ _ => 9
  | .reset => 10

/-- The bytes of 16-bit fields, one after another. -/
def halfBytes (l : List Half) : Bytes := l.flatMap fun h => be16 h.toNat

/-- The entry of a Profile write (section 11.5). -/
def profileImageBytes (e : ProfileImage) : Bytes :=
  [e.valid] ++ be16 e.rateCap.toNat ++ [e.blockSize] ++ be16 e.efficiency.toNat ++ be16 e.minMargin.toNat

/-- The entry of a Match write, 26 bytes (section 11.5). -/
def matchImageBytes (e : MatchImage) : Bytes :=
  [e.flags, e.codes] ++ be48 e.dest.toNat ++ be48 e.src.toNat ++ be16 e.typeValue.toNat ++ [e.protocol, e.dscp] ++
    be32 e.ip.toNat ++ be16 e.low.toNat ++ be16 e.high.toNat

/-- The body of a directive as it is sent (section 11.4). -/
def Request.body : Request → Bytes
  | .readTable t f c => [t, f, c]
  | .writeProfile i e => [1, i] ++ profileImageBytes e
  | .writeCadence i d r => [2, i] ++ halfBytes d ++ [r]
  | .writeMatch i e => [3, i] ++ matchImageBytes e
  | .writeAnswer i v hw ip => [4, i, v] ++ be48 hw.toNat ++ be32 ip.toNat
  | .writeFault i l => [5, i, l]
  | .readStatus | .reset => []
  | .readParam p => [p]
  | .writeParam p v => [p] ++ be48 v.toNat
  | .clearFault k c => [k, c]
  | .lineAction a c => [a, c]
  | .portAction k p c n => [k, p, c, n]
  | .quiet k h => [k, h]

/-! ## Reading a body (R219) -/

/-- A 48-bit field read from its bytes. -/
def word48 (b : Bytes) : BitVec 48 := BitVec.ofNat 48 (natOf b)

/-- A 32-bit field read from its bytes. -/
def word32 (b : Bytes) : BitVec 32 := BitVec.ofNat 32 (natOf b)

/-- 16-bit fields read from bytes, two at a time. -/
def halvesOf : Bytes → List Half
  | hi :: lo :: rest => half hi lo :: halvesOf rest
  | _ => []

/-- The 16-bit field at an offset. -/
def halfAt (b : Bytes) (off : Nat) : Half := half (b.getD off 0) (b.getD (off + 1) 0)

/-- A Match entry read from its 26 bytes (section 11.5). -/
def readMatchImage (b : Bytes) : MatchImage :=
  { flags := b.getD 0 0, codes := b.getD 1 0, dest := word48 ((b.drop 2).take 6), src := word48 ((b.drop 8).take 6),
    typeValue := halfAt b 14, protocol := b.getD 16 0, dscp := b.getD 17 0, ip := word32 ((b.drop 18).take 4),
    low := halfAt b 22, high := halfAt b 24 }

/-- The entry of a WRITE_TABLE read, when it has the length of its table's entry (section 11.5). -/
def parseEntry (table : Nat) (index : Byte) (b : Bytes) : Option Request :=
  match table with
  | 1 => if b.length = 8 then
      some (.writeProfile index
        { valid := b.getD 0 0, rateCap := halfAt b 1, blockSize := b.getD 3 0, efficiency := halfAt b 4,
          minMargin := halfAt b 6 })
    else none
  | 2 => if b.length = 17 then some (.writeCadence index (halvesOf (b.take 16)) (b.getD 16 0)) else none
  | 3 => if b.length = 26 then some (.writeMatch index (readMatchImage b)) else none
  | 4 => if b.length = 11 then
      some (.writeAnswer index (b.getD 0 0) (word48 ((b.drop 1).take 6)) (word32 ((b.drop 7).take 4)))
    else none
  | 5 => if b.length = 1 then some (.writeFault index (b.getD 0 0)) else none
  | _ => none

/-- A directive's body read: nothing when it is not the length its code and table call for (R205, R219). -/
def parseRequest (code : Nat) (b : Bytes) : Option Request :=
  match code, b with
  | 1, [t, f, c] => some (.readTable t f c)
  | 2, t :: i :: e => parseEntry t.toNat i e
  | 3, [] => some .readStatus
  | 4, [p] => some (.readParam p)
  | 5, p :: v => if v.length = 6 then some (.writeParam p (word48 v)) else none
  | 6, [k, c] => some (.clearFault k c)
  | 7, [a, c] => some (.lineAction a c)
  | 8, [k, p, c, n] => some (.portAction k p c n)
  | 9, [k, h] => some (.quiet k h)
  | 10, [] => some .reset
  | _, _ => none

/-- A flag or mark byte: 0 or 1, anything else is no code (section 11.5). -/
def flagOf (b : Byte) : Option Bool := if b = 0 then some false else if b = 1 then some true else none

/-- A block size code (section 11.5). -/
def sizeOf (b : Byte) : Option BlockSize :=
  if b = 0 then some .b32 else if b = 1 then some .b64 else if b = 2 then some .b128 else none

/-- A port byte (section 11.2). -/
def portOf (b : Byte) : Option Port := if b = 1 then some .a else if b = 2 then some .b else none

/-- A direction code (section 11.5). -/
def directionOf : Nat → Option Direction
  | 1 => some .up
  | 2 => some .down
  | 3 => some .both
  | _ => none

/-- An answer record index code: 0 to 3, or 7 for none (section 11.5). -/
def answerOf (code : Nat) : Option (Option (Fin 4)) :=
  if h : code < 4 then some (some ⟨code, h⟩) else if code = 7 then some none else none

/-! ## Table entries as read (section 11.5) -/

/-- A rung as read. -/
def Rung.bytes (r : Rung) : Bytes :=
  [byteBool r.valid] ++ be16 r.cap ++ [byteOf r.size.code] ++ be16 r.eff ++ be16Int r.minMargin

/-- A cadence as read. -/
def Cadence.bytes (c : Cadence) : Bytes := c.durations.toList.flatMap be16 ++ [byteBool c.rep]

/-- A direction's code; 0 for an entry no write has stored. -/
def directionCode : Option Direction → Nat
  | none => 0
  | some .up => 1
  | some .down => 2
  | some .both => 3

/-- A class's code; 0 for an entry no write has stored. -/
def classCode : Option FrameClass → Nat
  | none => 0
  | some .priority => 1
  | some .bulk => 2
  | some .drop => 3

/-- An answer record index's code. -/
def answerCode : Option (Fin 4) → Nat
  | some i => i.val
  | none => 7

/-- A Match entry as read, 30 bytes. -/
def MatchEntry.bytes (e : MatchEntry) : Bytes :=
  [byteOf (e.valid.toNat + 2 * e.wake.toNat + 4 * e.forward.toNat + 8 * e.dscpAny.toNat),
   byteOf (64 * directionCode e.dir + 16 * classCode e.cls + answerCode e.answer)] ++
    be48 e.dest.toNat ++ be48 e.src.toNat ++ be16 e.typeValue.toNat ++ [e.protocol, byteOf e.dscp] ++
    be32 e.ip.toNat ++ be16 e.low ++ be16 e.high ++ be32 e.hits

/-- An Answer record as read. -/
def AnswerRecord.bytes (r : AnswerRecord) : Bytes := [byteBool r.valid] ++ be48 r.hw.toNat ++ be32 r.ip.toNat

/-- A Fault record as read. -/
def faultBytes (k : FaultKind) (r : FaultRecord) : Bytes :=
  [byteOf k.number, byteBool !k.isCondition, byteBool r.active] ++ be16 r.count ++ be32 r.first ++ be32 r.last ++
    be16 r.detail ++
    [byteOf r.locLevel, byteOf r.exchLevel, byteOf (r.locLatch.toNat + 2 * r.exchLatch.toNat)]

/-- The alert limit remaining, 0xFFFF when it is stopped. -/
def alertRemaining : Option Timer → Nat
  | some t => t.remaining
  | none => 65535

/-- An end cause as read. -/
def endCauseCode : Option Cause → Nat
  | some c => c.code
  | none => 0

/-- A call direction's code. -/
def CallDir.code : CallDir → Nat
  | .out => 0
  | .inward => 1

/-- A slot record as read. -/
def CallSlot.bytes (c : CallSlot) : Bytes :=
  [byteOf c.state.code, byteBool c.held, byteOf c.attached.mask, byteOf c.ringSet.mask, byteOf c.dir.code] ++
    be32 c.stamp ++ [byteOf c.cadence, byteBool c.group] ++ be16 (alertRemaining c.alert) ++ be32 c.start ++
    be32 c.sent ++ be32 c.received ++ [byteOf (endCauseCode c.endCause), byteBool c.mark]

/-- A grade position as read; 0 beyond the grades held (R210). -/
def gradeCode : Option Grade → Nat
  | none => 0
  | some .clean => 1
  | some .errored => 2
  | some .severe => 3

/-- The first and the last index of a table (R210). -/
def tableRange : Nat → Nat × Nat
  | 1 => (0, 7)
  | 2 => (0, 7)
  | 3 => (0, 31)
  | 4 => (0, 3)
  | 5 => (1, 20)
  | 6 => (0, 1)
  | 7 => (0, 59)
  | _ => (0, 175)

/-- One entry of a table as read (R210, section 11.5). -/
def State.entryBytes (s : State) (table i : Nat) : Bytes :=
  match table with
  | 1 => (vget s.ls.profile (Fin.ofNat 8 i)).bytes
  | 2 => (vget s.ppu.cadences (Fin.ofNat 8 i)).bytes
  | 3 => (vget s.me.table (Fin.ofNat 32 i)).bytes
  | 4 => (vget s.me.answers (Fin.ofNat 4 i)).bytes
  | 5 => match FaultKind.ofNumber i with
    | some k => faultBytes k (s.fault k)
    | none => []
  | 6 => (s.call (if i = 0 then .zero else .one)).bytes
  | 7 => [byteOf (gradeCode s.ls.history[i]?)]
  | _ => be16 i ++ be32 (s.counter (Fin.ofNat 176 i))

/-! ## The status record (R214, section 11.4) -/

/-- A link state's code. -/
def LinkState.code : LinkState → Nat
  | .stopped => 0
  | .training => 1
  | .carrying => 2
  | .riding => 3
  | .retraining => 4
  | .waiting => 5

/-- A port state's code. -/
def PortState.code : PortState → Nat
  | .disabled => 0
  | .idle => 1
  | .ringing => 2
  | .inCall => 3
  | .released => 4
  | .parked => 5
  | .testing => 6
  | .localTone => 7

/-- A power state's code. -/
def PowerState.code : PowerState → Nat
  | .mains => 0
  | .battery => 1
  | .low => 2

/-- A reset cause's code. -/
def ResetCause.code : ResetCause → Nat
  | .powerUp => 0
  | .localDirective => 1
  | .exchangeDirective => 2

/-- The loopback byte. -/
def loopbackCode : Option Loopback → Nat
  | none => 0
  | some l => l.channel.chan.val

/-- The status record, 23 bytes (R214). -/
def State.statusRecord (s : State) : Bytes :=
  [byteOf s.ls.link.code, byteOf s.ls.rung.val] ++ be16 s.ls.rate ++ be16Int s.ls.margin ++
    [byteOf (loopbackCode s.ls.loopback)] ++ be16 s.lbu.sustained ++ be16 s.lbu.blocks ++
    [byteOf s.reserved, byteOf (s.port .a).state.code, byteOf (s.port .b).state.code, byteBool s.qm.homeUp,
     byteOf s.fu.power.code, byteBool s.me.quiet, byteBool s.me.wake] ++ be32 s.fu.uptime ++
    [byteOf s.du.cause.code]

end Sys2Proof.Machine
end

