-- ==== Sys2Proof/Machine/Resets.lean ====
section
/-! DEFINITION. The two resets: power-up (R215) and directed (R216), each followed by the start of the line when
auto-start is on (R28). -/

namespace Sys2Proof.Machine

/-- Whether auto-start is on (R28, section 11.6). -/
def State.autoStart (s : State) : Bool := s.param .autoStart == 1

/-- Power being applied: every block at its power-up values, then the line started if auto-start is on (R215, R28). The
commands that wait, the model's record of the outputs and its count of free values are not the part's and stay. -/
def powerUp (s : State) : State :=
  let r := { State.reset with pending := s.pending, out := s.out, free := s.free }
  whenever r.autoStart startLine r

/-- A parameter at a directed reset: the exchange-owned ones are kept, the local-owned ones return to their defaults (R208). -/
def keepParam (params : Vector Nat 30) (p : Param) : Nat :=
  match p.owner with
  | .exch => vget params p.index
  | .loc => p.default

/-- The parameter set after a directed reset (R208). -/
def keptParams (v : Vector Nat 30) : Vector Nat 30 :=
  #v[keepParam v .rideTime, keepParam v .trainTimeout, keepParam v .holdLimit, keepParam v .severeThreshold,
     keepParam v .stepDownCount, keepParam v .stepUpPeriod, keepParam v .marginHysteresis, keepParam v .floorRate,
     keepParam v .startRung, keepParam v .autoStart, keepParam v .dataFloor, keepParam v .alertLimit,
     keepParam v .loopbackLimit, keepParam v .ownAddress, keepParam v .hostAddress, keepParam v .classUp,
     keepParam v .classDown, keepParam v .bulkFloor, keepParam v .wakeLevel, keepParam v .playoutTarget,
     keepParam v .flashMaximum, keepParam v .interdigitTime, keepParam v .parkTime, keepParam v .joinPolicy,
     keepParam v .upGainA, keepParam v .upGainB, keepParam v .downGainA, keepParam v .downGainB,
     keepParam v .clipThreshold, keepParam v .lossThreshold]

/-- The cause of a directed reset (R216). -/
def resetCauseOf : Authority → ResetCause
  | .loc => .localDirective
  | .exch => .exchangeDirective

/-- Every block at its directed-reset values, before the occurrences and ends that the reset gives rise to (R19, R49, R72,
R96, R124, R145, R166, R186, R202, R216). The records, the power monitor, the uptime and the sample clock run on.
The home link is detected up again by a HOME_LINK_UP command of its own (log entry 43). -/
def resetBlocks (a : Authority) (s : State) : State :=
  let params := keptParams s.du.params
  { s with
    bf := framerReset, ls := supervisorReset s.ls.profile, lbu := budgetReset (vget params Param.dataFloor.index),
    me := matchEngineReset, qm := queuesReset, ppu := phoneReset s.ppu.cadences, cc := callsReset, mdu := mediaReset,
    fu := { s.fu with exchList := [], locList := [] },
    du := { params := params, manager := s.du.manager, cause := resetCauseOf a }, tr := testResponderReset,
    counters := Vector.replicate 176 0 }

/-- The conditions a directed reset makes untrue, ended (R49, R124, R145, R186). -/
def endAtReset (s : State) : State :=
  s |> endCondition .noRung |> endCondition .severeRun |> endCondition .marginLow |> endCondition .portParked
    |> endCondition .clipping |> endCondition .playoutLoss

/-- A directed reset (R216): HALT, every block reset, conditions ended, LINE_DOWN if the line was up or held, then the line
started if auto-start is on (R49, R28). -/
def directedReset (a : Authority) (s : State) : State :=
  let lost := s.ls.link.wasUp
  let rate := s.ls.rate
  let s := s |> resetBlocks a |> sendHalt |> endAtReset |> whenever lost (occurrence .lineDown rate)
  whenever s.autoStart startLine s

end Sys2Proof.Machine
end

