-- ==== Sys2Proof/Machine/Directives.lean ====
section
/-! DEFINITION. The Directive Unit (10_directives.md): the checks in their order, what each code does, and the replies. -/

namespace Sys2Proof.Machine

/-! ## Statuses and replies (R205, section 11.4) -/

/-- Reply statuses (section 11.4). -/
inductive Status where
  | done | notOwner | badTable | badIndex | badLength | badValue | busy | wrongState | stillActive | unknown
deriving DecidableEq, Repr

/-- A status's code (section 11.4). -/
def Status.code : Status → Nat
  | .done => 0
  | .notOwner => 1
  | .badTable => 2
  | .badIndex => 3
  | .badLength => 4
  | .badValue => 5
  | .busy => 6
  | .wrongState => 7
  | .stillActive => 8
  | .unknown => 9

/-- The counter of a reply with a status (R217). -/
def Status.counter : Status → Counter
  | .done => Ctr.repliesDone
  | .notOwner => Ctr.repliesRefused 0
  | .badTable => Ctr.repliesRefused 1
  | .badIndex => Ctr.repliesRefused 2
  | .badLength => Ctr.repliesRefused 3
  | .badValue => Ctr.repliesRefused 4
  | .busy => Ctr.repliesRefused 5
  | .wrongState => Ctr.repliesRefused 6
  | .stillActive => Ctr.repliesRefused 7
  | .unknown => Ctr.repliesRefused 8

/-- What a directive answers: its state afterwards, its status, and the body after the status byte. -/
structure Answer where
  state : State
  status : Status
  body : Bytes

/-- A directive that is done. -/
def doneWith (body : Bytes) (s : State) : Answer := { state := s, status := .done, body := body }

/-- A directive that is refused: the body is empty (R205). -/
def refuse (status : Status) (s : State) : Answer := { state := s, status := status, body := [] }

/-- The authority of a sender (R203, R204). -/
def senderAuthority : Sender → Authority
  | .loc _ => .loc
  | .exch => .exch

/-- An authority's number in a DIRECTIVE_REFUSED detail (R206). -/
def Authority.number : Authority → Nat
  | .loc => 1
  | .exch => 2

/-- The bytes of a reply (section 11.4). -/
def replyMsg (codeByte : Byte) (tag : Half) (status : Status) (body : Bytes) : Bytes :=
  [1, codeByte] ++ be16 tag.toNat ++ be16 (body.length + 1) ++ [byteOf status.code] ++ body

/-- A reply sent back the way the directive came (R203, R204): the exchange reply queue never takes a fifth (R89). -/
def sendReply (a : Authority) (msg : Bytes) (s : State) : State :=
  match a with
  | .loc => offerFifo .localReply (s.localFrame msg) s
  | .exch => if s.qm.replies.length < Config.replies then pushReply msg s else s

/-- A directive's reply, counted and sent (R205, R217). -/
def answerWith (sender : Sender) (codeByte : Byte) (tag : Half) (r : Answer) : State :=
  r.state |> bump r.status.counter |> sendReply (senderAuthority sender) (replyMsg codeByte tag r.status r.body)

/-- The code byte of a reply to a code (section 11.4). -/
def replyCode (code : Nat) : Byte := byteOf (128 + code)

/-- A NOT_OWNER refusal: counted, recorded as DIRECTIVE_REFUSED, answered (R206). -/
def refuseOwner (sender : Sender) (code : Nat) (tag : Half) (table : Nat) (s : State) : State :=
  let a := senderAuthority sender
  s |> bump (Ctr.notOwner a) |> occurrence .directiveRefused (a.number * 256 + table)
    |> (fun s => answerWith sender (replyCode code) tag (refuse .notOwner s))

/-! ## Tables (R210, R211) -/

/-- READ_TABLE (R210). -/
def readTableAct (table first count : Byte) (s : State) : Answer :=
  let t := table.toNat
  let lo := (tableRange t).1
  let hi := (tableRange t).2
  let f := first.toNat
  if f < lo ∨ hi < f then refuse .badIndex s
  else
    let n := min (clamp 1 8 count.toNat) (hi + 1 - f)
    doneWith ([table, first, byteOf n] ++ (List.range n).flatMap fun i => s.entryBytes t (f + i)) s

/-- A directive whose stored value differs from the value sent (R217). -/
def countClamp (differs : Bool) : State → State := whenever differs (bump Ctr.paramsClamped)

/-- A rung as a write stores it, its numbers clamped (R24). -/
def rungOf (valid : Bool) (size : BlockSize) (e : ProfileImage) : Rung :=
  { valid := valid, cap := clamp 32 16383 e.rateCap.toNat, size := size, eff := clamp 256 512 e.efficiency.toNat,
    minMargin := clampInt (-100) 300 e.minMargin.toInt }

/-- Whether a stored rung's numbers differ from those sent. -/
def rungDiffers (r : Rung) (e : ProfileImage) : Bool :=
  r.cap != e.rateCap.toNat || r.eff != e.efficiency.toNat || r.minMargin != e.minMargin.toInt

/-- Whether a rung is the only valid one (R24). -/
def State.onlyValid (s : State) (i : Fin 8) : Bool :=
  s.rungValid i && rungList.all fun j => j == i || !s.rungValid j

/-- WRITE_TABLE of the Profile Table (R24). -/
def writeProfileAct (index : Byte) (e : ProfileImage) (s : State) : Answer :=
  if h : index.toNat < 8 then
    let i : Fin 8 := ⟨index.toNat, h⟩
    match flagOf e.valid, sizeOf e.blockSize with
    | some valid, some size =>
      if s.ls.link.isTraining ∧ i = s.ls.rung then refuse .busy s
      else if !valid ∧ s.onlyValid i then refuse .badValue s
      else
        let r := rungOf valid size e
        s |> onLs (fun l => { l with profile := vset l.profile i r }) |> countClamp (rungDiffers r e)
          |> doneWith ([1, index] ++ r.bytes)
    | _, _ => refuse .badValue s
  else refuse .badIndex s

/-- A cadence as a write stores it, its durations clamped (R114). -/
def cadenceFrom (durations : List Half) (rep : Bool) : Cadence :=
  { durations := Vector.ofFn fun i : Fin 8 => min (durations.getD i.val 0).toNat 800, rep := rep }

/-- WRITE_TABLE of the Cadence Table (R114). -/
def writeCadenceAct (index : Byte) (durations : List Half) (rep : Byte) (s : State) : Answer :=
  if h : index.toNat < 8 then
    match flagOf rep with
    | some r =>
      let c := cadenceFrom durations r
      s |> onPpu (fun u => { u with cadences := vset u.cadences ⟨index.toNat, h⟩ c })
        |> countClamp (durations.any fun d => 800 < d.toNat) |> doneWith ([2, index] ++ c.bytes)
    | none => refuse .badValue s
  else refuse .badIndex s

/-- A Match entry as a write stores it, its hit count 0 (R81); nothing when a coded field holds no code. -/
def matchFrom (e : MatchImage) : Option MatchEntry :=
  let flags := e.flags.toNat
  let codes := e.codes.toNat
  match directionOf (codes / 64), classOf (codes / 16 % 4), answerOf (codes % 8) with
  | some d, some c, some a =>
    some
      { valid := flags % 2 == 1, dir := some d, dest := e.dest, src := e.src, typeValue := e.typeValue,
        protocol := e.protocol, dscp := min e.dscp.toNat 63, dscpAny := flags / 8 % 2 == 1, ip := e.ip,
        low := e.low.toNat, high := e.high.toNat, cls := some c, wake := flags / 2 % 2 == 1,
        forward := flags / 4 % 2 == 1, answer := a, hits := 0 }
  | _, _, _ => none

/-- WRITE_TABLE of the Match Table (R81). -/
def writeMatchAct (index : Byte) (e : MatchImage) (s : State) : Answer :=
  if h : index.toNat < 32 then
    match matchFrom e with
    | some m =>
      s |> onMe (fun u => { u with table := vset u.table ⟨index.toNat, h⟩ m })
        |> countClamp (63 < e.dscp.toNat) |> doneWith ([3, index] ++ m.bytes)
    | none => refuse .badValue s
  else refuse .badIndex s

/-- WRITE_TABLE of the Answer Table (R191). -/
def writeAnswerAct (index valid : Byte) (hw : Mac) (ip : Ip) (s : State) : Answer :=
  if h : index.toNat < 4 then
    match flagOf valid with
    | some v =>
      let r : AnswerRecord := { valid := v, hw := hw, ip := ip }
      s |> onMe (fun u => { u with answers := vset u.answers ⟨index.toNat, h⟩ r })
        |> doneWith ([4, index] ++ r.bytes)
    | none => refuse .badValue s
  else refuse .badIndex s

/-- A record with an authority's level replaced (R172). -/
def FaultRecord.withLevel (r : FaultRecord) (a : Authority) (level : Nat) : FaultRecord :=
  match a with
  | .loc => { r with locLevel := level }
  | .exch => { r with exchLevel := level }

/-- A level set to 0 removes the writer's pending item of the kind; an exchange notice of it in progress is cut short (R172,
R10). -/
def removeItem (a : Authority) (k : FaultKind) (s : State) : State :=
  let isNotice (src : Source) : Bool := match src with
    | .notice j _ => j == k
    | _ => false
  match a with
  | .loc => whenever (holdsKind k s.fu.locList) (fun s => s |> onList .loc (removeKind k) |> bump Ctr.itemsRemoved) s
  | .exch =>
    whenever (holdsKind k s.fu.exchList) (fun s =>
      s |> cutShort 15 isNotice |> onList .exch (removeKind k) |> bump Ctr.itemsRemoved) s

/-- WRITE_TABLE of the Fault Table: the writer's level (R172). -/
def writeFaultAct (a : Authority) (index level : Byte) (s : State) : Answer :=
  match FaultKind.ofNumber index.toNat with
  | none => refuse .badIndex s
  | some k =>
    let stored := clamp (k.levelRule a).2.1 (k.levelRule a).2.2 level.toNat
    let r := (s.fault k).withLevel a stored
    s |> setRec k r |> whenever (stored == 0) (removeItem a k) |> countClamp (stored != level.toNat)
      |> doneWith ([5, index] ++ faultBytes k r)

/-! ## Parameters (R209) -/

/-- READ_PARAM (R209). -/
def readParamAct (ident : Byte) (s : State) : Answer :=
  match Param.ofIdent ident.toNat with
  | none => refuse .badIndex s
  | some p => doneWith ([ident] ++ be48 (s.param p)) s

/-- A parameter stored, and the data floor put to its effect (R59, R209). -/
def storeParam (p : Param) (v : Nat) (s : State) : State :=
  s |> setParam p v |> whenever (p == .dataFloor) (floorWritten v)

/-- WRITE_PARAM from the parameter's owner (R209): numbers are clamped, codes checked, addresses taken as written. -/
def writeParamAct (ident : Byte) (value : BitVec 48) (s : State) : Answer :=
  match Param.ofIdent ident.toNat with
  | none => refuse .badIndex s
  | some p =>
    let v := value.toNat
    match p.rule with
    | .number lo hi =>
      let w := clamp lo hi v
      s |> storeParam p w |> countClamp (w != v) |> doneWith ([ident] ++ be48 w)
    | .coded codes =>
      if codes.contains v then s |> storeParam p v |> doneWith ([ident] ++ be48 v) else refuse .badValue s
    | .address => s |> storeParam p v |> doneWith ([ident] ++ be48 v)

/-! ## CLEAR_FAULT (R173) -/

/-- A record cleared by an authority (R173). -/
def FaultRecord.cleared (r : FaultRecord) (a : Authority) (counts : Bool) : FaultRecord :=
  let r := match a with
    | .loc => { r with locLatch := false }
    | .exch => { r with exchLatch := false }
  if counts then { r with count := 0, first := 0, last := 0, detail := 0 } else r

/-- A record that is not active is cleared, an active one is left (R173). -/
def clearKind (a : Authority) (counts : Bool) (k : FaultKind) (s : State) : State :=
  if s.isActive k then s else setRec k ((s.fault k).cleared a counts) s

/-- CLEAR_FAULT (R173). -/
def clearFaultAct (a : Authority) (kind flag : Byte) (s : State) : Answer :=
  match flagOf flag with
  | none => refuse .badValue s
  | some counts =>
    if kind = 0 then
      let skipped := FaultKind.all.countP fun k => s.isActive k
      FaultKind.all.foldl (fun s k => clearKind a counts k s) s |> doneWith [kind, byteOf skipped]
    else
      match FaultKind.ofNumber kind.toNat with
      | none => refuse .badValue s
      | some k =>
        if s.isActive k then { state := s, status := .stillActive, body := [kind, 1] }
        else s |> clearKind a counts k |> doneWith [kind, 0]

/-! ## LINE_ACTION (R212) -/

/-- A loopback channel byte (R195). -/
def loopChannelOf (b : Byte) : Option LoopChannel :=
  if b = 3 then some .three else if b = 14 then some .fourteen else none

/-- LINE_ACTION START (R28). -/
def startAct (s : State) : Answer :=
  match s.ls.link with
  | .stopped => s |> startLine |> doneWith []
  | .waiting => s |> newRound |> doneWith []
  | .training | .carrying | .riding | .retraining => refuse .wrongState s

/-- LINE_ACTION RETRAIN (R38). -/
def retrainAct (s : State) : Answer :=
  match s.ls.link with
  | .stopped => refuse .wrongState s
  | .training | .carrying | .riding | .retraining | .waiting => s |> retrain |> doneWith []

/-- LINE_ACTION STEP_DOWN (R44). -/
def stepDownAct (s : State) : Answer :=
  match s.rungBelow s.ls.rung with
  | some i => if s.carrying then s |> stepDownTo i |> doneWith [] else refuse .wrongState s
  | none => refuse .wrongState s

/-- LINE_ACTION STEP_UP (R45). -/
def stepUpAct (s : State) : Answer :=
  match s.stepUpRung with
  | some i => if s.carrying ∧ !s.inUse then s |> stepUpTo i |> doneWith [] else refuse .wrongState s
  | none => refuse .wrongState s

/-- LINE_ACTION LOOP_ON (R195). -/
def loopOnAct (channel : Byte) (s : State) : Answer :=
  match loopChannelOf channel with
  | none => refuse .badValue s
  | some c =>
    if !s.carrying then refuse .wrongState s
    else
      match s.ls.loopback with
      | some l => if l.channel = c then s |> startLoopback c |> doneWith [] else refuse .wrongState s
      | none => s |> startLoopback c |> doneWith []

/-- LINE_ACTION (R212): the channel byte acts only for LOOP_ON. -/
def lineActionAct (action channel : Byte) (s : State) : Answer :=
  match action.toNat with
  | 1 => startAct s
  | 2 => s |> stopLine |> doneWith []
  | 3 => retrainAct s
  | 4 => stepDownAct s
  | 5 => stepUpAct s
  | 6 => loopOnAct channel s
  | 7 => s |> endLoopback |> doneWith []
  | _ => refuse .badValue s

/-! ## PORT_ACTION (R112, R197, R213) -/

/-- TEST_RING or ECHO_TEST on a port: cadence, context, port state and power checked in order (R197). A test ring that the power
limit would hold back is refused with BUSY before it reaches the port, and a refusal with BUSY changes no state and records no
fault (R205, R206). DEDUCED: what R120 says of a port held back is said of a ring request (log entry 39). -/
def testAct (kind : TestKind) (a : Authority) (tag : Half) (p : Port) (cadence seconds : Byte) (s : State) : Answer :=
  match s.cadenceOf cadence.toNat with
  | none => refuse .badValue s
  | some cad =>
    if s.tr.test.isSome then refuse .busy s
    else if (s.port p).state ≠ .idle then refuse .wrongState s
    else if s.onBattery && s.holdsRinger p.other then refuse .busy s
    else
      let n := clamp 1 60 seconds.toNat
      s |> startTest
            { kind := kind, port := p, auth := a, tag := tag, cadence := cad, seconds := n, phase := .ring,
              timer := some (startSec n), answerTime := 0, delay := 0, line := [] }
        |> doneWith [byteOf n]

/-- PORT_ACTION RELEASE_PORT (R112). -/
def releaseAct (p : Port) (s : State) : Answer :=
  match (s.port p).state with
  | .inCall | .ringing => s |> releasePortAct p |> doneWith []
  | .disabled | .idle | .released | .parked | .testing | .localTone => refuse .wrongState s

/-- PORT_ACTION DISABLE (R112). -/
def disableAct (p : Port) (s : State) : Answer :=
  match (s.port p).state with
  | .testing => refuse .wrongState s
  | .disabled | .idle | .ringing | .inCall | .released | .parked | .localTone => s |> disablePort p |> doneWith []

/-- PORT_ACTION on a port (R112, R197): the cadence and seconds bytes act only for the two tests. -/
def portActionAct (a : Authority) (tag : Half) (kind port cadence seconds : Byte) (s : State) : Answer :=
  match portOf port with
  | none => refuse .badValue s
  | some p =>
    match kind.toNat with
    | 1 => testAct .ring a tag p cadence seconds s
    | 2 => testAct .echo a tag p cadence seconds s
    | 3 => releaseAct p s
    | 4 => disableAct p s
    | 5 => s |> enablePort p |> doneWith []
    | _ => refuse .badValue s

/-! ## QUIET (R187, R188) -/

/-- QUIET ENTER (R187). -/
def quietEnterAct (s : State) : Answer :=
  if s.param .hostAddress = 0 then refuse .wrongState s
  else if s.me.quiet then doneWith [] s
  else
    s |> onMe (fun m => { m with quiet := true, wake := false }) |> bump Ctr.quietEntries |> doneWith []

/-- The hit counts of the wake entries set to 0 (R188). -/
def clearHits (t : Vector MatchEntry 32) : Vector MatchEntry 32 := t.map fun e => if e.wake then { e with hits := 0 } else e

/-- QUIET LEAVE (R188). DESIGN CHOICE: taken with the quiet flag already clear it is a leave all the same, so the head of the
local list is offered again (log entry 40). -/
def quietLeaveAct (hitClear : Byte) (s : State) : Answer :=
  match flagOf hitClear with
  | none => refuse .badValue s
  | some clear =>
    s |> onMe (fun m => { m with quiet := false, wake := false, table := if clear then clearHits m.table else m.table })
      |> offerLocal |> doneWith []

/-- QUIET: the hit-clear flag acts only for LEAVE (R213, section 11.4). -/
def quietAct (kind hitClear : Byte) (s : State) : Answer :=
  if kind = 1 then quietEnterAct s
  else if kind = 2 then quietLeaveAct hitClear s
  else refuse .badValue s

/-! ## A directive taken (R205) -/

/-- What a directive of the right form does (R205: index, coded values, state). A RESET is not answered here (R216). -/
def act (sender : Sender) (tag : Half) (r : Request) (s : State) : Answer :=
  let a := senderAuthority sender
  match r with
  | .readTable t f c => readTableAct t f c s
  | .writeProfile i e => writeProfileAct i e s
  | .writeCadence i d rep => writeCadenceAct i d rep s
  | .writeMatch i e => writeMatchAct i e s
  | .writeAnswer i v hw ip => writeAnswerAct i v hw ip s
  | .writeFault i l => writeFaultAct a i l s
  | .readStatus => doneWith s.statusRecord s
  | .readParam p => readParamAct p s
  | .writeParam p v => writeParamAct p v s
  | .clearFault k c => clearFaultAct a k c s
  | .lineAction x c => lineActionAct x c s
  | .portAction k p c n => portActionAct a tag k p c n s
  | .quiet k h => quietAct k h s
  | .reset => doneWith [] s

/-- A directive whose form is right: a RESET resets without a reply, any other is answered (R205, R216). -/
def takeRequest (sender : Sender) (tag : Half) (r : Request) (s : State) : State :=
  match r with
  | .reset => directedReset (senderAuthority sender) s
  | r => answerWith sender (replyCode r.code) tag (act sender tag r s)

/-- Whether a body names a table other than 1 to 8 (R205, R219). -/
def tableWrong (code : Nat) (body : Bytes) : Bool :=
  (code == 1 || code == 2) &&
    match body with
    | t :: _ => t == 0 || 8 < t.toNat
    | [] => false

/-- The owner of a parameter identifier is the other authority (R207, R208). -/
def paramNotOwned (sender : Sender) (ident : Byte) : Bool :=
  match Param.ofIdent ident.toNat with
  | some p => p.owner != senderAuthority sender
  | none => false

/-- Whether an authority may write a table (R206). -/
def Authority.mayWrite : Authority → Nat → Bool
  | .exch, t => t == 1 || t == 2 || t == 5
  | .loc, t => t == 3 || t == 4 || t == 5

/-- Whether the sender may not use the code, action, table or parameter, as far as the body holds the byte that says so
(R206, R207, R219). -/
def ownerWrong (sender : Sender) (code : Nat) (body : Bytes) : Bool :=
  match body with
  | [] => false
  | b :: _ =>
    match code with
    | 2 => !(senderAuthority sender).mayWrite b.toNat
    | 5 => paramNotOwned sender b
    | 7 => senderAuthority sender == .loc && (b == 6 || b == 7)
    | 9 => senderAuthority sender == .exch
    | _ => false

/-- The table number of a DIRECTIVE_REFUSED detail: 0 but for a table (R206). -/
def refusedTable (code : Nat) (body : Bytes) : Nat := if code = 2 then (body.headD 0).toNat else 0

/-- A directive of one of the ten codes with its body: table, owner and body length checked, then it acts (R205). -/
def takeBody (sender : Sender) (code : Nat) (tag : Half) (body : Bytes) (s : State) : State :=
  if tableWrong code body then answerWith sender (replyCode code) tag (refuse .badTable s)
  else if ownerWrong sender code body then refuseOwner sender code tag (refusedTable code body) s
  else
    match parseRequest code body with
    | none => answerWith sender (replyCode code) tag (refuse .badLength s)
    | some r => takeRequest sender tag r s

/-- A management message taken (R205, R219): header, version, code and message length checked first. -/
def takeMessage (sender : Sender) (m : Bytes) (s : State) : State :=
  if m.length < 6 then bump Ctr.directivesMalformed s
  else
    let code := (m.getD 1 0).toNat
    let tag := halfAt m 2
    let len := (halfAt m 4).toNat
    if m.getD 0 0 ≠ 1 ∨ code = 0 ∨ 10 < code then answerWith sender 0x80 tag (refuse .unknown s)
    else if m.length < 6 + len then answerWith sender (replyCode code) tag (refuse .badLength s)
    else takeBody sender code tag ((m.drop 6).take len) s

/-- A directive reaches the Directive Unit: a local one leaves its source as the manager address (R203), an exchange one is
discarded unread while the reply queue holds four replies (R204); either is counted (R217). -/
def receiveDirective (sender : Sender) (take : State → State) (s : State) : State :=
  match sender with
  | .loc source => s |> onDu (fun d => { d with manager := some source }) |> bump (Ctr.received .loc) |> take
  | .exch =>
    let s := bump (Ctr.received .exch) s
    if s.qm.replies.length < Config.replies then take s else bump Ctr.exchangeDiscarded s

/-- A directive given as its body: a row of the command table. -/
def directive (sender : Sender) (tag : Half) (r : Request) : State → State :=
  receiveDirective sender (takeBody sender r.code tag r.body)

end Sys2Proof.Machine
end

