-- ==== Sys2Proof/Machine/Receive.lean ====
section
/-! DEFINITION. What arrives: a line block through the framer's checks and reassembly to its consumer (R11 to R17), and a
frame at the home port (R74, R75). -/

namespace Sys2Proof.Machine

/-! ## A line block read (section 11.1) -/

/-- The fields of a received block; the urgent mark is not examined (R2). -/
structure LineBlock where
  chan : Chan
  kind : BlockKind
  fill : Bool
  seq : Byte
  used : Nat
  frameNo : Byte
  payload : Bytes
deriving DecidableEq, Repr

/-- Whether a received block is good: of the size in use, and its CRC is that of its header and payload area (R3; log entry
13). -/
def blockGood (size : BlockSize) (b : Bytes) : Bool :=
  b.length == size.bytes && b.drop (size.bytes - 2) == be16 (crc16 (b.take (size.bytes - 2))).toNat

/-- A good block's fields (section 11.1). -/
def readBlock (size : BlockSize) (b : Bytes) : LineBlock :=
  let head := (b.getD 0 0).toNat
  { chan := Fin.ofNat 16 (head / 16), kind := BlockKind.ofCode (head / 4 % 4), fill := head % 2 == 1,
    seq := b.getD 1 0, used := (b.getD 2 0).toNat, frameNo := b.getD 3 0, payload := (b.drop 4).take size.payload }

/-! ## Frames delivered (R15) -/

/-- A frame delivered on a voice channel, by its message kind (R15, R218). -/
def deliverVoice (n : Slot) (f : Bytes) (s : State) : State :=
  if f.getD 0 0 = 1 then s |> bump (Ctr.framesDelivered n.chan) |> signalArrives n f
  else if f.getD 0 0 = 2 then s |> bump (Ctr.framesDelivered n.chan) |> mediaArrives n f
  else bump Ctr.badVoiceKind s

/-- A reassembled frame passed to its consumer (R15). -/
def deliver (c : Chan) (f : Bytes) (s : State) : State :=
  if c = 0 then deliverVoice .zero f s
  else if c = 1 then deliverVoice .one f s
  else
    let s := bump (Ctr.framesDelivered c) s
    if c = 14 then probeArrives f s
    else if c = 15 then receiveDirective .exch (takeMessage .exch f) s
    else downstream f s

/-! ## Reassembly (R13, R14) -/

/-- The reassembly context of a channel replaced. -/
def setAsm (c : Chan) (a : Option Collecting) : State → State := onChan c fun h => { h with asm := a }

/-- A block whose own used length exceeds its channel's largest frame (R14, R16). -/
def oversizeBlock (c : Chan) (s : State) : State := s |> bump Ctr.oversizeFrames |> reportLoss c .oversize

/-- A MIDDLE or LAST block that finds the context IDLE (R14). -/
def orphan : State → State := bump Ctr.orphans

/-- A MIDDLE or LAST block against the context of its channel: the frame so far with the block's bytes, if the block extends
it (R14). -/
def extend (b : LineBlock) (data : Bytes) (take : Bytes → State → State) (s : State) : State :=
  match (s.chan b.chan).asm with
  | none => orphan s
  | some a =>
    if a.frameNo ≠ b.frameNo then abandon b.chan .mismatch s
    else if largestFrame b.chan < a.bytes.length + b.used then abandon b.chan .oversize s
    else take (a.bytes ++ data) s

/-- A block offered to its channel's reassembly context (R14). -/
def reassemble (b : LineBlock) (s : State) : State :=
  let data := b.payload.take b.used
  match b.kind with
  | .whole =>
    let s := abandon b.chan .superseded s
    if largestFrame b.chan < b.used then oversizeBlock b.chan s else deliver b.chan data s
  | .first =>
    let s := abandon b.chan .superseded s
    if largestFrame b.chan < b.used then oversizeBlock b.chan s
    else setAsm b.chan (some { frameNo := b.frameNo, bytes := data }) s
  | .middle => extend b data (fun f => setAsm b.chan (some { frameNo := b.frameNo, bytes := f })) s
  | .last => extend b data (fun f s => s |> setAsm b.chan none |> deliver b.chan f) s

/-- Whether a block's used length does not fit its kind (R13). -/
def malformed (size : BlockSize) (b : LineBlock) : Bool :=
  match b.kind with
  | .first | .middle => b.used != size.payload
  | .whole | .last => b.used == 0 || size.payload < b.used

/-! ## The checks (R11, R12) -/

/-- A CRC-bad block (R3, R40). -/
def badBlock (s : State) : State :=
  s |> bump Ctr.crcBad |> onLs (fun l => { l with crcBad := satAdd Config.max8 l.crcBad 1 })

/-- The sequence check of a block (R12). -/
def checkSequence (b : LineBlock) (s : State) : State :=
  let gap := match (s.chan b.chan).expected with
    | some e => e != b.seq
    | none => false
  s |> whenever gap (fun s =>
        s |> bump Ctr.sequenceGaps |> onLs (fun l => { l with gapMark := true }) |> abandon b.chan .gap)
    |> onChan b.chan (fun h => { h with expected := some (b.seq + 1) })

/-- A block that has passed the sequence check: sanity, loopback, reassembly (R13, R17, R14). DESIGN CHOICE: a looped block keeps
the whole payload area as received, the bytes beyond its used length too, and goes out with them (R17, R196 against R2; log
entry 41). -/
def takeBlock (b : LineBlock) (s : State) : State :=
  if malformed s.lbu.size b then s |> bump Ctr.malformed |> abandon b.chan .malformed
  else if s.looped b.chan then
    storeLooped { kind := b.kind, frameNo := b.frameNo, used := b.used, payload := b.payload } s
  else reassemble b s

/-- A good block: fill, channel, sequence, then the rest (R4, R1, R12). -/
def goodBlock (b : LineBlock) (s : State) : State :=
  if b.fill then bump Ctr.fillReceived s
  else if assigned b.chan then s |> bump Ctr.goodReceived |> checkSequence b |> takeBlock b
  else bump Ctr.unknownChannel s

/-- A block from the transceiver through the checks in their order (R11). -/
def blockArrives (bytes : Bytes) (s : State) : State :=
  if !s.carrying then bump Ctr.offLine s
  else if blockGood s.lbu.size bytes then goodBlock (readBlock s.lbu.size bytes) s
  else badBlock s

/-! ## The home port (R74, R75) -/

/-- The source address of a frame (R76). -/
def sourceOf (f : Bytes) : Mac := word48 ((f.drop 6).take 6)

/-- A frame that passed both checks, without its check sequence: a management frame goes to the Directive Unit, any other is
matched upstream (R75). -/
def homeFrameTaken (f : Bytes) (s : State) : State :=
  let s := bump Ctr.framesReceived s
  if numAt f (typeOffset f) 2 = some 0x9A21 then
    s |> bump Ctr.managementFrames
      |> receiveDirective (.loc (sourceOf f)) (takeMessage (.loc (sourceOf f)) (payloadOf f))
  else upstream f s

/-- A frame at the home port: length, then check sequence (R74). No frame is received while the link is down (R73;
log entry 31, and entry 43 after a reset). -/
def homeFrameArrives (frame : Bytes) (s : State) : State :=
  if !s.qm.homeUp then s
  else if frame.length < 64 ∨ 1522 < frame.length then bump Ctr.lengthErrors s
  else
    let f := frame.take (frame.length - 4)
    if frame.drop (frame.length - 4) = fcsBytes f then homeFrameTaken f s else bump Ctr.fcsErrors s

end Sys2Proof.Machine
end

