-- ==== Sys2Proof/Machine/Grant.lean ====
section
/-! DEFINITION. The grant order (03_the_line_budget.md, 3.5): each step as a claim that takes one slot of the period, and
the period start that hands the slots out (R52, R61 to R68). -/

namespace Sys2Proof.Machine

/-- A claim: the state after it has taken one slot, or nothing when it has nothing to send. -/
abbrev Claim := State → Option State

/-- A slot handed to a channel (R61): it continues the frame in progress, or takes the head of a source. -/
def nextOn (c : Chan) (head : State → Option (Source × Bytes)) : Claim := fun s =>
  match (s.chan c).seg with
  | some sd => some (emitNext c sd s)
  | none =>
    match head s with
    | some (source, bytes) => some (startFrame c source bytes s)
    | none => none

/-- A claim served for at most `n` slots, each counted under its step; and the slots it took (R61, R70). -/
def serve (claim : Claim) (ctr : Counter) : Nat → State → State × Nat
  | 0, s => (s, 0)
  | n + 1, s =>
    match claim s with
    | none => (s, 0)
    | some s' =>
      let r := serve claim ctr n (bump ctr s')
      (r.1, r.2 + 1)

/-- One step of the grant order: a claim served for at most `limit` of the slots that are left (R61). -/
def stepOf (claim : Claim) (ctr : Counter) (limit : Nat) (p : State × Nat) : State × Nat :=
  let r := serve claim ctr (min limit p.2) p.1
  (r.1, p.2 - r.2)

/-! ## Step 1: the urgent block (R8, R62, R178) -/

/-- The exchange item of BATTERY_LOW. -/
def State.gaspItem (s : State) : Option PendingItem := s.fu.exchList.find? fun i => i.kind == .batteryLow

/-- The dying gasp's notice as the urgent block: a frame in progress on channel 15 is restarted, the claim is spent, the item
gives up the repeats carried (R8, R176, R178; log entry 20). -/
def emitGasp (i : PendingItem) (s : State) : State :=
  let bytes := s.notice i
  s |> dropSeg 15 |> emitOn 15 .whole true bytes.length (s.chan 15).nextFrame bytes
    |> onChan 15 (fun h => { h with nextFrame := h.nextFrame + 1 }) |> bump (Ctr.framesSent 15)
    |> noticeDone .batteryLow i.repeats |> bump Ctr.gaspsSent |> onLbu (fun b => { b with urgent := false })

/-- The claim of step 1 (R62). -/
def urgentClaim : Claim := fun s =>
  if s.lbu.urgent then
    match s.gaspItem with
    | some i => some (emitGasp i s)
    | none => none
  else none

/-! ## Step 2: voice frames due (R63, R133) -/

/-- The due frame of a slot gone from the Media Unit. -/
def clearDue (n : Slot) : State → State := onMedia n fun u => { u with due := none }

/-- The frame in progress on a channel continued for `n` blocks. -/
def continueFrame (c : Chan) : Nat → State → State
  | 0, s => s
  | n + 1, s =>
    match (s.chan c).seg with
    | some sd => continueFrame c n (emitNext c sd s)
    | none => s

/-- A voice frame emitted whole in F(S) slots (R63). -/
def emitVoice (n : Slot) (f : Bytes) (s : State) : State :=
  let blocks := s.lbu.size.voiceBlocks
  s |> startFrame n.chan (.voice n) f |> continueFrame n.chan (blocks - 1) |> bumpBy Ctr.grantedVoice blocks

/-- Step 2 for one slot: the due frame gets its F(S) slots, or it is stale (R63). -/
def voiceStep (n : Slot) (p : State × Nat) : State × Nat :=
  match (p.1.media n).due with
  | none => p
  | some f =>
    let blocks := p.1.lbu.size.voiceBlocks
    if blocks ≤ p.2 then (p.1 |> emitVoice n f |> clearDue n, p.2 - blocks)
    else (p.1 |> clearDue n |> bump Ctr.staleVoice, p.2)

/-- A due frame whose period did not begin in CARRYING is stale (R63). -/
def dueStale (n : Slot) (s : State) : State :=
  if (s.media n).due.isSome then s |> clearDue n |> bump Ctr.staleVoice else s

/-! ## Steps 3 and 8: the control block and channel 15 (R64, R67) -/

/-- The head of a slot's signal queue. -/
def signalHead (n : Slot) (s : State) : Option (Source × Bytes) :=
  match (s.call n).signals with
  | g :: _ => some (.signal n, g.bytes)
  | [] => none

/-- The head of channel 15: a reply, else a notice built from its item and record (R64, R67, R175). -/
def operationsHead (s : State) : Option (Source × Bytes) :=
  match s.qm.replies with
  | m :: _ => some (.reply, m)
  | [] =>
    match s.fu.exchList with
    | i :: _ => some (.notice i.kind i.repeats, s.notice i)
    | [] => none

/-- The claim of step 8, and of step 3 without a signal (R64, R67). -/
def operationsClaim : Claim := nextOn 15 operationsHead

/-- A slot's signal served; the turn then names the other slot (R64). -/
def signalServed (n : Slot) : Claim := fun s =>
  if (s.call n).signals.isEmpty then none
  else (nextOn n.chan (signalHead n) s).map (onLbu fun b => { b with turn := n.other })

/-- The claim of step 3 (R64). -/
def controlClaim : Claim := fun s =>
  match signalServed s.lbu.turn s with
  | some s' => some s'
  | none =>
    match signalServed s.lbu.turn.other s with
    | some s' => some s'
    | none => operationsClaim s

/-! ## Steps 4 to 7 (R65, R66) -/

/-- The claim of step 4 (R65). -/
def testClaim : Claim := fun s =>
  if s.looped 14 then sendLooped 14 s else nextOn 14 (fun s => s.tr.probe.map fun m => (.probe, m)) s

/-- The claim of steps 5 and 7 (R66). -/
def bulkClaim : Claim := fun s =>
  if s.looped 3 then sendLooped 3 s else nextOn 3 (fun s => s.qm.bulk.head?.map fun f => (.bulk, f)) s

/-- The claim of step 6 (R66). -/
def priorityClaim : Claim := nextOn 2 fun s => s.qm.priority.head?.map fun f => (.priority, f)

/-! ## The period (R52, R61) -/

/-- The remaining slots as fill blocks (R4, step 9 of R61). -/
def fillRest : Nat → State → State
  | 0, s => s
  | n + 1, s => fillRest n (emitFill s)

/-- The k slots of a period handed out, step by step (R61). -/
def grantSteps (k : Nat) (s : State) : State :=
  let p := (s, k) |> stepOf urgentClaim Ctr.grantedUrgent 1 |> voiceStep .zero |> voiceStep .one
    |> stepOf controlClaim Ctr.grantedControl 1 |> stepOf testClaim Ctr.grantedTest 1
    |> stepOf bulkClaim Ctr.grantedData (s.param .bulkFloor) |> stepOf priorityClaim Ctr.grantedData k
    |> stepOf bulkClaim Ctr.grantedData k |> stepOf operationsClaim Ctr.grantedOperations k
  fillRest p.2 p.1

/-- A period start in CARRYING at the Line Budget Unit (R52). -/
def grantPeriod (s : State) : State :=
  let k := s.lbu.periodBlocks
  s |> onLbu Budget.period |> bump Ctr.periodsCarried |> whenever (k == 0) (bump Ctr.emptyPeriods) |> grantSteps k

/-- A period start (R52, R53, R63), then the Media Unit's part for both slots (R132, R136, R137); the samples and the ticks
of the period are counted from here (R138). -/
def periodStart (s : State) : State :=
  (if s.carrying then grantPeriod s else s |> dueStale .zero |> dueStale .one)
    |> mediaPeriod .zero |> mediaPeriod .one |> onClock (fun c => { c with sampleInPeriod := 0, tickInPeriod := 0 })

end Sys2Proof.Machine
end

