-- ==== Sys2Proof/Machine/Events.lean ====
section
/-! DEFINITION. The events of the clock, the transceiver and the timers, each taken only where it can occur (log entry 12),
and the 1 ms tick that brings them about when no command waits (log entries 2 and 3). -/

namespace Sys2Proof.Machine

/-! ## Events -/

/-- TRAINED: a training result, or stray (R21, R22). -/
def trainedEvent (rate : Nat) (margin : Int) (s : State) : State :=
  if s.ls.link.isTraining then trainedTaken rate margin s else stray s

/-- NO_TRAIN: a training failure, or stray (R21, R31). -/
def noTrainEvent (s : State) : State :=
  if s.ls.link.isTraining then s |> bump Ctr.noTrainReceived |> trainingFailed false else stray s

/-- SYNC_LOST: a ride starts, or stray (R21, R33). -/
def syncLostEvent (s : State) : State := if s.carrying then startRide s else stray s

/-- SYNC_BACK: the ride ends, or stray (R21, R34). -/
def syncBackEvent (s : State) : State := if s.ls.link = .riding then endRide s else stray s

/-- MARGIN: a margin report, or stray (R21, R43). -/
def marginEvent (margin : Int) (s : State) : State := if s.carrying then marginTaken margin s else stray s

/-- The silence watch reaches its limit, which it can only in CARRYING (R23). -/
def silentEvent (s : State) : State := if s.carrying then s |> bump Ctr.transceiverSilent |> startRide else s

/-- The train timer expires, which it can only while training (R31). -/
def trainTimerEvent (s : State) : State :=
  if s.ls.link.isTraining ∧ s.ls.train.isSome then s |> bump Ctr.trainTimerExpiries |> trainingFailed true else s

/-- The ride timer expires, which it can only in RIDING (R35). -/
def rideTimerEvent (s : State) : State := if s.ls.link = .riding ∧ s.ls.ride.isSome then rideFails s else s

/-- The hold timer expires, which it can only in RETRAINING (R36). -/
def holdTimerEvent (s : State) : State := if s.ls.link = .retraining ∧ s.ls.hold.isSome then holdExpires s else s

/-- The backoff timer expires, which it can only in WAITING (R32). -/
def backoffEvent (s : State) : State := if s.ls.link = .waiting ∧ s.ls.backoff.isSome then newRound s else s

/-- The alert limit timer of a slot expires, which it can only in ALERTING (R156). -/
def alertEvent (n : Slot) (s : State) : State :=
  if (s.call n).state = .alerting ∧ (s.call n).alert.isSome then alertLimit n s else s

/-- The on-hook compare of a port fires, if it is armed (R102). -/
def onHookEvent (p : Port) (s : State) : State := if (s.port p).armedWith .onHook then onHookFires p s else s

/-- The interdigit compare of a port fires, if it is armed (R103). -/
def interdigitEvent (p : Port) (s : State) : State := if (s.port p).armedWith .interdigit then interdigitFires p s else s

/-- Both frame builders close their frames (R132). It is an act of its own after the 80th sample (log entry 50). -/
def closeFrames (s : State) : State := s |> closeFrame .zero |> closeFrame .one

/-- An uptime second (R183): the Line Supervisor's grading, then the Media Unit's thresholds. -/
def uptimeSecond (s : State) : State :=
  s |> onFu (fun u => { u with uptime := (u.uptime + 1) % 4294967296, tick := 0 }) |> gradeSecond |> mediaSecond

/-! ## The tick -/

/-- The Line Supervisor's running timers one tick later (section 2.1). -/
def Supervisor.advance (l : Supervisor) : Supervisor :=
  { l with train := l.train.map Timer.tick, ride := l.ride.map Timer.tick, hold := l.hold.map Timer.tick,
           backoff := l.backoff.map Timer.tick, silence := l.silence.map fun n => satAdd Config.silenceMs n 1,
           loopback := l.loopback.map fun x => { x with limit := x.limit.tick } }

/-- A port's running channel and park count one tick later (R109, R115). -/
def PortUnit.advance (u : PortUnit) : PortUnit :=
  { u with park := u.park.map Timer.tick, chan := u.chan.map fun c => { c with count := c.count + 1 } }

/-- Every running timer and count one tick later. -/
def advance (s : State) : State :=
  s |> onLs Supervisor.advance |> onPort .a PortUnit.advance |> onPort .b PortUnit.advance
    |> onCall .zero (fun c => { c with alert := c.alert.map Timer.tick })
    |> onCall .one (fun c => { c with alert := c.alert.map Timer.tick })
    |> onTr (fun t => { t with test := t.test.map fun x => { x with timer := x.timer.map Timer.tick } })

/-- The timer of a port test. -/
def State.testTimer (s : State) : Option Timer :=
  match s.tr.test with
  | some t => t.timer
  | none => none

/-- The limit timer of loopback. -/
def State.loopTimer (s : State) : Option Timer :=
  match s.ls.loopback with
  | some l => some l.limit
  | none => none

/-- Whether the silence watch has reached its limit (R23). -/
def State.silenceDue (s : State) : Bool :=
  match s.ls.silence with
  | some n => Config.silenceMs ≤ n
  | none => false

/-- An event run if it is due in the state that has been reached. -/
def ifDue (due : State → Bool) (event : State → State) (s : State) : State := if due s then event s else s

/-- The timers that have reached their limits (log entry 3). -/
def timerEvents (s : State) : State :=
  s |> ifDue (fun s => timerDue s.ls.train) trainTimerEvent |> ifDue (fun s => timerDue s.ls.ride) rideTimerEvent
    |> ifDue (fun s => timerDue s.ls.hold) holdTimerEvent |> ifDue (fun s => timerDue s.ls.backoff) backoffEvent
    |> ifDue State.silenceDue silentEvent |> ifDue (fun s => timerDue s.loopTimer) loopbackExpires
    |> ifDue (fun s => timerDue (s.call .zero).alert) (alertEvent .zero)
    |> ifDue (fun s => timerDue (s.call .one).alert) (alertEvent .one)
    |> ifDue (fun s => timerDue s.testTimer) testExpiry

/-- The power-sense inputs' tick decisions (R180, R181). Where both inputs change in one tick the power state is derived once,
from both new values (log entry 44). -/
def powerTick (s : State) : State :=
  let m := debounce Config.powerTicks s.fu.mainsDiffer s.fu.mains s.clock.mains.decision
  let b := debounce Config.powerTicks s.fu.batteryDiffer s.fu.batteryLow s.clock.batteryLow.decision
  let changed := m.1 != s.fu.mains || b.1 != s.fu.batteryLow
  s |> onFu (fun u => { u with mainsDiffer := m.2, batteryDiffer := b.2 }) |> whenever changed (powerChange m.1 b.1)

/-- A port's loop decision and ring-trip decision of the tick (R97). -/
def Clock.loop (c : Clock) : Port → Bool
  | .a => c.loopA.decision
  | .b => c.loopB.decision

/-- A port's ring-trip decision of the tick (R97). -/
def Clock.trip (c : Clock) : Port → Bool
  | .a => c.tripA.decision
  | .b => c.tripB.decision

/-- A tick in which the debounced loop state of a port did not change: the measure count increases and the armed compare is
taken when it is reached (R100). -/
def measureTick (p : Port) (s : State) : State :=
  let n := satAdd Config.max16 (s.port p).measure 1
  let s := onPort p (fun u => { u with measure := n }) s
  match (s.port p).compare with
  | some c =>
    if c.value = n then
      match c.kind with
      | .onHook => onHookEvent p s
      | .interdigit => interdigitEvent p s
    else s
  | none => s

/-- A port's sensed input in a tick: the ring trip in a ring-on segment, the loop at every other tick (R98, R99). -/
def senseTick (p : Port) (s : State) : State :=
  let u := s.port p
  if u.inRingOn then
    if s.clock.trip p then
      if 1 ≤ u.trip then ringTrip p s else s |> onPort p (fun u => { u with trip := u.trip + 1 }) |> measureTick p
    else s |> onPort p (fun u => { u with trip := 0 }) |> measureTick p
  else if s.clock.loop p = u.closed then s |> onPort p (fun u => { u with differ := 0 }) |> measureTick p
  else if 1 ≤ u.differ then loopChange p s
  else s |> onPort p (fun u => { u with differ := u.differ + 1 }) |> measureTick p

/-- Whether a port's channel has reached its end compare (R115). -/
def State.segmentDue (s : State) (p : Port) : Bool :=
  match (s.port p).chan with
  | some c => match c.endAt with
    | some e => e ≤ c.count
    | none => false
  | none => false

/-- A port's tick (R98 to R100, R109, R115). -/
def portTick (p : Port) (s : State) : State :=
  s |> senseTick p |> ifDue (fun s => timerDue (s.port p).park) (parkExpires p)
    |> ifDue (fun s => s.segmentDue p) (segmentEnd p)

/-- The tick's place in its period: the tenth starts the next period (R52). -/
def periodTick (s : State) : State :=
  if Config.periodTicks ≤ s.clock.tickInPeriod + 1 then periodStart s
  else onClock (fun c => { c with tickInPeriod := c.tickInPeriod + 1 }) s

/-- The tick's place in its second (R183). -/
def secondTick (s : State) : State :=
  if Config.secondTicks ≤ s.fu.tick + 1 then uptimeSecond s else onFu (fun u => { u with tick := u.tick + 1 }) s

/-- One tick of the 1 ms clock: what a step does when no command waits (log entries 2 and 3). A frame whose 80th sample has come is
closed before anything else of the tick: that sample lies 125 µs before the end of the period (R132). -/
def tick (s : State) : State :=
  s |> closeFrames |> advance |> timerEvents |> powerTick |> portTick .a |> portTick .b |> periodTick |> secondTick
    |> onClock (fun c => { c with sampleInTick := 0 })

end Sys2Proof.Machine
end

