-- ==== Sys2Proof/Machine/ClockCommands.lean ====
section
/-! DEFINITION. The meanings of the commands of the clock, power and timer events: one definition per command, each the whole effect on
everything but the queue. -/

namespace Sys2Proof.Machine

/-- POWER_UP_RESET: every block at its power-up values, then the line started if auto-start is on (R215). -/
def execPowerUpReset (s : State) : Host.Outcome State Fault Refusal :=
  .next (powerUp s)

/-- BUDGET_PERIOD_START: the period granted, frames begun, playout (R52). -/
def execBudgetPeriodStart (s : State) : Host.Outcome State Fault Refusal :=
  .next (periodStart s)

/-- VOICE_FRAME_CLOSE: the frame builders close their frames (R132). -/
def execVoiceFrameClose (s : State) : Host.Outcome State Fault Refusal :=
  .next (closeFrames s)

/-- UPTIME_SECOND: uptime, grading, step-up, media thresholds (R183). -/
def execUptimeSecond (s : State) : Host.Outcome State Fault Refusal :=
  .next (Sys2Proof.Machine.uptimeSecond s)

/-- SAMPLE_INSTANT: one sample of the 8 kHz clock (R126). -/
def execSampleInstant (sampleA sampleB : Half) (pins : Pins) (s : State) : Host.Outcome State Fault Refusal :=
  .next (Sys2Proof.Machine.sampleInstant sampleA.toInt sampleB.toInt pins s)

/-- POWER_STATE_CHANGE: the debounced power-sense inputs change (R181). -/
def execPowerStateChange (mainsPresent batteryLow : Bool) (s : State) : Host.Outcome State Fault Refusal :=
  .next (powerChange mainsPresent batteryLow s)

end Sys2Proof.Machine
end

