-- ==== Sys2Proof/Machine/DirectiveCommands.lean ====
section
/-! DEFINITION. The meanings of the commands of the directives, each beginning where the Directive Unit takes it (log entry 14): one definition per command, each the whole effect on
everything but the queue. -/

namespace Sys2Proof.Machine

/-- READ_TABLE (R210). -/
def execReadTable (sender : Sender) (tag : Half) (table first count : Byte) (s : State) :
    Host.Outcome State Fault Refusal :=
  .next (directive sender tag (.readTable table first count) s)

/-- WRITE_TABLE to the Profile Table (R24). -/
def execWriteTableProfile (sender : Sender) (tag : Half) (index : Byte) (entry : ProfileImage) (s : State) :
    Host.Outcome State Fault Refusal :=
  .next (directive sender tag (.writeProfile index entry) s)

/-- WRITE_TABLE to the Cadence Table (R114). -/
def execWriteTableCadence (sender : Sender) (tag : Half) (index : Byte) (durations : List Half) (rep : Byte) (s : State) :
    Host.Outcome State Fault Refusal :=
  .next (directive sender tag (.writeCadence index durations rep) s)

/-- WRITE_TABLE to the Match Table (R81). -/
def execWriteTableMatch (sender : Sender) (tag : Half) (index : Byte) (entry : MatchImage) (s : State) :
    Host.Outcome State Fault Refusal :=
  .next (directive sender tag (.writeMatch index entry) s)

/-- WRITE_TABLE to the Answer Table (R191). -/
def execWriteTableAnswer (sender : Sender) (tag : Half) (index valid : Byte) (hw : Mac) (ip : Ip) (s : State) :
    Host.Outcome State Fault Refusal :=
  .next (directive sender tag (.writeAnswer index valid hw ip) s)

/-- WRITE_TABLE to the Fault Table (R172). -/
def execWriteTableFault (sender : Sender) (tag : Half) (index level : Byte) (s : State) :
    Host.Outcome State Fault Refusal :=
  .next (directive sender tag (.writeFault index level) s)

/-- WRITE_TABLE to a table the sender does not own (R206). -/
def execWriteTableRefused (sender : Sender) (tag : Half) (table index : Byte) (entry : List Byte) (s : State) :
    Host.Outcome State Fault Refusal :=
  .next (receiveDirective sender (takeBody sender 2 tag (table :: index :: entry)) s)

/-- READ_STATUS (R214). -/
def execReadStatus (sender : Sender) (tag : Half) (s : State) : Host.Outcome State Fault Refusal :=
  .next (directive sender tag .readStatus s)

/-- READ_PARAM (R209). -/
def execReadParam (sender : Sender) (tag : Half) (ident : Byte) (s : State) : Host.Outcome State Fault Refusal :=
  .next (directive sender tag (.readParam ident) s)

/-- WRITE_PARAM (R209). -/
def execWriteParam (sender : Sender) (tag : Half) (ident : Byte) (value : BitVec 48) (s : State) :
    Host.Outcome State Fault Refusal :=
  .next (directive sender tag (.writeParam ident value) s)

/-- CLEAR_FAULT (R173). -/
def execClearFault (sender : Sender) (tag : Half) (kind countReset : Byte) (s : State) :
    Host.Outcome State Fault Refusal :=
  .next (directive sender tag (.clearFault kind countReset) s)

/-- LINE_ACTION START (R28). -/
def execLineActionStart (sender : Sender) (tag : Half) (s : State) : Host.Outcome State Fault Refusal :=
  .next (directive sender tag (.lineAction 1 0) s)

/-- LINE_ACTION STOP (R37). -/
def execLineActionStop (sender : Sender) (tag : Half) (s : State) : Host.Outcome State Fault Refusal :=
  .next (directive sender tag (.lineAction 2 0) s)

/-- LINE_ACTION RETRAIN (R38). -/
def execLineActionRetrain (sender : Sender) (tag : Half) (s : State) : Host.Outcome State Fault Refusal :=
  .next (directive sender tag (.lineAction 3 0) s)

/-- LINE_ACTION STEP_DOWN (R44). -/
def execLineActionStepDown (sender : Sender) (tag : Half) (s : State) : Host.Outcome State Fault Refusal :=
  .next (directive sender tag (.lineAction 4 0) s)

/-- LINE_ACTION STEP_UP (R45). -/
def execLineActionStepUp (sender : Sender) (tag : Half) (s : State) : Host.Outcome State Fault Refusal :=
  .next (directive sender tag (.lineAction 5 0) s)

/-- LINE_ACTION LOOP_ON (R195). -/
def execLoopOn (sender : Sender) (tag : Half) (channel : Byte) (s : State) : Host.Outcome State Fault Refusal :=
  .next (directive sender tag (.lineAction 6 channel) s)

/-- LINE_ACTION LOOP_OFF (R195). -/
def execLoopOff (sender : Sender) (tag : Half) (s : State) : Host.Outcome State Fault Refusal :=
  .next (directive sender tag (.lineAction 7 0) s)

/-- PORT_ACTION TEST_RING (R197). -/
def execTestRing (sender : Sender) (tag : Half) (port cadence seconds : Byte) (s : State) :
    Host.Outcome State Fault Refusal :=
  .next (directive sender tag (.portAction 1 port cadence seconds) s)

/-- PORT_ACTION ECHO_TEST (R197). -/
def execEchoTest (sender : Sender) (tag : Half) (port cadence seconds : Byte) (s : State) :
    Host.Outcome State Fault Refusal :=
  .next (directive sender tag (.portAction 2 port cadence seconds) s)

/-- PORT_ACTION RELEASE_PORT (R112). -/
def execReleasePort (sender : Sender) (tag : Half) (port : Byte) (s : State) : Host.Outcome State Fault Refusal :=
  .next (directive sender tag (.portAction 3 port 0 0) s)

/-- PORT_ACTION DISABLE (R112). -/
def execDisable (sender : Sender) (tag : Half) (port : Byte) (s : State) : Host.Outcome State Fault Refusal :=
  .next (directive sender tag (.portAction 4 port 0 0) s)

/-- PORT_ACTION ENABLE (R112). -/
def execEnable (sender : Sender) (tag : Half) (port : Byte) (s : State) : Host.Outcome State Fault Refusal :=
  .next (directive sender tag (.portAction 5 port 0 0) s)

/-- QUIET ENTER (R187). -/
def execQuietEnter (sender : Sender) (tag : Half) (s : State) : Host.Outcome State Fault Refusal :=
  .next (directive sender tag (.quiet 1 0) s)

/-- QUIET LEAVE (R188). -/
def execQuietLeave (sender : Sender) (tag : Half) (hitClear : Byte) (s : State) : Host.Outcome State Fault Refusal :=
  .next (directive sender tag (.quiet 2 hitClear) s)

/-- RESET (R216). -/
def execReset (sender : Sender) (tag : Half) (s : State) : Host.Outcome State Fault Refusal :=
  .next (directive sender tag .reset s)

end Sys2Proof.Machine
end

