-- ==== Sys2Proof/Machine/HomeCommands.lean ====
section
/-! DEFINITION. The meanings of the commands of the home port: one definition per command, each the whole effect on
everything but the queue. -/

namespace Sys2Proof.Machine

/-- HOME_FRAME_RECEIVED (R74). -/
def execHomeFrameReceived (frame : List Byte) (s : State) : Host.Outcome State Fault Refusal :=
  .next (homeFrameArrives frame s)

/-- HOME_ITEM_SENT (R91). -/
def execHomeItemSent (s : State) : Host.Outcome State Fault Refusal :=
  .next (itemSent s)

/-- HOME_LINK_UP (R73, R92). -/
def execHomeLinkUp (s : State) : Host.Outcome State Fault Refusal :=
  .next (homeUp s)

/-- HOME_LINK_DOWN (R73, R93). -/
def execHomeLinkDown (s : State) : Host.Outcome State Fault Refusal :=
  .next (homeDown s)

end Sys2Proof.Machine
end

