-- ==== Sys2Proof/Machine/LineCommands.lean ====
section
/-! DEFINITION. The meanings of the commands of the transceiver and the Line Supervisor's timers, and received line blocks: one definition per command, each the whole effect on
everything but the queue. -/

namespace Sys2Proof.Machine

/-- TRAINED (R22). -/
def execTrained (rate : Nat) (margin : Half) (s : State) : Host.Outcome State Fault Refusal :=
  .next (trainedEvent rate margin.toInt s)

/-- NO_TRAIN (R31). -/
def execNoTrain (s : State) : Host.Outcome State Fault Refusal :=
  .next (noTrainEvent s)

/-- SYNC_LOST (R33). -/
def execSyncLost (s : State) : Host.Outcome State Fault Refusal :=
  .next (syncLostEvent s)

/-- SYNC_BACK (R34). -/
def execSyncBack (s : State) : Host.Outcome State Fault Refusal :=
  .next (syncBackEvent s)

/-- MARGIN (R43). -/
def execMargin (value : Half) (s : State) : Host.Outcome State Fault Refusal :=
  .next (marginEvent value.toInt s)

/-- TRANSCEIVER_SILENT (R23). -/
def execTransceiverSilent (s : State) : Host.Outcome State Fault Refusal :=
  .next (silentEvent s)

/-- TRAIN_TIMER_EXPIRY (R31). -/
def execTrainTimerExpiry (s : State) : Host.Outcome State Fault Refusal :=
  .next (trainTimerEvent s)

/-- RIDE_TIMER_EXPIRY (R35). -/
def execRideTimerExpiry (s : State) : Host.Outcome State Fault Refusal :=
  .next (rideTimerEvent s)

/-- HOLD_TIMER_EXPIRY (R36). -/
def execHoldTimerExpiry (s : State) : Host.Outcome State Fault Refusal :=
  .next (holdTimerEvent s)

/-- BACKOFF_EXPIRY (R32). -/
def execBackoffExpiry (s : State) : Host.Outcome State Fault Refusal :=
  .next (backoffEvent s)

/-- LOOPBACK_LIMIT_EXPIRY (R195). -/
def execLoopbackLimitExpiry (s : State) : Host.Outcome State Fault Refusal :=
  .next (loopbackExpires s)

/-- LINE_BLOCK_RECEIVED (R11). -/
def execLineBlockReceived (block : List Byte) (s : State) : Host.Outcome State Fault Refusal :=
  .next (blockArrives block s)

end Sys2Proof.Machine
end

