-- ==== Sys2Proof/Machine/PhoneCommands.lean ====
section
/-! DEFINITION. The meanings of the commands of the phone ports, the alert limit and the port tests' timer: one definition per command, each the whole effect on
everything but the queue. -/

namespace Sys2Proof.Machine

/-- LOOP_CHANGE (R100). -/
def execLoopChange (port : Port) (s : State) : Host.Outcome State Fault Refusal :=
  .next (Sys2Proof.Machine.loopChange port s)

/-- RING_TRIP (R99). -/
def execRingTrip (port : Port) (s : State) : Host.Outcome State Fault Refusal :=
  .next (Sys2Proof.Machine.ringTrip port s)

/-- ON_HOOK (R102). -/
def execOnHook (port : Port) (s : State) : Host.Outcome State Fault Refusal :=
  .next (onHookEvent port s)

/-- INTERDIGIT (R103). -/
def execInterdigit (port : Port) (s : State) : Host.Outcome State Fault Refusal :=
  .next (interdigitEvent port s)

/-- PARK (R109). -/
def execPark (port : Port) (s : State) : Host.Outcome State Fault Refusal :=
  .next (parkExpires port s)

/-- CADENCE_SEGMENT_END (R116). -/
def execCadenceSegmentEnd (port : Port) (s : State) : Host.Outcome State Fault Refusal :=
  .next (segmentEnd port s)

/-- ALERT_LIMIT_EXPIRY (R156). -/
def execAlertLimitExpiry (slot : Slot) (s : State) : Host.Outcome State Fault Refusal :=
  .next (alertEvent slot s)

/-- TEST_PHASE_EXPIRY (R198, R199). -/
def execTestPhaseExpiry (s : State) : Host.Outcome State Fault Refusal :=
  .next (testExpiry s)

end Sys2Proof.Machine
end

