-- ==== Sys2Proof/Machine/Dispatch.lean ====
section
/-! DEFINITION. One arm per command, each a direct call of its meaning. -/

namespace Sys2Proof.Machine

/-- A command's effect on everything but the queue. -/
def exec (i : Instr) (s : State) : Host.Outcome State Fault Refusal :=
  match i with
  | .powerUpReset => Sys2Proof.Machine.execPowerUpReset s
  | .budgetPeriodStart => Sys2Proof.Machine.execBudgetPeriodStart s
  | .voiceFrameClose => Sys2Proof.Machine.execVoiceFrameClose s
  | .uptimeSecond => Sys2Proof.Machine.execUptimeSecond s
  | .trained rate margin => Sys2Proof.Machine.execTrained rate margin s
  | .noTrain => Sys2Proof.Machine.execNoTrain s
  | .syncLost => Sys2Proof.Machine.execSyncLost s
  | .syncBack => Sys2Proof.Machine.execSyncBack s
  | .margin value => Sys2Proof.Machine.execMargin value s
  | .transceiverSilent => Sys2Proof.Machine.execTransceiverSilent s
  | .trainTimerExpiry => Sys2Proof.Machine.execTrainTimerExpiry s
  | .rideTimerExpiry => Sys2Proof.Machine.execRideTimerExpiry s
  | .holdTimerExpiry => Sys2Proof.Machine.execHoldTimerExpiry s
  | .backoffExpiry => Sys2Proof.Machine.execBackoffExpiry s
  | .loopbackLimitExpiry => Sys2Proof.Machine.execLoopbackLimitExpiry s
  | .lineBlockReceived block => Sys2Proof.Machine.execLineBlockReceived block s
  | .homeFrameReceived frame => Sys2Proof.Machine.execHomeFrameReceived frame s
  | .homeItemSent => Sys2Proof.Machine.execHomeItemSent s
  | .homeLinkUp => Sys2Proof.Machine.execHomeLinkUp s
  | .homeLinkDown => Sys2Proof.Machine.execHomeLinkDown s
  | .loopChange port => Sys2Proof.Machine.execLoopChange port s
  | .ringTrip port => Sys2Proof.Machine.execRingTrip port s
  | .onHook port => Sys2Proof.Machine.execOnHook port s
  | .interdigit port => Sys2Proof.Machine.execInterdigit port s
  | .park port => Sys2Proof.Machine.execPark port s
  | .cadenceSegmentEnd port => Sys2Proof.Machine.execCadenceSegmentEnd port s
  | .alertLimitExpiry slot => Sys2Proof.Machine.execAlertLimitExpiry slot s
  | .testPhaseExpiry => Sys2Proof.Machine.execTestPhaseExpiry s
  | .powerStateChange mainsPresent batteryLow => Sys2Proof.Machine.execPowerStateChange mainsPresent batteryLow s
  | .readTable sender tag table first count => Sys2Proof.Machine.execReadTable sender tag table first count s
  | .writeTableProfile sender tag index entry => Sys2Proof.Machine.execWriteTableProfile sender tag index entry s
  | .writeTableCadence sender tag index durations rep => Sys2Proof.Machine.execWriteTableCadence sender tag index durations rep s
  | .writeTableMatch sender tag index entry => Sys2Proof.Machine.execWriteTableMatch sender tag index entry s
  | .writeTableAnswer sender tag index valid hw ip => Sys2Proof.Machine.execWriteTableAnswer sender tag index valid hw ip s
  | .writeTableFault sender tag index level => Sys2Proof.Machine.execWriteTableFault sender tag index level s
  | .writeTableRefused sender tag table index entry => Sys2Proof.Machine.execWriteTableRefused sender tag table index entry s
  | .readStatus sender tag => Sys2Proof.Machine.execReadStatus sender tag s
  | .readParam sender tag ident => Sys2Proof.Machine.execReadParam sender tag ident s
  | .writeParam sender tag ident value => Sys2Proof.Machine.execWriteParam sender tag ident value s
  | .clearFault sender tag kind countReset => Sys2Proof.Machine.execClearFault sender tag kind countReset s
  | .lineActionStart sender tag => Sys2Proof.Machine.execLineActionStart sender tag s
  | .lineActionStop sender tag => Sys2Proof.Machine.execLineActionStop sender tag s
  | .lineActionRetrain sender tag => Sys2Proof.Machine.execLineActionRetrain sender tag s
  | .lineActionStepDown sender tag => Sys2Proof.Machine.execLineActionStepDown sender tag s
  | .lineActionStepUp sender tag => Sys2Proof.Machine.execLineActionStepUp sender tag s
  | .loopOn sender tag channel => Sys2Proof.Machine.execLoopOn sender tag channel s
  | .loopOff sender tag => Sys2Proof.Machine.execLoopOff sender tag s
  | .testRing sender tag port cadence seconds => Sys2Proof.Machine.execTestRing sender tag port cadence seconds s
  | .echoTest sender tag port cadence seconds => Sys2Proof.Machine.execEchoTest sender tag port cadence seconds s
  | .releasePort sender tag port => Sys2Proof.Machine.execReleasePort sender tag port s
  | .disable sender tag port => Sys2Proof.Machine.execDisable sender tag port s
  | .enable sender tag port => Sys2Proof.Machine.execEnable sender tag port s
  | .quietEnter sender tag => Sys2Proof.Machine.execQuietEnter sender tag s
  | .quietLeave sender tag hitClear => Sys2Proof.Machine.execQuietLeave sender tag hitClear s
  | .reset sender tag => Sys2Proof.Machine.execReset sender tag s
  | .sampleInstant sampleA sampleB pins => Sys2Proof.Machine.execSampleInstant sampleA sampleB pins s

end Sys2Proof.Machine
end

