-- ==== Sys2Proof/Safety.lean ====
section
/-! DEFINITION. What claims about the machine are written in: the pieces of state a step leaves alone, the commands'
footprints, and the invariants that every step keeps. -/

namespace Sys2Proof.Machine

/-! ## What a step leaves alone -/

/-- The pieces of the state, one for each field of `State`. -/
inductive Block where
  | queue | framer | supervisor | budget | matchEngine | queues | phones | calls | media | faults | directives
  | tests | counters | clock | outputs | free
deriving DecidableEq, Repr

/-- Two states agree on a piece. -/
def agree (s t : State) : Block → Prop
  | .queue => t.pending = s.pending
  | .framer => t.bf = s.bf
  | .supervisor => t.ls = s.ls
  | .budget => t.lbu = s.lbu
  | .matchEngine => t.me = s.me
  | .queues => t.qm = s.qm
  | .phones => t.ppu = s.ppu
  | .calls => t.cc = s.cc
  | .media => t.mdu = s.mdu
  | .faults => t.fu = s.fu
  | .directives => t.du = s.du
  | .tests => t.tr = s.tr
  | .counters => t.counters = s.counters
  | .clock => t.clock = s.clock
  | .outputs => t.out = s.out
  | .free => t.free = s.free

/-- `t` differs from `s` in the pieces listed only. -/
def changesOnly (bs : List Block) (s t : State) : Prop := ∀ b, b ∉ bs → agree s t b

/-- Every counter but those listed is as it was. -/
def countsOnly (cs : List Counter) (s t : State) : Prop := ∀ c, c ∉ cs → t.counter c = s.counter c

/-- A counter has counted `k` more, saturating at 32 bits. -/
def counted (c : Counter) (k : Nat) (s t : State) : Prop := t.counter c = satAdd Config.max32 (s.counter c) k

/-- Where the condition holds a counter has counted `k` more, and where it does not the counter is as it was. -/
def countedIf (p : Prop) (c : Counter) (k : Nat) (s t : State) : Prop :=
  (p → counted c k s t) ∧ (¬ p → t.counter c = s.counter c)

/-- Every fault record but those of the kinds listed is as it was. -/
def recordsOnly (ks : List FaultKind) (s t : State) : Prop := ∀ k, k ∉ ks → t.fault k = s.fault k

/-- The Fault Unit, the Match Engine and the Queue Manager changed by nothing but reports to the Fault Unit: records, pending
lists, local notices at the back of the FIFO (R177), the wake pin (R190). -/
structure Reports (s t : State) : Prop where
  queues : ∃ l : List FifoItem, (∀ i ∈ l, i.kind = .localNotice) ∧ t.qm = { s.qm with fifo := s.qm.fifo ++ l }
  engine : t.me.table = s.me.table ∧ t.me.answers = s.me.answers ∧ t.me.quiet = s.me.quiet
  monitor : t.fu = { s.fu with records := t.fu.records, exchList := t.fu.exchList, locList := t.fu.locList }

/-- The counters that a report to the Fault Unit can touch (R184). -/
def reportCounters : List Counter :=
  [Ctr.occurrences, Ctr.itemsEnteredExch, Ctr.itemsEnteredLoc, Ctr.repeatsCoalesced, Ctr.locNoticesQueued,
   Ctr.noticeDeclined, Ctr.wakes]

/-- A record after a report of its kind: an occurrence, unless the kind is a condition that is active already (R169). -/
def reported (k : FaultKind) (detail now : Nat) (r : FaultRecord) : FaultRecord :=
  if k.isCondition ∧ r.active then r else r.occurred k.isCondition now detail

/-- What an occurrence of a fault kind can touch: the Fault Unit, the wake pin, the downstream FIFO and the counters. -/
def reportBlocks : List Block := [.faults, .matchEngine, .queues, .counters]

/-- What the end of a call can touch, with all that the line does when the last slot becomes FREE. -/
def callBlocks : List Block :=
  [.framer, .supervisor, .budget, .phones, .calls, .media, .outputs] ++ reportBlocks

/-- The pieces that a received message can touch: every piece but the queue of commands, the clock and the free
values. -/
def messageBlocks : List Block := [.directives, .tests] ++ callBlocks

/-- The pieces a command may touch, whatever the state. -/
def footprint : Instr → List Block
  | .powerUpReset => .clock :: messageBlocks
  | .budgetPeriodStart =>
    [.framer, .budget, .queues, .calls, .media, .faults, .tests, .counters, .clock, .outputs]
  | .voiceFrameClose => [.media, .counters]
  | .uptimeSecond => [.framer, .supervisor, .budget, .calls, .media, .outputs] ++ reportBlocks
  | .trained _ _ | .noTrain | .syncBack | .trainTimerExpiry => callBlocks
  | .syncLost | .margin _ | .transceiverSilent =>
    [.framer, .supervisor, .budget, .calls, .media, .outputs] ++ reportBlocks
  | .rideTimerExpiry => [.supervisor, .calls, .media, .outputs] ++ reportBlocks
  | .holdTimerExpiry => [.framer, .supervisor, .budget, .phones, .calls, .media] ++ reportBlocks
  | .backoffExpiry => [.supervisor, .outputs] ++ reportBlocks
  | .loopbackLimitExpiry => [.framer, .supervisor, .counters]
  | .lineBlockReceived _ | .homeFrameReceived _ => messageBlocks
  | .homeItemSent => [.queues, .faults, .counters, .outputs]
  | .homeLinkUp | .homeLinkDown => [.queues, .faults, .counters]
  | .loopChange _ | .ringTrip _ | .onHook _ => .tests :: callBlocks
  | .interdigit _ => [.phones, .calls, .counters]
  | .park _ => [.phones, .media] ++ reportBlocks
  | .cadenceSegmentEnd _ => [.phones, .media]
  | .alertLimitExpiry _ => callBlocks
  | .testPhaseExpiry => [.phones, .media, .tests, .queues, .counters]
  | .powerStateChange _ _ => [.tests, .free] ++ callBlocks
  | .readTable _ _ _ _ _ | .readStatus _ _ | .readParam _ _ _ => .directives :: reportBlocks
  | .writeTableProfile _ _ _ _ | .writeTableCadence _ _ _ _ _ | .writeTableMatch _ _ _ _
  | .writeTableAnswer _ _ _ _ _ _ | .writeTableFault _ _ _ _ | .writeTableRefused _ _ _ _ _ | .clearFault _ _ _ _
  | .writeParam _ _ _ _ =>
    [.directives, .framer, .supervisor, .budget, .phones] ++ reportBlocks
  | .lineActionStart _ _ | .lineActionStop _ _ | .lineActionRetrain _ _ | .lineActionStepDown _ _
  | .lineActionStepUp _ _ | .loopOn _ _ _ | .loopOff _ _ | .testRing _ _ _ _ _ | .echoTest _ _ _ _ _
  | .releasePort _ _ _ | .disable _ _ _ | .enable _ _ _ => messageBlocks
  | .quietEnter _ _ | .quietLeave _ _ _ => .directives :: reportBlocks
  | .reset _ _ => messageBlocks
  | .sampleInstant _ _ _ => [.media, .tests, .clock, .outputs]

/-! ## Directives -/

/-- Whether the fields of a request spell a body of the length its code calls for: a written cadence has eight durations
(R114); every other request's fields do. -/
def Request.fits : Request → Bool
  | .writeCadence _ durations _ => durations.length == 8
  | _ => true

/-- Whether a request passes the table and the owner checks of its sender (R205 to R207): the table read is one of the
eight, the table or the parameter written is the sender's own, loopback is asked for by the exchange, quiet by the local
authority. -/
def Request.passes (sender : Sender) : Request → Bool
  | .readTable t _ _ => 1 ≤ t.toNat && t.toNat ≤ 8
  | .writeProfile _ _ | .writeCadence _ _ _ => senderAuthority sender == .exch
  | .writeMatch _ _ | .writeAnswer _ _ _ _ => senderAuthority sender == .loc
  | .writeParam p _ => !paramNotOwned sender p
  | .lineAction a _ => !(senderAuthority sender == .loc && (a == 6 || a == 7))
  | .quiet _ _ => senderAuthority sender == .loc
  | .writeFault _ _ | .readStatus | .readParam _ | .clearFault _ _ | .portAction _ _ _ _ | .reset => true

/-- Whether the part takes a directive of a sender: an exchange directive only while the exchange reply queue has room
(R204). -/
def accepts (sender : Sender) (s : State) : Prop :=
  match sender with
  | .loc _ => True
  | .exch => s.qm.replies.length < Config.replies

/-- The state in which an accepted directive is acted on: the directive counted, and a local one's source kept as the local
manager address (R203, R217). -/
def arrived (sender : Sender) (s : State) : State :=
  match sender with
  | .loc source => s |> onDu (fun d => { d with manager := some source }) |> bump (Ctr.received .loc)
  | .exch => bump (Ctr.received .exch) s

/-- The bytes that FIFO items take (R90). -/
def itemBytes (l : List FifoItem) : Nat := (l.map fun i => i.bytes.length).sum

/-- Whether the local list is on offer: the home link up and the quiet flag clear (R177). -/
def noticesOffered (s : State) : Prop := s.qm.homeUp = true ∧ s.me.quiet = false

/-- The items that have left the front of the local list between two states. -/
def itemsJoined (s t : State) : List PendingItem := s.fu.locList.take (s.fu.locList.length - t.fu.locList.length)

/-- An item's notice as it stands in the FIFO: a frame from the part to the local manager (R90, R175). -/
def noticeItem (t : State) (i : PendingItem) : FifoItem := { kind := .localNotice, bytes := t.localFrame (t.notice i) }

/-- The notices that the items which have left the local list have put into the FIFO. -/
def noticesJoined (s t : State) : List FifoItem := (itemsJoined s t).map (noticeItem t)

/-- The local list drained behind these FIFO items (R177, R92): items leave it from the front, each as its notice in the FIFO,
counted; where the list is on offer it ends empty, or with a head whose notice does not fit and whose offer is counted as declined;
where it is not, nothing leaves it. Nothing else of the Fault Unit changes. -/
structure Drained (before : List FifoItem) (s t : State) : Prop where
  monitor : t.fu = { s.fu with locList := t.fu.locList }
  front : s.fu.locList = itemsJoined s t ++ t.fu.locList
  fits : itemsJoined s t ≠ [] → itemBytes (before ++ noticesJoined s t) ≤ Config.fifoBytes
  stopped : noticesOffered t → ∀ i, t.fu.locList.head? = some i →
    Config.fifoBytes < itemBytes (before ++ noticesJoined s t ++ [noticeItem t i])
  closed : ¬ noticesOffered t → t.fu.locList = s.fu.locList
  queued : countedIf (itemsJoined s t ≠ []) Ctr.locNoticesQueued (itemsJoined s t).length s t
  declined : countedIf (noticesOffered t ∧ t.fu.locList ≠ []) Ctr.noticeDeclined 1 s t

/-- What an occurrence of a kind at an authority's level makes of that authority's list (R174): nothing at level 0, one more repeat of
the kind where the list holds it, and else a new item. -/
def entered (k : FaultKind) (level now : Nat) (old new : List PendingItem) : Prop :=
  if level = 0 then new = old
  else if ∃ i ∈ old, i.kind = k then
    new = old.map fun i => if i.kind = k then { i with repeats := min (i.repeats + 1) 255 } else i
  else ∃ n, n < old.length + 1 ∧ new = old.take n ++ [{ kind := k, level := level, entry := now, repeats := 1 }] ++ old.drop n

/-- What a directive answered with `msg` leaves in the queues behind these local notices (R203, R204, R90): an exchange reply joins
the exchange reply queue; a local one joins the downstream FIFO, in a frame to its sender, if the home link is up and it
fits. Nothing else in the queues changes. -/
def answeredAfter (notices : List FifoItem) (sender : Sender) (msg : Bytes) (s t : State) : Prop :=
  match sender with
  | .exch => t.qm = { s.qm with replies := s.qm.replies ++ [msg], fifo := s.qm.fifo ++ notices }
  | .loc source =>
    let frame := etherFrame source t.ownAddress 0x9A21 msg
    let before := s.qm.fifo ++ notices
    t.qm = { s.qm with fifo := before ++
      (if s.qm.homeUp ∧ itemBytes before + frame.length ≤ Config.fifoBytes then [{ kind := .localReply, bytes := frame }]
       else []) }

/-- A directive answered with `msg`, the local notices that its own effects give rise to (R177) ahead of the reply. -/
def answered (sender : Sender) (msg : Bytes) (s t : State) : Prop :=
  ∃ notices : List FifoItem, (∀ i ∈ notices, i.kind = .localNotice) ∧ answeredAfter notices sender msg s t

/-- The counters that a directive taken and answered with a status always can touch: its receipt, its status, and a local reply
that the FIFO did not take (R217, R90). -/
def answerCounters (sender : Sender) (status : Status) : List Counter :=
  [Ctr.received (senderAuthority sender), status.counter, Ctr.fifoFull .localReply, Ctr.lostLinkDown .localReply]

/-- The Directive Unit after a directive that writes no parameter: a local sender is now the manager (R203). -/
def seenBy (sender : Sender) (d : DirectiveUnit) : DirectiveUnit :=
  match sender with
  | .loc source => { d with manager := some source }
  | .exch => d

/-- A directive taken and answered (R203 to R205, R217): counted as received and under its status, its reply sent. -/
structure Replied (sender : Sender) (code : Nat) (tag : Half) (status : Status) (body : Bytes) (s t : State) : Prop where
  countedReceived : counted (Ctr.received (senderAuthority sender)) 1 s t
  countedStatus : counted status.counter 1 s t
  reply : answered sender (replyMsg (replyCode code) tag status body) s t

/-- A directive refused or done with no effect of its own: it is answered, counted, and nothing else changes. -/
def onlyAnswered (sender : Sender) (code : Nat) (tag : Half) (status : Status) (body : Bytes) (s t : State) : Prop :=
  changesOnly [.directives, .queues, .counters] s t ∧ t.du = seenBy sender s.du ∧
    countsOnly (answerCounters sender status) s t ∧
    Replied sender code tag status body s t ∧
    answeredAfter [] sender (replyMsg (replyCode code) tag status body) s t

/-- The directive that a row of the table carries: its sender, tag and body. WRITE_TABLE_REFUSED carries its entry as bytes and is
not among them. -/
def requestOf : Instr → Option (Sender × Half × Request)
  | .readTable sender tag t f c => some (sender, tag, .readTable t f c)
  | .writeTableProfile sender tag i e => some (sender, tag, .writeProfile i e)
  | .writeTableCadence sender tag i d r => some (sender, tag, .writeCadence i d r)
  | .writeTableMatch sender tag i e => some (sender, tag, .writeMatch i e)
  | .writeTableAnswer sender tag i v hw ip => some (sender, tag, .writeAnswer i v hw ip)
  | .writeTableFault sender tag i l => some (sender, tag, .writeFault i l)
  | .readStatus sender tag => some (sender, tag, .readStatus)
  | .readParam sender tag p => some (sender, tag, .readParam p)
  | .writeParam sender tag p v => some (sender, tag, .writeParam p v)
  | .clearFault sender tag k c => some (sender, tag, .clearFault k c)
  | .lineActionStart sender tag => some (sender, tag, .lineAction 1 0)
  | .lineActionStop sender tag => some (sender, tag, .lineAction 2 0)
  | .lineActionRetrain sender tag => some (sender, tag, .lineAction 3 0)
  | .lineActionStepDown sender tag => some (sender, tag, .lineAction 4 0)
  | .lineActionStepUp sender tag => some (sender, tag, .lineAction 5 0)
  | .loopOn sender tag c => some (sender, tag, .lineAction 6 c)
  | .loopOff sender tag => some (sender, tag, .lineAction 7 0)
  | .testRing sender tag p c n => some (sender, tag, .portAction 1 p c n)
  | .echoTest sender tag p c n => some (sender, tag, .portAction 2 p c n)
  | .releasePort sender tag p => some (sender, tag, .portAction 3 p 0 0)
  | .disable sender tag p => some (sender, tag, .portAction 4 p 0 0)
  | .enable sender tag p => some (sender, tag, .portAction 5 p 0 0)
  | .quietEnter sender tag => some (sender, tag, .quiet 1 0)
  | .quietLeave sender tag h => some (sender, tag, .quiet 2 h)
  | .reset sender tag => some (sender, tag, .reset)
  | .powerUpReset | .budgetPeriodStart | .voiceFrameClose | .uptimeSecond | .trained _ _ | .noTrain | .syncLost
  | .syncBack | .margin _ | .transceiverSilent | .trainTimerExpiry | .rideTimerExpiry | .holdTimerExpiry
  | .backoffExpiry | .loopbackLimitExpiry | .lineBlockReceived _ | .homeFrameReceived _ | .homeItemSent | .homeLinkUp
  | .homeLinkDown | .loopChange _ | .ringTrip _ | .onHook _ | .interdigit _ | .park _ | .cadenceSegmentEnd _
  | .alertLimitExpiry _ | .testPhaseExpiry | .powerStateChange _ _ | .writeTableRefused _ _ _ _ _
  | .sampleInstant _ _ _ => none

/-- A directive as the management message that carries it (R219, section 11.4). -/
def requestMsg (tag : Half) (r : Request) : Bytes :=
  [1, byteOf r.code] ++ be16 tag.toNat ++ be16 r.body.length ++ r.body

/-- A frame offered to the downstream FIFO (R90): it joins at the back if the home link is up and its bytes fit, and is else
discarded and counted by the reason. Nothing else in the queues changes. -/
def offeredTo (kind : FifoKind) (frame : Bytes) (s t : State) : Prop :=
  let fits := itemBytes s.qm.fifo + frame.length ≤ Config.fifoBytes
  t.qm = { s.qm with fifo := s.qm.fifo ++ (if s.qm.homeUp = true ∧ fits then [{ kind := kind, bytes := frame }] else []) } ∧
    countedIf (s.qm.homeUp = false) (Ctr.lostLinkDown kind) 1 s t ∧
    countedIf (s.qm.homeUp = true ∧ ¬ fits) (Ctr.fifoFull kind) 1 s t

/-- The counters that an offer to the downstream FIFO can touch (R90). -/
def offerCounters (kind : FifoKind) : List Counter := [Ctr.lostLinkDown kind, Ctr.fifoFull kind]

/-! ## Resets -/

/-- The blocks that both resets set to the same values (R19, R71, R72, R95, R96, R123, R124, R144, R145, R165, R166, R202), with the
effective data floor that the reset gives the budget record. -/
structure BlocksReset (floor : Nat) (t : State) : Prop where
  channels : ∀ c, t.chan c = { txSeq := 0, nextFrame := 0, seg := none, expected := none, asm := none }
  loopStore : t.bf.loopStore = []
  budget : t.lbu = { rate := 0, size := .b64, eff := 512, bitsCarry := 0, blockCarry := 0, blocks := 0, floor := floor,
                     pendingFloor := none, turn := .zero, urgent := false }
  matchTable : ∀ i, vget t.me.table i =
    { valid := false, dir := none, dest := 0, src := 0, typeValue := 0, protocol := 0, dscp := 0, dscpAny := false, ip := 0,
      low := 0, high := 0, cls := none, wake := false, forward := false, answer := none, hits := 0 }
  answerTable : ∀ i, vget t.me.answers i = { valid := false, hw := 0, ip := 0 }
  quiet : t.me.quiet = false ∧ t.me.wake = false
  queues : t.qm = { priority := [], bulk := [], replies := [], fifo := [], homeUp := false }
  ports : ∀ p, t.port p = { state := .idle, closed := false, differ := 0, trip := 0, measure := 0, capture := 0, compare := none,
                            pulses := 0, park := none, chan := none, tone := none }
  pair : t.ppu.pair = .apart
  slots : ∀ n, t.call n =
    { state := .free, held := false, attached := { a := false, b := false }, ringSet := { a := false, b := false }, dir := .out,
      stamp := 0, cadence := 0, group := false, alert := none, start := 0, sent := 0, received := 0, endCause := none,
      mark := false, signals := [] }
  stamp : t.cc.stamp = 0
  media : ∀ n, t.media n =
    { media := .off, seq := 0, resume := false, builder := none, due := none, play := .off, base := none,
      ring := Vector.replicate 16 none, age := 0, miss := 0, prev := none, playing := List.replicate 80 0 }
  mediaPorts : ∀ p, t.mediaPort p = { dcIn := 0, dcOut := 0, phase := 0 }
  mediaCounts : t.mdu.clips = 0 ∧ t.mdu.conceals = 0 ∧ t.mdu.second = 0
  tests : t.tr = { probe := none, test := none }

/-- The Line Supervisor right after a reset that has started the line at a rung (R28, R48, R49), with the ladder it holds and the
train timer in seconds. -/
def lineStarted (profile : Vector Rung 8) (rung : Fin 8) (timeout : Nat) : Supervisor :=
  { link := .training, rung := rung, inUse := { size := .b64, eff := 512, minMargin := 0 }, rate := 0, margin := 0, history := [],
    gradesSince := 0, crcBad := 0, gapMark := false, syncLostMark := false, cleanRun := 0, lowMargin := 0,
    train := some { limit := 1000 * timeout, elapsed := 0 }, ride := none, hold := none, backoff := none, backoffLength := 30,
    silence := none, stepUpDeferred := false, loopback := none, profile := profile }

/-! ## The line's return (R60, R162) -/

/-- The bound of R60 with `v` slots in use, on a block size, the sustained blocks and a data floor: it is not required while `v` is
0. -/
def boundMet (size : BlockSize) (sustained floor v : Nat) : Bool := v == 0 || v * size.voiceBlocks + 1 + floor ≤ sustained

/-- The slots that the preemption check cuts, in their order (R60): while the bound is not met, the non-FREE slot of the highest
admission stamp, of equal stamps the slot of the higher number. -/
def cutsAtReturn (met : Nat → Bool) (s : State) : List Slot :=
  let inUse (n : Slot) : Bool := (s.call n).state != .free
  let newest : Slot :=
    if inUse .zero && inUse .one then (if (s.call .zero).stamp ≤ (s.call .one).stamp then .one else .zero)
    else if inUse .one then .one else .zero
  if met s.reserved then [] else if inUse .zero && inUse .one && !met 1 then [newest, newest.other] else [newest]

/-- A port attached to one of these slots. -/
def attachedTo (cuts : List Slot) (s : State) (p : Port) : Prop := ∃ n ∈ cuts, (s.call n).attached.has p = true

/-- A port that rings for one of these slots. -/
def ringsFor (cuts : List Slot) (s : State) (p : Port) : Prop :=
  (s.port p).state = .ringing ∧ ∃ n ∈ cuts, (s.call n).ringSet.has p = true

/-- What the return of the line does to calls, ports and media (R60, R162), given the slots cut: a cut slot is FREE with
CLEAR(BUDGET) behind its other signals, its attached ports RELEASED with the release tone, its ringing ports IDLE, CALL_CUT recorded;
a slot still in use has its REFRESH in front of its signals; every hold and every mark is gone. -/
structure CallsReturned (cuts : List Slot) (s t : State) : Prop where
  cut : ∀ n ∈ cuts, t.call n =
    { s.call n with state := .free, held := false, attached := { a := false, b := false }, ringSet := { a := false, b := false },
                    cadence := 0, group := false, alert := none, endCause := some .budget, mark := false,
                    signals := (s.call n).signals ++ (if (s.call n).signals.length < 8 then [.clear .budget] else []) }
  kept : ∀ n, n ∉ cuts → (s.call n).state ≠ .free → t.call n =
    { s.call n with held := false, mark := false,
                    signals := .refresh (s.call n).state
                      (if (s.call n).state = .alerting then (s.call n).ringSet else (s.call n).attached) ::
                        (s.call n).signals.take (if (s.call n).signals.length < 8 then 8 else 7) }
  free : ∀ n, n ∉ cuts → (s.call n).state = .free → t.call n = { s.call n with held := false, mark := false }
  stamp : t.cc.stamp = s.cc.stamp
  released : ∀ p, attachedTo cuts s p → t.port p =
    { s.port p with state := .released, tone := some .release, trip := 0,
                    park := some { limit := 1000 * s.param .parkTime, elapsed := 0 },
                    chan := some { mode := .tone .release, pos := 1, on := true, endAt := some 150, count := 0 } } ∧
    t.mediaPort p = { s.mediaPort p with phase := 0 }
  stopped : ∀ p, ¬ attachedTo cuts s p → ringsFor cuts s p →
    t.port p = { s.port p with state := .idle, tone := none, trip := 0, park := none, chan := none } ∧
    t.mediaPort p = s.mediaPort p
  others : ∀ p, ¬ attachedTo cuts s p → ¬ ringsFor cuts s p → t.port p = s.port p ∧ t.mediaPort p = s.mediaPort p
  phones : t.ppu.pair = s.ppu.pair ∧ t.ppu.cadences = s.ppu.cadences
  media : ∀ n, t.media n = (s.media n).change (t.call n).mediaState
  mediaUnit : t.mdu = { s.mdu with slots := t.mdu.slots, ports := t.mdu.ports }
  record : t.fault .callCut = cuts.foldl (fun r n => r.occurred false s.fu.uptime n.number) (s.fault .callCut)
  callsCut : countedIf (cuts ≠ []) Ctr.callsCut cuts.length s t

/-! ## Frames on the line -/

/-- The line blocks that carry a frame on a channel, from a transmit sequence and a frame number on (R5, R6). -/
def blocksOf (size : BlockSize) (c : Chan) (seq frameNo : Byte) (f : Bytes) : List Bytes :=
  let total := (f.length + size.payload - 1) / size.payload
  (List.range total).map fun i =>
    let part := (f.drop (i * size.payload)).take size.payload
    let kind : BlockKind :=
      if total ≤ 1 then .whole else if i = 0 then .first else if i + 1 < total then .middle else .last
    blockBytes size c kind false false (seq + byteOf i) part.length frameNo part

/-- The state after commands that run one after another. -/
def runAll : List Instr → State → State
  | [], s => s
  | c :: rest, s =>
    match exec c s with
    | .next t => runAll rest t
    | .fault _ | .refused _ => s

/-! ## The grant order (R61) -/

/-- How many of a period's slots each step of the grant order takes, and the channel the control block goes to (R61). -/
structure SlotsTaken where
  urgent : Nat
  voiceZero : Nat
  voiceOne : Nat
  control : Option Chan
  tests : Nat
  bulkFloor : Nat
  priority : Nat
  bulk : Nat
  operations : Nat
  fill : Nat

/-- The slots taken by the steps before the control block. -/
def SlotsTaken.beforeControl (g : SlotsTaken) : Nat := g.urgent + g.voiceZero + g.voiceOne

/-- The slots taken by the steps before the test block. -/
def SlotsTaken.beforeTests (g : SlotsTaken) : Nat := g.beforeControl + g.control.toList.length

/-- The slots taken by the steps up to the bulk floor. -/
def SlotsTaken.toBulkFloor (g : SlotsTaken) : Nat := g.beforeTests + g.tests + g.bulkFloor

/-- The slots taken by every step but the fill. -/
def SlotsTaken.traffic (g : SlotsTaken) : Nat := g.toBulkFloor + g.priority + g.bulk + g.operations

/-- Nothing to send on channel 2 (R66). -/
def noPriority (s : State) : Prop := (s.chan 2).seg = none ∧ s.qm.priority = []

/-- Nothing to send on channel 3: no looped block where loopback holds it, no Bulk frame otherwise (R66). -/
def noBulk (s : State) : Prop :=
  if s.looped 3 = true then s.bf.loopStore = [] else (s.chan 3).seg = none ∧ s.qm.bulk = []

/-- Nothing to send on channel 14: no looped block where loopback holds it, no probe reply otherwise (R65). -/
def noTest (s : State) : Prop :=
  if s.looped 14 = true then s.bf.loopStore = [] else (s.chan 14).seg = none ∧ s.tr.probe = none

/-- Nothing to send on channel 15: no frame in progress, no reply, no notice (R67). -/
def noOperations (s : State) : Prop := (s.chan 15).seg = none ∧ s.qm.replies = [] ∧ s.fu.exchList = []

/-- The `k` slots of a period handed out in the grant order (R61 to R67): the channels of the blocks in the order of the steps; what
each step takes; and, where a step leaves slots to the next, that it has nothing more to send. `s` is the state at the period
start, `t` the state after it. -/
structure GrantOrder (k : Nat) (blocks : List Bytes) (g : SlotsTaken) (s t : State) : Prop where
  total : g.traffic + g.fill = k
  channels : blocks.map (fun b => (b.headD 0).toNat / 16) =
    List.replicate g.urgent 15 ++ List.replicate g.voiceZero 0 ++ List.replicate g.voiceOne 1 ++
      g.control.toList.map Fin.val ++ List.replicate g.tests 14 ++ List.replicate g.bulkFloor 3 ++
      List.replicate g.priority 2 ++ List.replicate g.bulk 3 ++ List.replicate g.operations 15 ++ List.replicate g.fill 0
  fillBlocks : blocks.drop g.traffic = List.replicate g.fill (blockBytes s.lbu.size 0 .whole false true 0 0 0 [])
  urgent : g.urgent = if s.lbu.urgent = true ∧ (∃ i ∈ s.fu.exchList, i.kind = .batteryLow) ∧ 1 ≤ k then 1 else 0
  claim : t.lbu.urgent = (s.lbu.urgent && g.urgent == 0)
  voiceZero : g.voiceZero =
    if (s.media .zero).due.isSome = true ∧ s.lbu.size.voiceBlocks ≤ k - g.urgent then s.lbu.size.voiceBlocks else 0
  voiceOne : g.voiceOne =
    if (s.media .one).due.isSome = true ∧ s.lbu.size.voiceBlocks ≤ k - g.urgent - g.voiceZero then s.lbu.size.voiceBlocks else 0
  framesZero : ∀ f, (s.media .zero).due = some f → g.voiceZero ≠ 0 →
    (blocks.drop g.urgent).take g.voiceZero = blocksOf s.lbu.size 0 (s.chan 0).txSeq (s.chan 0).nextFrame f
  framesOne : ∀ f, (s.media .one).due = some f → g.voiceOne ≠ 0 →
    (blocks.drop (g.urgent + g.voiceZero)).take g.voiceOne = blocksOf s.lbu.size 1 (s.chan 1).txSeq (s.chan 1).nextFrame f
  signalServed : ∀ n, g.beforeControl < k → (s.call n).signals ≠ [] →
    (n = s.lbu.turn ∨ (s.call s.lbu.turn).signals = []) → g.control = some n.chan ∧ t.lbu.turn = n.other
  noSignal : (g.beforeControl = k ∨ ∀ n, (s.call n).signals = []) →
    t.lbu.turn = s.lbu.turn ∧ (g.control = none ∨ g.control = some 15 ∧ ¬ noOperations s)
  controlPassed : g.control = none → g.beforeControl < k → noOperations t
  tests : g.tests = 0 ∨ g.tests = 1 ∧ ¬ noTest s
  testsPassed : g.tests = 0 → g.beforeTests < k → noTest t
  bulkFloor : g.bulkFloor ≤ s.param .bulkFloor
  floorPassed : g.bulkFloor < s.param .bulkFloor → g.toBulkFloor < k → noBulk t
  priorityPassed : g.toBulkFloor + g.priority < k → noPriority t
  bulkPassed : g.toBulkFloor + g.priority + g.bulk < k → noBulk t
  operationsPassed : g.traffic < k → noOperations t

/-- The counters of R70 that a period's grants move: each by the slots its steps take, the fill blocks with them, so that all seven
move by the period's blocks together. -/
structure GrantsCounted (g : SlotsTaken) (s t : State) : Prop where
  urgent : counted Ctr.grantedUrgent g.urgent s t
  voice : counted Ctr.grantedVoice (g.voiceZero + g.voiceOne) s t
  control : counted Ctr.grantedControl g.control.toList.length s t
  tests : counted Ctr.grantedTest g.tests s t
  data : counted Ctr.grantedData (g.bulkFloor + g.priority + g.bulk) s t
  operations : counted Ctr.grantedOperations g.operations s t
  fill : counted Ctr.fillSent g.fill s t

/-! ## Invariants -/

/-- The fixed capacities of the part ("Fixed capacities", 00_scope.md; R41, R86, R89, R90, R149, R196), and an empty FIFO
while the home link is down (R93). -/
structure CapacitiesOk (s : State) : Prop where
  priorityFrames : s.qm.priority.length ≤ Config.priorityFrames
  priorityBytes : queueBytes s.qm.priority ≤ Config.priorityBytes
  bulkFrames : s.qm.bulk.length ≤ Config.bulkFrames
  bulkBytes : queueBytes s.qm.bulk ≤ Config.bulkBytes
  replies : s.qm.replies.length ≤ Config.replies
  fifo : s.qm.fill ≤ Config.fifoBytes
  linkDown : s.qm.homeUp = false → s.qm.fifo = []
  signals : ∀ n, (s.call n).signals.length ≤ Config.signals
  loopStore : s.bf.loopStore.length ≤ Config.loopBlocks
  history : s.ls.history.length ≤ Config.history
  grades : s.ls.gradesSince ≤ Config.history

/-- One pending notice list in order (R174): at most one item per kind, the items in the list's order, levels 1 to 3,
repeats 1 to 255. -/
structure ListOk (l : List PendingItem) : Prop where
  once : (l.map PendingItem.kind).Nodup
  ordered : l.Pairwise fun x y => x.before y = true
  levels : ∀ i ∈ l, 1 ≤ i.level ∧ i.level ≤ 3
  repeats : ∀ i ∈ l, 1 ≤ i.repeats ∧ i.repeats ≤ Config.max8

/-- The level a record holds for an authority (R168). -/
def FaultRecord.level (r : FaultRecord) : Authority → Nat
  | .loc => r.locLevel
  | .exch => r.exchLevel

/-- The Fault Unit's records and lists: every level within its kind's range (R171), an event never active (R168, R169), counts
of 16 bits, both lists in order (R174). -/
structure FaultsOk (s : State) : Prop where
  levels : ∀ k a, (k.levelRule a).2.1 ≤ (s.fault k).level a ∧ (s.fault k).level a ≤ (k.levelRule a).2.2
  events : ∀ k, k.isCondition = false → (s.fault k).active = false
  counts : ∀ k, (s.fault k).count ≤ Config.max16
  exch : ListOk s.fu.exchList
  loc : ListOk s.fu.locList

/-- A stored parameter value that its rule allows (R208, R209). -/
def Param.allows (p : Param) (v : Nat) : Prop :=
  match p.rule with
  | .number lo hi => lo ≤ v ∧ v ≤ hi
  | .coded codes => v ∈ codes
  | .address => v < 2 ^ 48

/-- A stored rung within its ranges (R24). -/
def Rung.allowed (r : Rung) : Prop :=
  32 ≤ r.cap ∧ r.cap ≤ 16383 ∧ 256 ≤ r.eff ∧ r.eff ≤ 512 ∧ -100 ≤ r.minMargin ∧ r.minMargin ≤ 300

/-- The stored settings: every parameter and every table entry within its range, and a ladder with a valid rung (R24, R81,
R114, R208). -/
structure SettingsOk (s : State) : Prop where
  params : ∀ p : Param, p.allows (s.param p)
  rungs : ∀ i, (vget s.ls.profile i).allowed
  ladder : ∃ i, s.rungValid i = true
  cadences : ∀ i j, vget (vget s.ppu.cadences i).durations j ≤ 800
  dscp : ∀ i, (vget s.me.table i).dscp ≤ 63

/-- Every field of the budget record within its range (R50). -/
structure RecordOk (s : State) : Prop where
  rate : s.lbu.rate = 0 ∨ (32 ≤ s.lbu.rate ∧ s.lbu.rate ≤ 16383)
  eff : 256 ≤ s.lbu.eff ∧ s.lbu.eff ≤ 512
  bitsCarry : s.lbu.bitsCarry < 512
  blockCarry : s.lbu.blockCarry < 8 * s.lbu.size.bytes
  blocks : s.lbu.blocks ≤ 640
  floor : s.lbu.floor ≤ 8
  pendingFloor : ∀ d, s.lbu.pendingFloor = some d → d ≤ 8

/-- Every counter of table 8 within 32 bits (R18, R46, R70, R94, R122, R143, R164, R184, R201, R217). -/
def CountersOk (s : State) : Prop := ∀ c, s.counter c ≤ Config.max32

/-- A frame builder holds at most the 80 codes of a frame, and a voice frame due has 84 bytes (R131, R132). -/
structure VoiceOk (s : State) : Prop where
  builder : ∀ n b, (s.media n).builder = some b → b.codes.length ≤ Config.periodSamples
  due : ∀ n f, (s.media n).due = some f → f.length = 84

/-- A slot record that its state allows (R146): a FREE slot holds nothing, an ALERTING slot has no port attached, and only an
ALERTING slot has a ring set, an alert limit, a cadence or the group flag. -/
structure CallSlot.Ok (c : CallSlot) : Prop where
  free : c.state = .free → c.attached = noPorts ∧ c.held = false
  alerting : c.state = .alerting → c.attached = noPorts
  ringing : c.state ≠ .alerting → c.ringSet = noPorts ∧ c.alert = none ∧ c.cadence = 0 ∧ c.group = false

/-- Both slot records are ones their states allow (R146). -/
def CallsOk (s : State) : Prop := ∀ n, (s.call n).Ok

/-- While the line carries and any slot is not FREE, v × F(S) + 1 + Dmin never exceeds s (R58). -/
def BudgetOk (s : State) : Prop :=
  s.ls.link = .carrying → 1 ≤ s.reserved → s.reserved * s.lbu.size.voiceBlocks + 1 + s.lbu.floor ≤ s.lbu.sustained

end Sys2Proof.Machine
end

