-- ==== Sys2Proof/WellFormed.lean ====
section
/-! DEFINITION. Which commands are well formed: the operands fit the row. Every command, ill formed or not, has
a meaning in the machine (a directive that does not fit is refused by the part itself, R205); these checks say
only which terms spell the table's row. -/

namespace Sys2Proof

/-- Whether the sender may write the table (R206). -/
def Sender.ownsTable : Sender → Byte → Bool
  | .exch, t => t == 1 || t == 2 || t == 5
  | .loc _, t => t == 3 || t == 4 || t == 5

/-- A command is well formed: a line block has one of the three block sizes (section 1.2), a written cadence
has eight durations (R114), a WRITE_TABLE row comes from an authority that owns the table (R206), and
WRITE_TABLE_REFUSED names a table, 1 to 8, that the sender does not own. -/
def Instr.wellFormed : Instr → Bool
  | .lineBlockReceived b => b.length == 32 || b.length == 64 || b.length == 128
  | .writeTableProfile sender _ _ _ => sender.ownsTable 1
  | .writeTableCadence sender _ _ durations _ => sender.ownsTable 2 && durations.length == 8
  | .writeTableMatch sender _ _ _ => sender.ownsTable 3
  | .writeTableAnswer sender _ _ _ _ _ => sender.ownsTable 4
  | .writeTableFault sender _ _ _ => sender.ownsTable 5
  | .writeTableRefused sender _ table _ _ => 1 ≤ table.toNat && table.toNat ≤ 8 && !sender.ownsTable table
  | .powerUpReset | .budgetPeriodStart | .voiceFrameClose | .uptimeSecond | .trained _ _ | .noTrain | .syncLost
  | .syncBack | .margin _ | .transceiverSilent | .trainTimerExpiry | .rideTimerExpiry | .holdTimerExpiry
  | .backoffExpiry | .loopbackLimitExpiry | .homeFrameReceived _ | .homeItemSent | .homeLinkUp | .homeLinkDown
  | .loopChange _ | .ringTrip _ | .onHook _ | .interdigit _ | .park _ | .cadenceSegmentEnd _
  | .alertLimitExpiry _ | .testPhaseExpiry | .powerStateChange _ _ | .readTable _ _ _ _ _ | .readStatus _ _
  | .readParam _ _ _ | .writeParam _ _ _ _ | .clearFault _ _ _ _ | .lineActionStart _ _ | .lineActionStop _ _
  | .lineActionRetrain _ _ | .lineActionStepDown _ _ | .lineActionStepUp _ _ | .loopOn _ _ _ | .loopOff _ _
  | .testRing _ _ _ _ _ | .echoTest _ _ _ _ _ | .releasePort _ _ _ | .disable _ _ _ | .enable _ _ _
  | .quietEnter _ _ | .quietLeave _ _ _ | .reset _ _ | .sampleInstant _ _ _ => true

end Sys2Proof
end

