-- ==== Sys2Proof/Certificates/Slice0/Obligations.lean ====
section
/-! DEFINITION. The statements for the provers. Each docstring names the rules the statement formalises; a clause that rests
on the model's own choice says so and names the log entry. -/

open Sys2Proof Sys2Proof.Machine

/-! ## The machine -/

/-- A step runs the command at the front of the queue on the state with the queue's rest. -/
def Obligations.StepRunsFrontCommand : Prop :=
  ∀ (c : Instr) (rest : List Instr) (s : State), s.pending = c :: rest → step s = exec c { s with pending := rest }

/-- What a step does on an empty queue is the model's choice (log entry 2): one tick of the 1 ms clock. At every 1000th tick the
uptime increases by one, wrapping at 2^32 (R183; log entry 19 for the place of the second in the tick). -/
def Obligations.IdleStepKeepsTime : Prop :=
  ∀ s : State, s.pending = [] → ∃ t, step s = .next t ∧ t.pending = [] ∧
    if s.fu.tick < 999 then t.fu.tick = s.fu.tick + 1 ∧ t.fu.uptime = s.fu.uptime
    else t.fu.tick = 0 ∧ t.fu.uptime = (s.fu.uptime + 1) % 4294967296

/-- Every command runs in every state, and touches no piece of the state but those of its footprint. -/
def Obligations.CommandsKeepToTheirFootprints : Prop :=
  ∀ (c : Instr) (s : State), ∃ t, exec c s = .next t ∧ changesOnly (footprint c) s t

/-- POWER_UP_RESET (R215, R19, R25, R48, R71, R95, R114, R123, R144, R165, R185, R202, R28): every block at its power-up values, and,
as auto-start is on by default, the line started at the start rung of the default ladder. What the model keeps through the reset is
its own choice: the record of the outputs (log entry 4) and the phase the sample clock starts in (log entry 5). -/
def Obligations.PowerUpResetStartsTheLine : Prop :=
  ∀ s : State, ∃ t, exec .powerUpReset s = .next t ∧ BlocksReset 0 t ∧
    t.ls = lineStarted t.ls.profile 0 90 ∧
    (∀ i : Fin 8, vget t.ls.profile i = if i = 0 then { valid := true, cap := 16383, size := .b64, eff := 512, minMargin := 0 }
      else { valid := false, cap := 32, size := .b32, eff := 256, minMargin := 0 }) ∧
    (∀ i : Fin 8, vget t.ppu.cadences i =
      if i = 0 then { durations := #v[100, 400, 0, 0, 0, 0, 0, 0], rep := true }
      else if i = 1 then { durations := #v[40, 20, 40, 200, 0, 0, 0, 0], rep := true }
      else { durations := #v[0, 0, 0, 0, 0, 0, 0, 0], rep := false }) ∧
    (∀ p, t.param p = p.default) ∧ t.du.manager = none ∧ t.du.cause = .powerUp ∧
    (∀ k, t.fault k = { active := false, count := 0, first := 0, last := 0, detail := 0, locLevel := (k.levelRule .loc).1,
                        exchLevel := (k.levelRule .exch).1, locLatch := false, exchLatch := false }) ∧
    t.fu = { records := t.fu.records, exchList := [], locList := [], uptime := 0, tick := 0, power := .mains, mains := true,
             batteryLow := false, mainsDiffer := 0, batteryDiffer := 0, since := 0, gaspSent := false } ∧
    (∀ c, t.counter c = if c = Ctr.trainingsStarted then 1 else 0) ∧ t.clock = State.reset.clock ∧
    t.out = { s.out with xcvr := s.out.xcvr ++ [.train 16383] } ∧ t.pending = s.pending ∧ t.free = s.free

/-- The state of the part right after a power-up reset meets every invariant. -/
def Obligations.ResetMeetsTheInvariants : Prop :=
  CapacitiesOk State.reset ∧ FaultsOk State.reset ∧ SettingsOk State.reset ∧ CountersOk State.reset ∧
    VoiceOk State.reset ∧ CallsOk State.reset ∧ BudgetOk State.reset ∧ RecordOk State.reset

/-! ## Invariants -/

/-- No step takes a queue, store, list or history past its fixed capacity, nor a counter past 32 bits ("Fixed capacities" and
"Counters and time", 00_scope.md; R41, R86, R89, R90, R93, R149, R196, R220). -/
def Obligations.StepKeepsCapacities : Prop :=
  ∀ s t : State, CapacitiesOk s ∧ CountersOk s → step s = .next t → CapacitiesOk t ∧ CountersOk t

/-- Every step keeps the fault records and both pending lists in order (R168, R171, R174), and the stored settings within their
ranges, with a valid rung in the ladder (R24, R81, R114, R208, R209). -/
def Obligations.StepKeepsRecordsAndSettings : Prop :=
  ∀ s t : State, FaultsOk s ∧ SettingsOk s → step s = .next t → FaultsOk t ∧ SettingsOk t

/-- Every step keeps every field of the budget record within its range (R50); the settings it is staged from are within theirs
(R24, R208). -/
def Obligations.StepKeepsTheBudgetRecord : Prop :=
  ∀ s t : State, SettingsOk s ∧ RecordOk s → step s = .next t → SettingsOk t ∧ RecordOk t

/-- Every step keeps each slot record one that its state allows (R146; that a slot outside ALERTING has cadence 0, no group flag and no
alert limit is log entry 21), the frame builders at 80 codes at most and the due voice frames at 84 bytes (R131, R132). -/
def Obligations.StepKeepsCallsAndVoiceFrames : Prop :=
  ∀ s t : State, CallsOk s ∧ VoiceOk s → step s = .next t → CallsOk t ∧ VoiceOk t

/-- In CARRYING with any slot non-FREE, v × F(S) + 1 + Dmin never exceeds s (R58). -/
def Obligations.StepKeepsTheBudgetBound : Prop :=
  ∀ s t : State, CallsOk s ∧ BudgetOk s → step s = .next t → CallsOk t ∧ BudgetOk t

/-! ## The line budget -/

/-- BUDGET_PERIOD_START (R52, R53, R54, R61 to R68, R70): in CARRYING the four steps of the arithmetic, k blocks emitted after those
already on the line and handed out in the grant order, each counted under its step, and what else the grant can touch; k is s or s + 1,
where s is worked out from the staged inputs. Outside CARRYING nothing happens at the Line Budget Unit, and a voice frame due is
stale. That an urgent claim without its item waits is log entry 36; that the command sets the model's place in the period to 0 is log
entry 19. -/
def Obligations.PeriodsEmitTheirBlocks : Prop :=
  ∀ s : State,
    (s.ls.link = .carrying → VoiceOk s → ∃ t, exec .budgetPeriodStart s = .next t ∧
      let u := 10 * s.lbu.rate * s.lbu.eff + s.lbu.bitsCarry
      let credit := u / 512 + s.lbu.blockCarry
      let k := credit / (8 * s.lbu.size.bytes)
      let sustained := 10 * s.lbu.rate * s.lbu.eff / 512 / (8 * s.lbu.size.bytes)
      (∃ (blocks : List Bytes) (g : SlotsTaken), blocks.length = k ∧ t.out = { s.out with line := s.out.line ++ blocks } ∧
        GrantOrder k blocks g s t ∧ (CountersOk s → GrantsCounted g s t ∧
          counted Ctr.staleVoice ((if (s.media .zero).due.isSome = true ∧ g.voiceZero = 0 then 1 else 0) +
            (if (s.media .one).due.isSome = true ∧ g.voiceOne = 0 then 1 else 0)) s t)) ∧
      (∀ n, (t.media n).due = none) ∧
      (RecordOk s → sustained ≤ k ∧ k ≤ sustained + 1) ∧
      t.lbu = { s.lbu with bitsCarry := u % 512, blockCarry := credit % (8 * s.lbu.size.bytes), blocks := k,
                           turn := t.lbu.turn, urgent := t.lbu.urgent } ∧
      counted Ctr.periodsCarried 1 s t ∧
      t.counter Ctr.emptyPeriods = (if k = 0 then satAdd Config.max32 (s.counter Ctr.emptyPeriods) 1
                                    else s.counter Ctr.emptyPeriods) ∧
      changesOnly [.framer, .budget, .queues, .calls, .media, .faults, .tests, .counters, .clock, .outputs] s t ∧
      t.fu = { s.fu with exchList := t.fu.exchList } ∧ t.qm.fifo = s.qm.fifo ∧ t.qm.homeUp = s.qm.homeUp ∧
      (∀ n, t.call n = { s.call n with signals := (t.call n).signals, sent := (t.call n).sent }) ∧
      t.tr.test = s.tr.test ∧ t.clock = { s.clock with sampleInPeriod := 0, tickInPeriod := 0 }) ∧
    (s.ls.link ≠ .carrying → ∃ t, exec .budgetPeriodStart s = .next t ∧
      changesOnly [.media, .counters, .clock] s t ∧ countsOnly [Ctr.staleVoice] s t ∧ (∀ n, (t.media n).due = none) ∧
      t.clock = { s.clock with sampleInPeriod := 0, tickInPeriod := 0 })

/-- Over any number of periods taken in CARRYING one after another, the two carries keep an exact account of the line's capacity
(R55): blocks emitted, block carry and bits carry against the sum of B × E. -/
def Obligations.CarriesKeepTheAccount : Prop :=
  ∀ (n : Nat) (f : Nat → State), (f 0).ls.link = .carrying → VoiceOk (f 0) →
    (∀ i, i < n → exec .budgetPeriodStart (f i) = .next (f (i + 1))) →
    let b := (f 0).lbu
    ∃ blocks : List Bytes, (f n).out.line = (f 0).out.line ++ blocks ∧
      512 * (8 * b.size.bytes * blocks.length + (f n).lbu.blockCarry) + (f n).lbu.bitsCarry =
        n * (10 * b.rate * b.eff) + 512 * b.blockCarry + b.bitsCarry

/-! ## Voice -/

/-- Expanding a code (R130): the magnitude by segment and mantissa, in the middle of the step of R129 that the code covers, even and
within ±32256; code 0 gives 8 and code 128 gives -8. -/
def Obligations.CodesExpandToTheMiddleOfTheirStep : Prop :=
  ∀ c : Byte,
    let seg := c.toNat / 16 % 8
    let mant := c.toNat % 16
    let m := if seg = 0 then 16 * mant + 8 else (16 + mant) * 2 ^ (seg + 3) + 2 ^ (seg + 2)
    let halfStep := if seg = 0 then 8 else 2 ^ (seg + 2)
    expand c = (if c.toNat < 128 then (m : Int) else -(m : Int)) ∧
    expand c % 2 = 0 ∧ -32256 ≤ expand c ∧ expand c ≤ 32256 ∧ expand 0 = 8 ∧ expand 128 = -8 ∧
    ∀ v : Int, -32768 ≤ v → v ≤ 32767 →
      (compress v = c ↔ (v < 0 ↔ 128 ≤ c.toNat) ∧ m - halfStep ≤ min v.natAbs 32767 ∧ min v.natAbs 32767 < m + halfStep)

/-- SAMPLE_INSTANT (R126 to R129, R132, R138): the DC block of a port IN_CALL, one code for each frame being built, the samples given
to the codecs, and the sample clock (its place in the tick and the period is the model's, log entry 5). -/
def Obligations.SampleMovesTheMedia : Prop :=
  ∀ (a b : Half) (pins : Pins) (s : State), ∃ t, exec (.sampleInstant a b pins) s = .next t ∧
    (∀ p, (s.port p).state = .inCall →
      let x : Int := match p with
        | .a => a.toInt
        | .b => b.toInt
      (t.mediaPort p).dcIn = x ∧
      (t.mediaPort p).dcOut =
        min (max (((x - (s.mediaPort p).dcIn) * 32768 + 31785 * (s.mediaPort p).dcOut + 16384) / 32768) (-32768)) 32767) ∧
    (∀ n f, (s.media n).builder = some f → f.codes.length < 80 →
      let part (p : Port) : Int :=
        if (s.call n).attached.has p then (t.mediaPort p).dcOut * (s.upGain p : Int) else 0
      (t.media n).builder = some
        { codes := f.codes ++ [compress (min (max ((part .a + part .b + 2048) / 4096) (-32768)) 32767)],
          muted := f.muted && ((!(s.call n).attached.a || s.param .upGainA == 0) &&
            (!(s.call n).attached.b || s.param .upGainB == 0)) }) ∧
    (∀ p n, (s.port p).state = .inCall → s.slotOf p = some n →
      t.out.codec.get p =
        if (s.media n).media = .flowing then
          min (max (((s.media n).playing.getD s.clock.sampleInPeriod 0 * (s.downGain p : Int) + 2048) / 4096) (-32768)) 32767
        else 0) ∧
    (∀ p, ((s.port p).state = .idle ∨ (s.port p).state = .ringing ∨ (s.port p).state = .parked ∨
      (s.port p).state = .disabled) → t.out.codec.get p = 0) ∧
    t.clock.sampleInTick = (s.clock.sampleInTick + 1) % 8 ∧
    t.clock.sampleInPeriod = (s.clock.sampleInPeriod + 1) % 80 ∧ t.clock.tickInPeriod = s.clock.tickInPeriod ∧
    (∀ n, t.media n = { s.media n with builder := (t.media n).builder }) ∧
    t.out = { s.out with codec := t.out.codec } ∧ changesOnly [.media, .tests, .clock, .outputs] s t

/-- VOICE_FRAME_CLOSE (R132): a builder with 80 codes closes its frame, which becomes the due frame with its sequence and flags; a
builder short of that is left, which is the model's choice (log entry 12). -/
def Obligations.FullBuildersClose : Prop :=
  ∀ s : State, ∃ t, exec .voiceFrameClose s = .next t ∧
    (∀ n f, (s.media n).builder = some f → f.codes.length = 80 →
      t.media n = { s.media n with
        due := some ([2, byteOf ((if (s.media n).resume then 1 else 0) + (if f.muted then 2 else 0))] ++
          be16 (s.media n).seq.toNat ++ (if f.muted then List.replicate 80 0 else f.codes))
        seq := (s.media n).seq + 1, resume := false, builder := none } ∧
      counted (Ctr.framesBuilt n) 1 s t) ∧
    (∀ n, (∀ f, (s.media n).builder = some f → f.codes.length ≠ 80) →
      t.media n = s.media n ∧ t.counter (Ctr.framesBuilt n) = s.counter (Ctr.framesBuilt n)) ∧
    t.mdu = { s.mdu with slots := t.mdu.slots } ∧ changesOnly [.media, .counters] s t ∧
    countsOnly [Ctr.framesBuilt .zero, Ctr.framesBuilt .one] s t

/-- BUDGET_PERIOD_START at a slot that is PLAYING (R137): the frame of sequence base is played and leaves the ring; when it is
missing, the previous frame halved stands in once, then silence, and the fifth miss starts the playout afresh. -/
def Obligations.PeriodPlaysTheNextFrame : Prop :=
  ∀ (s : State) (n : Slot) (b : Half), (s.media n).play = .playing → (s.media n).base = some b →
    ∃ t, exec .budgetPeriodStart s = .next t ∧
    (∀ f, vget (s.media n).ring (Fin.ofNat 16 b.toNat) = some f → f.seq = b →
      let samples := if f.silent then List.replicate 80 0 else f.codes.map expand
      (t.media n).playing = samples ∧ (t.media n).prev = some samples ∧ (t.media n).base = some (b + 1) ∧
      (t.media n).miss = 0 ∧ (t.media n).play = .playing ∧
      (t.media n).ring = vset (s.media n).ring (Fin.ofNat 16 b.toNat) none) ∧
    ((∀ f, vget (s.media n).ring (Fin.ofNat 16 b.toNat) = some f → f.seq ≠ b) →
      (t.media n).playing = (match (s.media n).miss, (s.media n).prev with
        | 0, some l => l.map fun v => v / 2
        | _, _ => List.replicate 80 0) ∧
      if (s.media n).miss = 4 then
        (t.media n).play = .filling ∧ (t.media n).base = none ∧ (∀ i, vget (t.media n).ring i = none) ∧ (t.media n).miss = 0
      else
        (t.media n).play = .playing ∧ (t.media n).base = some (b + 1) ∧ (t.media n).ring = (s.media n).ring ∧
        (t.media n).miss = (s.media n).miss + 1)

/-! ## The Fault Unit -/

/-- A report of an event, or of a condition that is not active (R169, R174): the record takes the occurrence, and each list whose
authority's level is 1 or more takes the kind or counts one more repeat of it. The local list is stated with no item on offer (a
home link down, or the part quiet), so that none leaves for the FIFO (R177). -/
def Obligations.ReportsAreRecordedAndListed : Prop :=
  ∀ (s : State) (k : FaultKind) (detail : Nat), (k.isCondition = true → (s.fault k).active = false) →
    (s.qm.homeUp = false ∨ s.me.quiet = true) →
    let t := occurrence k detail s
    let r := s.fault k
    t.fault k =
      { r with count := min (r.count + 1) 65535, first := if r.count = 0 then s.fu.uptime else r.first, last := s.fu.uptime,
               detail := detail % 65536, active := k.isCondition, locLatch := true, exchLatch := true } ∧
    recordsOnly [k] s t ∧ counted Ctr.occurrences 1 s t ∧
    (∀ (level : Nat) (old new : List PendingItem),
      ((level = r.exchLevel ∧ old = s.fu.exchList ∧ new = t.fu.exchList) ∨
        (level = r.locLevel ∧ old = s.fu.locList ∧ new = t.fu.locList)) →
      if level = 0 then new = old
      else if ∃ i ∈ old, i.kind = k then
        new = old.map fun i => if i.kind = k then { i with repeats := min (i.repeats + 1) 255 } else i
      else ∃ l₁ l₂, old = l₁ ++ l₂ ∧
        new = l₁ ++ [{ kind := k, level := level, entry := s.fu.uptime, repeats := 1 }] ++ l₂) ∧
    changesOnly [.faults, .matchEngine, .counters] s t ∧ countsOnly reportCounters s t

/-- A condition reported as ended (R170): the record's active field is no and nothing else changes, the pending items and the detail
of later notices included; an end of an inactive record changes nothing; and an end taken before an occurrence leaves the condition
active, one taken after it leaves it inactive with the occurrence recorded. -/
def Obligations.EndsOnlyClearActive : Prop :=
  ∀ (s : State) (k : FaultKind), k.isCondition = true →
    let t := endCondition k s
    t.fault k = { s.fault k with active := false } ∧ recordsOnly [k] s t ∧ changesOnly [.faults] s t ∧
    t.fu = { s.fu with records := t.fu.records } ∧
    (∀ i : PendingItem, i.kind = k → t.notice i = noticeMsg i { s.fault k with active := false }) ∧
    ((s.fault k).active = false → t = s ∧ ∀ detail,
      (occurrence k detail (endCondition k s)).isActive k = true ∧
      (endCondition k (occurrence k detail s)).fault k =
        { (s.fault k).occurred true s.fu.uptime detail with active := false })

/-! ## The Line Supervisor -/

/-- Transceiver messages that the link state does not fit (R21): only the count of strays moves. -/
def Obligations.StrayMessagesAreOnlyCounted : Prop :=
  ∀ (s : State) (c : Instr),
    (((∃ rate margin, c = .trained rate margin) ∧ s.ls.link ≠ .training ∧ s.ls.link ≠ .retraining) ∨
      (c = .noTrain ∧ s.ls.link ≠ .training ∧ s.ls.link ≠ .retraining) ∨
      (c = .syncLost ∧ s.ls.link ≠ .carrying) ∨ (c = .syncBack ∧ s.ls.link ≠ .riding) ∨
      ((∃ margin, c = .margin margin) ∧ s.ls.link ≠ .carrying)) →
    ∃ t, exec c s = .next t ∧ changesOnly [.counters] s t ∧ countsOnly [Ctr.strayMessages] s t ∧
      counted Ctr.strayMessages 1 s t

/-- TRAINED accepted (R22, R29, R51, R60, R162): the rate, clamped to the rung's cap, is at or above the floor rate. Every field of the
Line Supervisor and of the budget record is given; then the preemption check cuts the slots that the bound does not hold, last admitted
first, and the others have their REFRESH. Where slots are cut, it is stated for ports that ring by themselves with no handset lifted.
That a cut slot's cadence is 0, its group flag clear and its alert limit stopped is log entry 21, and what its playout returns to is log
entry 49. -/
def Obligations.TrainedEntersCarrying : Prop :=
  ∀ (rate : Nat) (margin : Half) (s : State),
    let rung := vget s.ls.profile s.ls.rung
    let r := min rate rung.cap
    let met := boundMet rung.size (10 * r * rung.eff / 512 / (8 * rung.size.bytes)) (s.param .dataFloor)
    let cuts := cutsAtReturn met s
    (s.ls.link = .training ∨ s.ls.link = .retraining) → s.param .floorRate ≤ r →
    (cuts ≠ [] → s.ppu.pair = .apart ∧ ∀ n ∈ cuts, ∀ p, (s.call n).ringSet.has p = true → (s.port p).closed = false) →
    ∃ t, exec (.trained rate margin) s = .next t ∧
      t.ls = { s.ls with link := .carrying, train := none, hold := none, backoffLength := 30,
                         inUse := { size := rung.size, eff := rung.eff, minMargin := rung.minMargin },
                         rate := r, margin := margin.toInt, cleanRun := 0, gradesSince := 0, crcBad := 0, gapMark := false,
                         syncLostMark := false, lowMargin := 0, stepUpDeferred := false, silence := some 0 } ∧
      t.lbu = { s.lbu with rate := r, size := rung.size, eff := rung.eff, bitsCarry := 0, blockCarry := 0,
                           floor := s.param .dataFloor, pendingFloor := none } ∧
      t.bf.loopStore = s.bf.loopStore ∧ (∀ c, t.chan c = { s.chan c with expected := none }) ∧
      (∀ k, k ≠ .callCut →
        t.fault k = if k = .lineDown ∨ k = .noRung then { s.fault k with active := false } else s.fault k) ∧
      CallsReturned cuts s t ∧ Reports s t ∧ (cuts = [] → t.fu = { s.fu with records := t.fu.records }) ∧
      counted Ctr.trainingsSucceeded 1 s t ∧
      t.counter Ctr.ratesClamped = (if rung.cap < rate then satAdd Config.max32 (s.counter Ctr.ratesClamped) 1
                                    else s.counter Ctr.ratesClamped) ∧
      changesOnly ([.framer, .supervisor, .budget, .calls, .media, .faults, .counters] ++
        if cuts.isEmpty then [] else [.phones, .matchEngine, .queues]) s t ∧
      countsOnly ([Ctr.trainingsSucceeded, Ctr.ratesClamped, Ctr.refreshes, Ctr.signalsLost, Ctr.staleVoice] ++
        if cuts.isEmpty then [] else Ctr.callsCut :: reportCounters) s t

/-- A training that fails with a valid rung below (R31, R22, R20): by NO_TRAIN, by a TRAINED below the floor rate, or by the train
timer, whose HALT comes first. TRAIN is sent at that rung and the link state stays. That a TRAINED below the floor rate leaves the last
margin is log entry 47. -/
def Obligations.FailedTrainingGoesDownTheLadder : Prop :=
  ∀ (s : State) (i : Fin 8), (s.ls.link = .training ∨ s.ls.link = .retraining) → s.rungBelow s.ls.rung = some i →
    let down : Supervisor := { s.ls with rung := i, train := some { limit := 1000 * s.param .trainTimeout, elapsed := 0 } }
    (∃ t, exec .noTrain s = .next t ∧ t.ls = down ∧
      t.out = { s.out with xcvr := s.out.xcvr ++ [.train (vget s.ls.profile i).cap] } ∧
      counted Ctr.noTrainReceived 1 s t ∧ counted Ctr.trainingsStarted 1 s t ∧
      changesOnly [.supervisor, .outputs, .counters] s t ∧ countsOnly [Ctr.noTrainReceived, Ctr.trainingsStarted] s t) ∧
    (∀ (rate : Nat) (margin : Half), min rate (vget s.ls.profile s.ls.rung).cap < s.param .floorRate →
      ∃ t, exec (.trained rate margin) s = .next t ∧ t.ls = down ∧
      t.out = { s.out with xcvr := s.out.xcvr ++ [.train (vget s.ls.profile i).cap] } ∧
      counted Ctr.trainingsBelowFloor 1 s t ∧ counted Ctr.trainingsStarted 1 s t ∧
      changesOnly [.supervisor, .outputs, .counters] s t ∧
      countsOnly [Ctr.ratesClamped, Ctr.trainingsBelowFloor, Ctr.noTrainReceived, Ctr.trainingsStarted] s t) ∧
    (s.ls.train ≠ none → ∃ t, exec .trainTimerExpiry s = .next t ∧ t.ls = down ∧
      t.out = { s.out with xcvr := s.out.xcvr ++ [.halt, .train (vget s.ls.profile i).cap] } ∧
      counted Ctr.trainTimerExpiries 1 s t ∧ counted Ctr.trainingsStarted 1 s t ∧
      changesOnly [.supervisor, .outputs, .counters] s t ∧ countsOnly [Ctr.trainTimerExpiries, Ctr.trainingsStarted] s t)

/-- A training that fails on the lowest rung (R31, R32, R39, R163): HALT, WAITING with the backoff timer, the backoff length doubled to
480 s at most, NO_RUNG active, every slot dropped and FREE. The order of the reports is the model's (log entry 16), and a TRAINED below
the floor rate leaves the last margin (log entry 47). -/
def Obligations.FailedRoundWaits : Prop :=
  ∀ (s : State) (c : Instr), (s.ls.link = .training ∨ s.ls.link = .retraining) → s.rungBelow s.ls.rung = none →
    (c = .noTrain ∨ (c = .trainTimerExpiry ∧ s.ls.train ≠ none) ∨
      ∃ rate margin, c = .trained rate margin ∧ min rate (vget s.ls.profile s.ls.rung).cap < s.param .floorRate) →
    ∃ t, exec c s = .next t ∧
      t.ls = { s.ls with link := .waiting, train := none, hold := none,
                         backoff := some { limit := 1000 * s.ls.backoffLength, elapsed := 0 },
                         backoffLength := min (2 * s.ls.backoffLength) 480 } ∧
      t.out = { s.out with xcvr := s.out.xcvr ++ [.halt] } ∧
      t.fault .noRung = reported .noRung s.ls.backoffLength s.fu.uptime (s.fault .noRung) ∧
      t.fault .lineDown =
        (if s.ls.link = .retraining then reported .lineDown s.ls.rate s.fu.uptime (s.fault .lineDown) else s.fault .lineDown) ∧
      recordsOnly [.noRung, .lineDown, .callDropped] s t ∧ Reports s t ∧
      (∀ n, (t.call n).state = .free) ∧
      (∀ n, (s.call n).state ≠ .free → (t.call n).endCause = some .line ∧ (t.call n).signals = []) ∧
      (∀ n, (s.call n).state = .free → t.call n = s.call n) ∧ counted Ctr.waitsEntered 1 s t ∧
      changesOnly ([.framer, .supervisor, .phones, .calls, .media, .outputs] ++ reportBlocks) s t

/-- SYNC_LOST, or the silence watch's expiry, in CARRYING (R33, R30, R9, R16, R160) with a ride time other than 0: RIDING with the
ride timer, every slot not FREE held, every frame in progress given up, loopback and an urgent claim ended. -/
def Obligations.LostSyncStartsARide : Prop :=
  ∀ (s : State) (c : Instr), (c = .syncLost ∨ c = .transceiverSilent) → s.ls.link = .carrying → s.param .rideTime ≠ 0 →
    ∃ t, exec c s = .next t ∧
      t.ls = { s.ls with link := .riding, syncLostMark := true, lowMargin := 0, stepUpDeferred := false, silence := none,
                         loopback := none, ride := some { limit := s.param .rideTime, elapsed := 0 } } ∧
      (∀ c, t.chan c = { s.chan c with seg := none, asm := none }) ∧
      t.bf.loopStore = (if s.ls.loopback = none then s.bf.loopStore else []) ∧
      t.lbu = { s.lbu with urgent := false } ∧
      (∀ n, (s.call n).state ≠ .free → t.call n = { s.call n with held := true }) ∧
      (∀ n, (s.call n).state = .free → t.call n = s.call n ∧ t.media n = s.media n) ∧
      (∀ n, (s.call n).state ≠ .free → t.media n = (s.media n).change (t.call n).mediaState) ∧
      (t.fault .severeRun).active = false ∧ (t.fault .marginLow).active = false ∧
      recordsOnly [.severeRun, .marginLow, .reassemblyLoss] s t ∧ Reports s t ∧
      counted Ctr.rides 1 s t ∧ (c = .transceiverSilent → counted Ctr.transceiverSilent 1 s t) ∧
      changesOnly ([.framer, .supervisor, .budget, .calls, .media] ++ reportBlocks) s t ∧
      countsOnly ([Ctr.rides, Ctr.transceiverSilent, Ctr.framesAbandoned, Ctr.loopedDiscarded, Ctr.gaspClaimsDropped,
        Ctr.staleVoice] ++ reportCounters) s t

/-- SYNC_BACK in RIDING (R34, R60, R162): CARRYING with the rate, the rung, the carries and the accumulators kept; a RIDE event
with the length of the ride; then the preemption check and the REFRESH signals as at a training. Where slots are cut, the
step-up-deferred flag is clear, as leaving CARRYING left it (R30), and it is stated for ports that ring by themselves with no
handset lifted. That a cut slot's cadence is 0, its group flag clear and its alert limit stopped is log entry 21, and what its
playout returns to is log entry 49. -/
def Obligations.SyncBackEndsTheRide : Prop :=
  ∀ s : State,
    let cuts := cutsAtReturn (boundMet s.lbu.size s.lbu.sustained (s.param .dataFloor)) s
    s.ls.link = .riding →
    (cuts ≠ [] → s.ls.stepUpDeferred = false ∧ s.ppu.pair = .apart ∧
      ∀ n ∈ cuts, ∀ p, (s.call n).ringSet.has p = true → (s.port p).closed = false) →
    ∃ t, exec .syncBack s = .next t ∧
      t.ls = { s.ls with link := .carrying, ride := none, lowMargin := 0, silence := some 0 } ∧
      t.lbu = { s.lbu with floor := s.param .dataFloor, pendingFloor := none } ∧
      t.bf.loopStore = s.bf.loopStore ∧ (∀ c, t.chan c = { s.chan c with expected := none }) ∧
      t.fault .ride = reported .ride (match s.ls.ride with
        | some timer => timer.elapsed
        | none => 0) s.fu.uptime (s.fault .ride) ∧
      t.fault .lineDown = { s.fault .lineDown with active := false } ∧ recordsOnly [.ride, .lineDown, .callCut] s t ∧
      Reports s t ∧ CallsReturned cuts s t ∧ counted Ctr.ridesEndedBySyncBack 1 s t ∧
      changesOnly ([.framer, .supervisor, .budget, .calls, .media] ++ reportBlocks ++
        if cuts.isEmpty then [] else [.phones]) s t ∧
      countsOnly ([Ctr.ridesEndedBySyncBack, Ctr.refreshes, Ctr.signalsLost, Ctr.staleVoice] ++ reportCounters ++
        if cuts.isEmpty then [] else [Ctr.callsCut]) s t

/-- The ride timer expires in RIDING (R35, with R26 for the rung and R27 for the state entered): HALT, TRAIN at the same rung,
RETRAINING or TRAINING as slots dictate, a RETRAIN event with the rung, the expiry counted. A SYNC_BACK afterwards is stray; a
SYNC_BACK taken first stops the timer; that its expiry then does nothing is the model's choice (log entry 12). -/
def Obligations.RideTimerExpiryRetrains : Prop :=
  ∀ s : State, s.ls.link = .riding → s.ls.ride ≠ none →
    let i := s.rungFrom s.ls.rung
    let used := (s.call .zero).state ≠ .free ∨ (s.call .one).state ≠ .free
    (∃ t, exec .rideTimerExpiry s = .next t ∧
      t.ls = { s.ls with ride := none, rung := i, train := some { limit := 1000 * s.param .trainTimeout, elapsed := 0 },
                         link := t.ls.link, hold := t.ls.hold } ∧
      (used → t.ls.link = .retraining ∧ t.ls.hold = some { limit := 1000 * s.param .holdLimit, elapsed := 0 }) ∧
      (¬ used → t.ls.link = .training ∧ t.ls.hold = s.ls.hold) ∧
      t.out = { s.out with xcvr := s.out.xcvr ++ [.halt, .train (vget s.ls.profile i).cap] } ∧
      t.fault .retrain = reported .retrain i.val s.fu.uptime (s.fault .retrain) ∧ recordsOnly [.retrain, .lineDown] s t ∧
      Reports s t ∧ counted Ctr.rideExpiries 1 s t ∧
      changesOnly ([.supervisor, .calls, .media, .outputs] ++ reportBlocks) s t ∧
      (∃ u, exec .syncBack t = .next u ∧ changesOnly [.counters] t u ∧ countsOnly [Ctr.strayMessages] t u ∧
        counted Ctr.strayMessages 1 t u)) ∧
    (∃ t, exec .syncBack s = .next t ∧ t.ls.ride = none ∧ exec .rideTimerExpiry t = .next t)

/-- The hold timer expires in RETRAINING (R36, R39, R163): TRAINING, every slot dropped, LINE_DOWN active; nothing is sent and the
train timer runs on. The backoff timer expires in WAITING (R32): a new round at the start rung. -/
def Obligations.HoldAndBackoffTimersExpire : Prop :=
  ∀ s : State,
    (s.ls.link = .retraining → s.ls.hold ≠ none → ∃ t, exec .holdTimerExpiry s = .next t ∧
      t.ls = { s.ls with link := .training, hold := none } ∧ (∀ n, (t.call n).state = .free) ∧
      (∀ n, (s.call n).state ≠ .free → (t.call n).endCause = some .line ∧ (t.call n).signals = []) ∧
      t.fault .lineDown = reported .lineDown s.ls.rate s.fu.uptime (s.fault .lineDown) ∧
      recordsOnly [.lineDown, .callDropped] s t ∧ Reports s t ∧ counted Ctr.holdLimitExpiries 1 s t ∧
      changesOnly ([.framer, .supervisor, .phones, .calls, .media] ++ reportBlocks) s t) ∧
    (s.ls.link = .waiting → s.ls.backoff ≠ none → ∃ t, exec .backoffExpiry s = .next t ∧
      let i := s.rungFrom (Fin.ofNat 8 (s.param .startRung))
      t.ls = { s.ls with link := .training, backoff := none, rung := i,
                         train := some { limit := 1000 * s.param .trainTimeout, elapsed := 0 } } ∧
      t.out = { s.out with xcvr := s.out.xcvr ++ [.train (vget s.ls.profile i).cap] } ∧
      counted Ctr.trainingsStarted 1 s t ∧ changesOnly [.supervisor, .outputs, .counters] s t ∧
      countsOnly [Ctr.trainingsStarted] s t)

/-- MARGIN in CARRYING (R43, R44): at or above the minimum margin it ends MARGIN_LOW; below it the low-margin count increases, and
where the count does not reach 10, or MARGIN_LOW is active, nothing else happens; the tenth low report with a rung below steps the
line down. -/
def Obligations.MarginsAreJudged : Prop :=
  ∀ (m : Half) (s : State), s.ls.link = .carrying →
    (s.ls.inUse.minMargin ≤ m.toInt → ∃ t, exec (.margin m) s = .next t ∧
      t.ls = { s.ls with margin := m.toInt, silence := some 0, lowMargin := 0 } ∧
      t.fault .marginLow = { s.fault .marginLow with active := false } ∧ recordsOnly [.marginLow] s t ∧
      t.fu = { s.fu with records := t.fu.records } ∧ changesOnly [.supervisor, .faults] s t) ∧
    (m.toInt < s.ls.inUse.minMargin → (min (s.ls.lowMargin + 1) 255 ≠ 10 ∨ (s.fault .marginLow).active = true) →
      ∃ t, exec (.margin m) s = .next t ∧
      t.ls = { s.ls with margin := m.toInt, silence := some 0, lowMargin := min (s.ls.lowMargin + 1) 255 } ∧
      changesOnly [.supervisor] s t) ∧
    (m.toInt < s.ls.inUse.minMargin → s.ls.lowMargin = 9 → (s.fault .marginLow).active = false →
      ∀ i, s.rungBelow s.ls.rung = some i → ∃ t, exec (.margin m) s = .next t ∧
      t.ls.link = (if (s.call .zero).state = .free ∧ (s.call .one).state = .free then .training else .retraining) ∧
      t.ls.rung = i ∧ t.ls.margin = m.toInt ∧ t.ls.lowMargin = 0 ∧ t.ls.silence = none ∧ t.ls.loopback = none ∧
      t.out = { s.out with xcvr := s.out.xcvr ++ [.halt, .train (vget s.ls.profile i).cap] } ∧
      t.fault .marginLow =
        { (s.fault .marginLow).occurred true s.fu.uptime (BitVec.ofInt 16 m.toInt).toNat with active := false } ∧
      t.fault .stepDown = (s.fault .stepDown).occurred false s.fu.uptime i.val ∧
      recordsOnly [.marginLow, .stepDown, .severeRun, .reassemblyLoss, .lineDown] s t ∧ Reports s t ∧
      counted Ctr.stepDowns 1 s t ∧
      changesOnly ([.framer, .supervisor, .budget, .calls, .media, .outputs] ++ reportBlocks) s t)

/-- UPTIME_SECOND (R183, R41, R42, R44, R45, R140, R141): the uptime counts on. The clip count of the second is judged and cleared, and
at a completed minute the concealment count. Outside CARRYING the line is untouched; in CARRYING the second is graded and its
accumulators cleared, SEVERE_RUN evaluated, and then the line steps down, steps up, defers a step-up or carries on. That the command
sets the model's place in the second back is log entry 19; that the first second after a training is graded too (R30) is log entry
52. -/
def Obligations.SecondsAreGraded : Prop :=
  ∀ s : State, ∃ t, exec .uptimeSecond s = .next t ∧
    let now := (s.fu.uptime + 1) % 4294967296
    let minute := 59 ≤ s.mdu.second
    t.fu.uptime = now ∧ t.fu.tick = 0 ∧ t.mdu.clips = 0 ∧ t.mdu.second = (if minute then 0 else s.mdu.second + 1) ∧
    t.mdu.conceals = (if minute then 0 else s.mdu.conceals) ∧ counted Ctr.clips s.mdu.clips s t ∧
    countedIf minute Ctr.concealments s.mdu.conceals s t ∧
    t.fault .clipping = (if s.param .clipThreshold ≤ s.mdu.clips then reported .clipping s.mdu.clips now (s.fault .clipping)
      else { s.fault .clipping with active := false }) ∧
    t.fault .playoutLoss = (if ¬ minute then s.fault .playoutLoss
      else if s.param .lossThreshold ≤ s.mdu.conceals then
        reported .playoutLoss s.mdu.conceals now (s.fault .playoutLoss)
      else { s.fault .playoutLoss with active := false }) ∧
    (s.ls.link ≠ .carrying → changesOnly [.media, .faults, .matchEngine, .queues, .counters] s t ∧
      recordsOnly [.clipping, .playoutLoss] s t) ∧
    (s.ls.link = .carrying →
      let severe := s.param .severeThreshold ≤ s.ls.crcBad ∨ s.ls.syncLostMark = true
      let clean := s.ls.crcBad = 0 ∧ s.ls.gapMark = false
      let grade : Grade := if severe then .severe else if clean then .clean else .errored
      let graded : Supervisor :=
        { s.ls with history := (s.ls.history ++ [grade]).drop (s.ls.history.length + 1 - 60),
                    gradesSince := min (s.ls.gradesSince + 1) 60,
                    cleanRun := if grade = .clean then min (s.ls.cleanRun + 1) 65535 else 0,
                    crcBad := 0, gapMark := false, syncLostMark := false }
      let count := (graded.history.drop (graded.history.length - graded.gradesSince)).countP (· == Grade.severe)
      let reached := s.param .stepDownCount ≤ count
      let was := s.fault .severeRun
      let used := (s.call .zero).state ≠ .free ∨ (s.call .one).state ≠ .free
      let down (i : Fin 8) : Prop := reached ∧ was.active = false ∧ s.rungBelow s.ls.rung = some i
      let up (i : Fin 8) : Prop := s.rungAbove s.ls.rung = some i ∧ s.param .startRung ≤ i.val ∧
        min (s.param .stepUpPeriod) 65535 ≤ graded.cleanRun ∧
        (vget s.ls.profile i).minMargin + (s.param .marginHysteresis : Int) ≤ s.ls.margin
      let evaluated : FaultRecord := if reached then reported .severeRun count now was else { was with active := false }
      let trains (i : Fin 8) : Prop := t.ls =
        { graded with link := t.ls.link, rung := i, train := some { limit := 1000 * s.param .trainTimeout, elapsed := 0 },
                      hold := t.ls.hold, lowMargin := 0, silence := none, stepUpDeferred := false, loopback := none } ∧
        t.out = { s.out with xcvr := s.out.xcvr ++ [.halt, .train (vget s.ls.profile i).cap] } ∧
        t.fault .severeRun = { evaluated with active := false } ∧ t.lbu = { s.lbu with urgent := false } ∧
        ∀ c, t.chan c = { s.chan c with seg := none, asm := none }
      (∀ i, down i → trains i ∧ t.fault .stepDown = (s.fault .stepDown).occurred false now i.val ∧
        (used → t.ls.link = .retraining ∧ t.ls.hold = some { limit := 1000 * s.param .holdLimit, elapsed := 0 }) ∧
        (¬ used → t.ls.link = .training ∧ t.ls.hold = s.ls.hold) ∧ counted Ctr.stepDowns 1 s t ∧
        (∀ n, t.call n = if (s.call n).state = .free then s.call n else { s.call n with held := true })) ∧
      ((∀ i, ¬ down i) → ∀ i, up i →
        (¬ used → trains i ∧ t.ls.link = .training ∧ t.ls.hold = s.ls.hold ∧ counted Ctr.stepUps 1 s t) ∧
        (used → t.ls = { graded with stepUpDeferred := true } ∧ t.fault .severeRun = evaluated)) ∧
      ((∀ i, ¬ down i) → (∀ i, ¬ up i) → t.ls = graded ∧ t.fault .severeRun = evaluated) ∧
      ((∀ i, ¬ down i) → (used ∨ ∀ i, ¬ up i) → recordsOnly [.severeRun, .clipping, .playoutLoss] s t ∧
        changesOnly [.supervisor, .media, .faults, .matchEngine, .queues, .counters] s t) ∧
      recordsOnly [.severeRun, .stepDown, .marginLow, .reassemblyLoss, .lineDown, .clipping, .playoutLoss] s t)

/-! ## Line blocks and frames -/

/-- The bytes of a line block read back as its fields (R2, R3, section 11.1): the block has the size in use, its CRC is good, and
header and payload area are those it was built from. -/
def Obligations.LineBlocksReadBack : Prop :=
  ∀ (size : BlockSize) (c : Chan) (kind : BlockKind) (urgent fill : Bool) (seq : Byte) (used : Nat) (frameNo : Byte)
    (payload : Bytes), payload.length ≤ size.payload → used < 256 →
    let b := blockBytes size c kind urgent fill seq used frameNo payload
    b.length = size.bytes ∧ blockGood size b = true ∧
    readBlock size b =
      { chan := c, kind := kind, fill := fill, seq := seq, used := used, frameNo := frameNo,
        payload := payload ++ List.replicate (size.payload - payload.length) 0 }

/-- A frame that a sender's segmentation puts on a channel (R5, R6) is, block by block through LINE_BLOCK_RECEIVED, collected and
delivered once, whole, by a receiver of the same block size that expects its first block or none in particular (R11 to R15). -/
def Obligations.FramesCrossTheLine : Prop :=
  ∀ (c : Chan) (f : Bytes) (source : Source) (s r : State), assigned c = true → 1 ≤ f.length →
    f.length ≤ largestFrame c → r.lbu.size = s.lbu.size → r.ls.link = .carrying → r.ls.loopback = none →
    (r.chan c).asm = none → ((r.chan c).expected = none ∨ (r.chan c).expected = some (s.chan c).txSeq) →
    let blocks := blocksOf s.lbu.size c (s.chan c).txSeq (s.chan c).nextFrame f
    (continueFrame c (blocks.length - 1) (startFrame c source f s)).out.line = s.out.line ++ blocks ∧
    runAll (blocks.map .lineBlockReceived) r =
      deliver c f (r |> bumpBy Ctr.goodReceived blocks.length
        |> onChan c fun h => { h with expected := some ((s.chan c).txSeq + byteOf blocks.length) })

/-- A block that has passed the sequence check is malformed in the cases of R13: discarded, counted, a partial frame of its channel
abandoned with cause MALFORMED; the expected sequence has moved on. -/
def Obligations.MalformedBlocksAreDiscarded : Prop :=
  ∀ (s : State) (bytes : Bytes), s.ls.link = .carrying → blockGood s.lbu.size bytes = true →
    let b := readBlock s.lbu.size bytes
    b.fill = false → assigned b.chan = true →
    ((s.chan b.chan).expected = none ∨ (s.chan b.chan).expected = some b.seq) →
    ((b.kind = .first ∨ b.kind = .middle) ∧ b.used ≠ s.lbu.size.payload ∨
      (b.kind = .whole ∨ b.kind = .last) ∧ (b.used = 0 ∨ s.lbu.size.payload < b.used)) →
    ∃ t, exec (.lineBlockReceived bytes) s = .next t ∧ counted Ctr.malformed 1 s t ∧ counted Ctr.goodReceived 1 s t ∧
      (∀ c, t.chan c = if c = b.chan then { s.chan c with expected := some (b.seq + 1), asm := none } else s.chan c) ∧
      t.bf.loopStore = s.bf.loopStore ∧
      t.fault .reassemblyLoss = (if (s.chan b.chan).asm = none then s.fault .reassemblyLoss
        else (s.fault .reassemblyLoss).occurred false s.fu.uptime (b.chan.val * 256 + 5)) ∧
      recordsOnly [.reassemblyLoss] s t ∧ Reports s t ∧ changesOnly (.framer :: reportBlocks) s t ∧
      countsOnly ([Ctr.goodReceived, Ctr.malformed, Ctr.framesAbandoned] ++ reportCounters) s t

/-- LINE_BLOCK_RECEIVED through the checks of R11 that end a block's handling early, and a FIRST block in its place (R14): off-line
and CRC-bad blocks (R40; a block of another length counts as CRC-bad, log entry 13), fill blocks, unassigned channels. -/
def Obligations.BlocksAreCheckedInOrder : Prop :=
  ∀ (s : State) (bytes : Bytes),
    (s.ls.link ≠ .carrying → ∃ t, exec (.lineBlockReceived bytes) s = .next t ∧ counted Ctr.offLine 1 s t ∧
      changesOnly [.counters] s t ∧ countsOnly [Ctr.offLine] s t) ∧
    (s.ls.link = .carrying → blockGood s.lbu.size bytes = false → ∃ t, exec (.lineBlockReceived bytes) s = .next t ∧
      t.ls = { s.ls with crcBad := min (s.ls.crcBad + 1) 255 } ∧ counted Ctr.crcBad 1 s t ∧
      changesOnly [.supervisor, .counters] s t ∧ countsOnly [Ctr.crcBad] s t) ∧
    (s.ls.link = .carrying → blockGood s.lbu.size bytes = true →
      let b := readBlock s.lbu.size bytes
      (b.fill = true → ∃ t, exec (.lineBlockReceived bytes) s = .next t ∧ counted Ctr.fillReceived 1 s t ∧
        changesOnly [.counters] s t ∧ countsOnly [Ctr.fillReceived] s t) ∧
      (b.fill = false → (4 ≤ b.chan.val ∧ b.chan.val ≤ 13) → ∃ t, exec (.lineBlockReceived bytes) s = .next t ∧
        counted Ctr.unknownChannel 1 s t ∧ changesOnly [.counters] s t ∧ countsOnly [Ctr.unknownChannel] s t) ∧
      (b.fill = false → (b.chan.val ≤ 3 ∨ 14 ≤ b.chan.val) → b.kind = .first → b.used = s.lbu.size.payload →
        b.used ≤ largestFrame b.chan → s.looped b.chan = false → (s.chan b.chan).asm = none →
        ∃ t, exec (.lineBlockReceived bytes) s = .next t ∧
          (∀ c, t.chan c = if c = b.chan then
            { s.chan c with expected := some (b.seq + 1), asm := some { frameNo := b.frameNo, bytes := b.payload.take b.used } }
            else s.chan c) ∧
          (if (s.chan b.chan).expected = none ∨ (s.chan b.chan).expected = some b.seq then t.ls = s.ls
            else t.ls = { s.ls with gapMark := true } ∧ counted Ctr.sequenceGaps 1 s t) ∧
          counted Ctr.goodReceived 1 s t ∧ changesOnly [.framer, .supervisor, .counters] s t ∧
          countsOnly [Ctr.goodReceived, Ctr.sequenceGaps] s t))

/-! ## What a frame delivered from the line does (FramesCrossTheLine says how it comes there) -/

/-- An ALERT delivered for a slot (R150, R153, R158): refused on a slot in use, then its ports, its cadence and its admission checked
in order; on mains an admitted one rings the IDLE ports of its mask and is ALERTING with its alert limit running; outside MAINS (R105,
R120) at most one port rings, port A before port B, a port held back stays IDLE and records RING_LIMITED, and with every port held
back the slot is FREE again and REFUSE(POWER) is queued. How two ports that ring together are paired (R118, R119) is not said here. That
a refused ALERT is counted also when a full signal queue loses its REFUSE is log entry 28; that the FREE slot of a held-back ALERT has
cadence 0, its group flag clear and its alert limit stopped is log entry 21. -/
def Obligations.AlertsRingTheirPorts : Prop :=
  ∀ (s : State) (n : Slot) (cadence mask group : Byte),
    let t := deliver n.chan [1, 16, cadence, mask, group] s
    let ring : PortSet := { a := mask.getLsbD 0 && (s.port .a).state == .idle, b := mask.getLsbD 1 && (s.port .b).state == .idle }
    let empty := ∀ i, vget (vget s.ppu.cadences (Fin.ofNat 8 cadence.toNat)).durations i = 0
    let granted := s.ls.link = .carrying ∧ (s.reserved + 1) * s.lbu.size.voiceBlocks + 1 + s.lbu.floor ≤ s.lbu.sustained
    let refused (cause : Cause) : Prop :=
      t.call n = { s.call n with signals := (s.call n).signals ++
        (if (s.call n).signals.length < 8 then [.refuse cause] else []) } ∧
      t.call n.other = s.call n.other ∧ t.cc.stamp = s.cc.stamp ∧ counted Ctr.alertsRefused 1 s t ∧
      counted (Ctr.framesDelivered n.chan) 1 s t
    let slotFree := (s.call n).state = .free
    (¬ slotFree → refused .slotBusy ∧ changesOnly [.calls, .counters] s t) ∧
    (slotFree → ring = { a := false, b := false } → refused .portsBusy ∧ changesOnly [.calls, .counters] s t) ∧
    (slotFree → ring ≠ { a := false, b := false } → (8 ≤ cadence.toNat ∨ empty) →
      refused .badCadence ∧ changesOnly [.calls, .counters] s t) ∧
    (slotFree → ring ≠ { a := false, b := false } → cadence.toNat < 8 → ¬ empty → ¬ granted →
      refused .budget ∧ counted Ctr.admissionsRefused 1 s t ∧
      t.fault .callRefused = (s.fault .callRefused).occurred false s.fu.uptime
        (((s.reserved + 1) * s.lbu.size.voiceBlocks + 1 + s.lbu.floor) * 256 + min s.lbu.sustained 255) ∧
      recordsOnly [.callRefused] s t ∧ Reports s t ∧ changesOnly (.calls :: reportBlocks) s t) ∧
    (slotFree → ring ≠ { a := false, b := false } → cadence.toNat < 8 → ¬ empty → granted → s.fu.power = .mains →
      t.cc.stamp = min (s.cc.stamp + 1) Config.max32 ∧
      t.call n = { s.call n with state := .alerting, dir := .inward, stamp := t.cc.stamp, start := s.fu.uptime, sent := 0,
                                 received := 0, endCause := none, cadence := cadence.toNat, group := group != 0,
                                 ringSet := ring, alert := some { limit := 1000 * s.param .alertLimit, elapsed := 0 } } ∧
      t.call n.other = s.call n.other ∧
      (∀ p, if ring.has p = true then (t.port p).state = .ringing ∧
          t.port p = { s.port p with state := .ringing, chan := (t.port p).chan, differ := (t.port p).differ,
                                     trip := (t.port p).trip } ∧ counted (Ctr.ringStarts p) 1 s t
        else t.port p = s.port p) ∧
      t.ppu.cadences = s.ppu.cadences ∧ counted Ctr.admissionsGranted 1 s t ∧ counted Ctr.callsAlerted 1 s t ∧
      changesOnly [.phones, .calls, .media, .counters] s t ∧
      countsOnly [Ctr.framesDelivered n.chan, Ctr.admissionsGranted, Ctr.callsAlerted, Ctr.ringStarts .a, Ctr.ringStarts .b,
        Ctr.staleVoice] s t) ∧
    (slotFree → ring ≠ { a := false, b := false } → cadence.toNat < 8 → ¬ empty → granted → s.fu.power ≠ .mains →
      let p : Port := if ring.a = true then .a else .b
      let limitedOf (q : Port) : Prop :=
        t.fault .ringLimited = (s.fault .ringLimited).occurred false s.fu.uptime (if q = .a then 1 else 2)
      let admitted : CallSlot := { s.call n with dir := .inward, stamp := t.cc.stamp, start := s.fu.uptime, sent := 0, received := 0 }
      t.cc.stamp = min (s.cc.stamp + 1) Config.max32 ∧ t.call n.other = s.call n.other ∧ counted Ctr.admissionsGranted 1 s t ∧
      (s.holdsRinger p.other = true →
        t.call n = { admitted with
          state := .free, held := false, attached := { a := false, b := false }, ringSet := { a := false, b := false },
          cadence := 0, group := false, alert := none, endCause := some .power,
          signals := (s.call n).signals ++ (if (s.call n).signals.length < 8 then [.refuse .power] else []) } ∧
        limitedOf p ∧ counted Ctr.alertsRefused 1 s t ∧ t.counter Ctr.callsAlerted = s.counter Ctr.callsAlerted ∧
        changesOnly ([.framer, .supervisor, .budget, .calls, .media, .outputs] ++ reportBlocks) s t) ∧
      (s.holdsRinger p.other = false →
        t.call n = { admitted with
          state := .alerting, endCause := none, cadence := cadence.toNat, group := group != 0,
          ringSet := { a := ring.a, b := !ring.a }, alert := some { limit := 1000 * s.param .alertLimit, elapsed := 0 } } ∧
        (t.port p).state = .ringing ∧
        t.port p = { s.port p with state := .ringing, chan := (t.port p).chan, differ := (t.port p).differ,
                                   trip := (t.port p).trip } ∧
        t.port p.other = s.port p.other ∧ t.ppu.cadences = s.ppu.cadences ∧
        (ring.has p.other = true → limitedOf p.other) ∧ (ring.has p.other = false → t.fu = s.fu) ∧
        recordsOnly [.ringLimited] s t ∧ Reports s t ∧ counted (Ctr.ringStarts p) 1 s t ∧ counted Ctr.callsAlerted 1 s t ∧
        changesOnly ([.phones, .calls, .media] ++ reportBlocks) s t))

/-- A MEDIA message delivered for a slot (R134, R135): the length and the playout state are checked; then RESUME starts the playout
afresh, a first frame sets its base, and any other is stored, a duplicate, an overrun or late by its distance from the base. -/
def Obligations.VoiceFramesFillTheRing : Prop :=
  ∀ (s : State) (n : Slot) (flags hi lo : Byte) (codes : Bytes),
    let f : Bytes := [2, flags, hi, lo] ++ codes
    let t := deliver n.chan f s
    let m := s.media n
    let q : Half := hi ++ lo
    let frame : RingFrame := { seq := q, silent := flags.getLsbD 1, codes := codes }
    let at_ : Fin 16 := Fin.ofNat 16 q.toNat
    let restarted : MediaSlot :=
      { m with play := .filling, base := some q, age := 0, miss := 0, prev := none, ring := vset (Vector.replicate 16 none) at_ (some frame) }
    let counts (c : Counter) : Prop := counted c 1 s t ∧ countsOnly [c, Ctr.framesDelivered n.chan] s t
    let taken (u : MediaSlot) : Prop := t.media n = u ∧ t.media n.other = s.media n.other ∧
      t.mdu = { s.mdu with slots := t.mdu.slots } ∧
      t.call n = { s.call n with received := min ((s.call n).received + 1) Config.max32 } ∧
      t.call n.other = s.call n.other ∧ t.cc.stamp = s.cc.stamp ∧ changesOnly [.calls, .media, .counters] s t
    (codes.length ≠ 80 → counts Ctr.badMediaLength ∧ changesOnly [.counters] s t) ∧
    (codes.length = 80 → m.play = .off → counts (Ctr.mediaWithoutCall n) ∧ changesOnly [.counters] s t) ∧
    (codes.length = 80 → m.play ≠ .off →
      (flags.getLsbD 0 = true → taken restarted ∧ counts (Ctr.resumes n)) ∧
      (flags.getLsbD 0 = false → m.base = none →
        taken { m with base := some q, age := 0, ring := vset m.ring at_ (some frame) } ∧
        countsOnly [Ctr.framesDelivered n.chan] s t) ∧
      (flags.getLsbD 0 = false → ∀ b, m.base = some b →
        let d := (q - b).toNat
        let held := ∃ g, vget m.ring at_ = some g ∧ g.seq = q
        (d ≤ 15 → held → taken m ∧ counts (Ctr.duplicates n)) ∧
        (d ≤ 15 → ¬ held → taken { m with ring := vset m.ring at_ (some frame) } ∧
          countsOnly [Ctr.framesDelivered n.chan] s t) ∧
        (16 ≤ d → d ≤ 32767 → taken restarted ∧ counts (Ctr.overruns n)) ∧
        (32768 ≤ d → taken m ∧ counts (Ctr.lateFrames n))))

/-- A frame delivered from channel 14 (R193, R194): a probe is answered with its id, its pattern and the line's figures, in the place
of an older reply, which is cut short if it is in progress; any other frame is a bad probe. -/
def Obligations.ProbesAreAnswered : Prop :=
  ∀ (s : State) (frame : Bytes),
    let t := deliver 14 frame s
    let probe := 4 ≤ frame.length ∧ frame.getD 0 0 = 0x41 ∧ (frame.getD 1 0).toNat ≤ 200 ∧
      frame.length = (frame.getD 1 0).toNat + 4
    (probe →
      let reply : Bytes :=
        [0x42] ++ (frame.drop 1).take 3 ++ [1, 2] ++ be16 s.ls.rate ++ [2, 2] ++ be16Int s.ls.margin ++
          [3, 1, byteOf s.ls.rung.val] ++ [4, 4] ++ be32 s.fu.uptime ++ [5, 4] ++ be32 (s.counter Ctr.crcBad) ++ frame.drop 4
      t.tr = { s.tr with probe := some reply } ∧
      (∀ c, t.chan c = if c = 14 ∧ s.tr.probe ≠ none ∧ (s.chan 14).seg.map Sending.source = some .probe then
        { s.chan 14 with seg := none } else s.chan c) ∧ t.bf.loopStore = s.bf.loopStore ∧
      counted Ctr.probesAnswered 1 s t ∧ countedIf (s.tr.probe ≠ none) Ctr.probeReplaced 1 s t ∧
      countedIf (s.tr.probe ≠ none ∧ (s.chan 14).seg.map Sending.source = some .probe) Ctr.framesCutShort 1 s t ∧
      counted (Ctr.framesDelivered 14) 1 s t ∧ changesOnly [.framer, .tests, .counters] s t ∧
      countsOnly [Ctr.probesAnswered, Ctr.probeReplaced, Ctr.framesDelivered 14, Ctr.framesCutShort] s t) ∧
    (¬ probe → counted Ctr.badProbes 1 s t ∧ changesOnly [.counters] s t ∧
      countsOnly [Ctr.badProbes, Ctr.framesDelivered 14] s t)

/-! ## The home port -/

/-- HOME_FRAME_RECEIVED (R74, R80, R83, R86, R87, R192, R221) and a frame delivered from channel 2 or 3 (R84, R80, R189). Upstream:
length and check sequence first; a frame that is no management frame is matched and its entry's hit counted; while quiet an ARP request
for an Answer record is answered into the downstream FIFO, and forwarded or discarded; any other frame is dropped, joins the back of the
queue of its class, or is refused there by frames, by bytes or, for Bulk, by the power. Downstream: runts and oversize frames first;
then a frame for the sleeping host takes the quiet rules (a zero host address filters none, log entry 32, and a group address filters
like any other, log entry 45), and any other is dropped or offered to the FIFO by its class. -/
def Obligations.HomeFramesAreQueuedByClass : Prop :=
  ∀ (s : State) (frame : Bytes),
    let hitOn (found : Option (Fin 32)) : State := { s with me := { s.me with table := match found with
      | some i => vset s.me.table i { vget s.me.table i with hits := satAdd Config.max32 (vget s.me.table i).hits 1 }
      | none => s.me.table } }
    (s.qm.homeUp = true →
      let f := frame.take (frame.length - 4)
      let p := payloadOf f
      let good := frame.drop (frame.length - 4) = fcsBytes f
      let found := s.matchFor true (parseFrame f)
      let h := hitOn found
      let forward := match found with
        | some i => (vget s.me.table i).forward
        | none => false
      let answers (r : AnswerRecord) : Prop := s.me.quiet = true ∧ numAt f (typeOffset f) 2 = some 0x0806 ∧ 28 ≤ p.length ∧
        p.take 8 = [0, 1, 8, 0, 6, 4, 0, 1] ∧ r.valid = true ∧ (p.drop 24).take 4 = be32 r.ip.toNat ∧
        ∃ i k, found = some i ∧ (vget s.me.table i).answer = some k ∧ vget s.me.answers k = r
      let reply (r : AnswerRecord) : Bytes := (p.drop 8).take 6 ++ be48 r.hw.toNat ++
        (if numAt f 12 2 = some 0x8100 then (f.drop 12).take 4 else []) ++ [8, 6, 0, 1, 8, 0, 6, 4, 0, 2] ++ be48 r.hw.toNat ++
        be32 r.ip.toNat ++ (p.drop 8).take 6 ++ (p.drop 14).take 4
      let frames := s.qm.priority.length
      let bulkFrames := s.qm.bulk.length
      let bytes := (s.qm.priority.map List.length).sum + f.length
      let bulkBytes := (s.qm.bulk.map List.length).sum + f.length
      let refused (k : FaultKind) (detail : Nat) (c : Counter) (t : State) : Prop := Reports h t ∧ counted c 1 s t ∧
        t.fault k = (s.fault k).occurred false s.fu.uptime detail ∧ recordsOnly [k] s t ∧ counted Ctr.framesReceived 1 s t ∧
        changesOnly reportBlocks s t ∧ countsOnly ([Ctr.framesReceived, c] ++ reportCounters) s t
      let joins (t : State) (q : QueueManager) (c : Counter) : Prop := t.me = h.me ∧ t.qm = q ∧
        counted Ctr.framesReceived 1 s t ∧ counted c 1 s t ∧ changesOnly [.matchEngine, .queues, .counters] s t ∧
        countsOnly [Ctr.framesReceived, c] s t
      ((frame.length < 64 ∨ 1522 < frame.length) → ∃ t, exec (.homeFrameReceived frame) s = .next t ∧
        counted Ctr.lengthErrors 1 s t ∧ changesOnly [.counters] s t ∧ countsOnly [Ctr.lengthErrors] s t) ∧
      (64 ≤ frame.length → frame.length ≤ 1522 → ¬ good → ∃ t, exec (.homeFrameReceived frame) s = .next t ∧
        counted Ctr.fcsErrors 1 s t ∧ changesOnly [.counters] s t ∧ countsOnly [Ctr.fcsErrors] s t) ∧
      (64 ≤ frame.length → frame.length ≤ 1522 → good → numAt f (typeOffset f) 2 ≠ some 0x9A21 →
        (∀ r, answers r → forward = false → ∃ t, exec (.homeFrameReceived frame) s = .next t ∧ t.me = h.me ∧
          offeredTo .arpAnswer (reply r) s t ∧
          counted Ctr.framesReceived 1 s t ∧ counted Ctr.arpAnswers 1 s t ∧ counted Ctr.quietDiscarded 1 s t ∧
          changesOnly [.matchEngine, .queues, .counters] s t ∧
          countsOnly ([Ctr.framesReceived, Ctr.arpAnswers, Ctr.quietDiscarded] ++ offerCounters .arpAnswer) s t) ∧
        (∀ r, answers r → forward = true → ∃ t, exec (.homeFrameReceived frame) s = .next t ∧
          counted Ctr.framesReceived 1 s t ∧ counted Ctr.arpAnswers 1 s t ∧
          t.qm = { s.qm with priority := t.qm.priority, bulk := t.qm.bulk, fifo := s.qm.fifo ++
            (if itemBytes s.qm.fifo + (reply r).length ≤ 24576 then [{ kind := .arpAnswer, bytes := reply r }] else []) } ∧
          t.qm.priority = s.qm.priority ++
            (if s.classFor true found = .priority ∧ frames < 64 ∧ bytes ≤ 16384 then [f] else []) ∧
          t.qm.bulk = s.qm.bulk ++
            (if s.classFor true found = .bulk ∧ s.fu.power = .mains ∧ bulkFrames < 128 ∧ bulkBytes ≤ 32768 then [f] else []) ∧
          countedIf (s.classFor true found = .drop) Ctr.upDropped 1 s t ∧ changesOnly reportBlocks s t) ∧
        ((∀ r, ¬ answers r) →
          (s.classFor true found = .drop → ∃ t, exec (.homeFrameReceived frame) s = .next t ∧ t.me = h.me ∧
            counted Ctr.framesReceived 1 s t ∧ counted Ctr.upDropped 1 s t ∧ changesOnly [.matchEngine, .counters] s t ∧
            countsOnly [Ctr.framesReceived, Ctr.upDropped] s t) ∧
          (s.classFor true found = .priority → frames < 64 → bytes ≤ 16384 →
            ∃ t, exec (.homeFrameReceived frame) s = .next t ∧
              joins t { s.qm with priority := s.qm.priority ++ [f] } Ctr.priorityQueued) ∧
          (s.classFor true found = .priority → (64 ≤ frames ∨ 16384 < bytes) →
            ∃ t, exec (.homeFrameReceived frame) s = .next t ∧
              refused .priorityDrop (if 64 ≤ frames then 1 else 2) Ctr.priorityTailDrops t) ∧
          (s.classFor true found = .bulk → s.fu.power = .mains → bulkFrames < 128 → bulkBytes ≤ 32768 →
            ∃ t, exec (.homeFrameReceived frame) s = .next t ∧
              joins t { s.qm with bulk := s.qm.bulk ++ [f] } Ctr.bulkQueued) ∧
          (s.classFor true found = .bulk → s.fu.power = .mains → (128 ≤ bulkFrames ∨ 32768 < bulkBytes) →
            ∃ t, exec (.homeFrameReceived frame) s = .next t ∧
              refused .bulkDrop (if 128 ≤ bulkFrames then 1 else 2) Ctr.bulkTailDrops t) ∧
          (s.classFor true found = .bulk → s.fu.power ≠ .mains → ∃ t, exec (.homeFrameReceived frame) s = .next t ∧
            refused .bulkDrop 3 Ctr.bulkShed t)))) ∧
    (∀ c : Chan, c = 2 ∨ c = 3 →
      let t := deliver c frame s
      let found := s.matchFor false (parseFrame frame)
      let h := hitOn found
      let host := s.me.quiet = true ∧ s.param .hostAddress ≠ 0 ∧ numAt frame 0 6 = some (s.param .hostAddress)
      let runt := frame.length < 14 ∨ numAt frame 12 2 = some 0x8100 ∧ frame.length < 18
      let counts (l : List Counter) : Prop := (∀ x ∈ l, counted x 1 s t) ∧ counted (Ctr.framesDelivered c) 1 s t
      let wakes := match found with
        | some i => (vget s.me.table i).wake
        | none => false
      let forward := match found with
        | some i => (vget s.me.table i).forward
        | none => false
      (runt → counts [Ctr.downRunts] ∧ changesOnly [.counters] s t ∧
        countsOnly [Ctr.framesDelivered c, Ctr.downRunts] s t) ∧
      (1518 < frame.length → counts [Ctr.downOversize] ∧ changesOnly [.counters] s t ∧
        countsOnly [Ctr.framesDelivered c, Ctr.downOversize] s t) ∧
      (¬ runt → frame.length ≤ 1518 →
        (¬ host → s.classFor false found = .drop → t.me = h.me ∧ counts [Ctr.downDropped] ∧
          changesOnly [.matchEngine, .counters] s t ∧ countsOnly [Ctr.framesDelivered c, Ctr.downDropped] s t) ∧
        (¬ host → s.classFor false found ≠ .drop → t.me = h.me ∧ counts [] ∧ offeredTo .delivered frame s t ∧
          changesOnly [.matchEngine, .queues, .counters] s t ∧
          countsOnly (Ctr.framesDelivered c :: offerCounters .delivered) s t) ∧
        (host → wakes = true → t.me = { h.me with wake := true } ∧ counts [Ctr.wakeFrames] ∧
          countedIf (s.me.wake = false) Ctr.wakes 1 s t ∧
          (forward = true → offeredTo .delivered frame s t ∧
            countsOnly ([Ctr.framesDelivered c, Ctr.wakeFrames, Ctr.wakes] ++ offerCounters .delivered) s t) ∧
          (forward = false → counted Ctr.quietDiscarded 1 s t ∧ t.qm = s.qm ∧
            countsOnly [Ctr.framesDelivered c, Ctr.wakeFrames, Ctr.wakes, Ctr.quietDiscarded] s t) ∧
          changesOnly [.matchEngine, .queues, .counters] s t) ∧
        (host → wakes = false → t.me = h.me ∧ counts [Ctr.quietDiscarded] ∧ changesOnly [.matchEngine, .counters] s t ∧
          countsOnly [Ctr.framesDelivered c, Ctr.quietDiscarded] s t)))

/-- HOME_ITEM_SENT with an item in the downstream FIFO (R91): it leaves padded to 60 bytes with its check sequence, and the local list
drains into the room: its notices join in order until the list is empty or the head's notice does not fit, or none where the part is
quiet (R92, R177). -/
def Obligations.HomeItemsLeaveInOrder : Prop :=
  ∀ (s : State) (i : FifoItem) (rest : List FifoItem), s.qm.homeUp = true → s.qm.fifo = i :: rest →
    ∃ t, exec .homeItemSent s = .next t ∧
      (let padded := i.bytes ++ List.replicate (60 - i.bytes.length) 0
       t.out = { s.out with home := s.out.home ++ [padded ++ fcsBytes padded] }) ∧
      t.qm = { s.qm with fifo := rest ++ noticesJoined s t } ∧ Drained rest s t ∧ counted (Ctr.itemsSent i.kind) 1 s t ∧
      changesOnly [.queues, .faults, .counters, .outputs] s t ∧
      countsOnly [Ctr.itemsSent i.kind, Ctr.locNoticesQueued, Ctr.noticeDeclined] s t

/-- HOME_LINK_UP (R73, R92, R177) drains the local list: its notices join the FIFO in order until the list is empty or the head's notice
does not fit, or none where the part is quiet; HOME_LINK_DOWN (R73, R93) discards every item of the FIFO, each counted under
its kind. That a HOME_LINK_UP with the link already up keeps the FIFO and offers again is the model's choice (log entry 12). -/
def Obligations.HomeLinkChanges : Prop :=
  ∀ s : State,
    (∃ t, exec .homeLinkUp s = .next t ∧
      t.qm = { s.qm with homeUp := true, fifo := s.qm.fifo ++ noticesJoined s t } ∧ Drained s.qm.fifo s t ∧ changesOnly [.queues, .faults, .counters] s t ∧
      countsOnly [Ctr.locNoticesQueued, Ctr.noticeDeclined] s t) ∧
    (∃ t, exec .homeLinkDown s = .next t ∧ t.qm = { s.qm with homeUp := false, fifo := [] } ∧
      (∀ k, s.counter (Ctr.lostLinkDown k) ≤ Config.max32 →
        counted (Ctr.lostLinkDown k) (s.qm.fifo.countP (·.kind == k)) s t) ∧
      changesOnly [.queues, .counters] s t ∧
      countsOnly [Ctr.lostLinkDown .delivered, Ctr.lostLinkDown .localReply, Ctr.lostLinkDown .localNotice,
        Ctr.lostLinkDown .arpAnswer] s t)

/-! ## Phone ports -/

/-- LOOP_CHANGE closing the loop of an IDLE port (R100, R104, R151) with the line CARRYING, no call to join, a FREE slot and the bound
of R57 met: the lowest FREE slot is ORIGINATING with the port attached, and its SEIZE is queued. -/
def Obligations.OffHookOriginatesACall : Prop :=
  ∀ (s : State) (p : Port) (n : Slot), (s.port p).state = .idle → (s.port p).closed = false → (s.port p).inRingOn = false →
    s.joinSlot = none → s.ls.link = .carrying → s.lowestFree = some n → (s.call n).signals.length < 8 →
    (s.reserved + 1) * s.lbu.size.voiceBlocks + 1 + s.lbu.floor ≤ s.lbu.sustained →
    ∃ t, exec (.loopChange p) s = .next t ∧
      t.port p = { s.port p with state := .inCall, closed := true, differ := 0, trip := 0, capture := (s.port p).measure,
                                 measure := 0, compare := none } ∧
      t.port p.other = s.port p.other ∧ t.ppu.pair = s.ppu.pair ∧ t.ppu.cadences = s.ppu.cadences ∧
      t.cc.stamp = min (s.cc.stamp + 1) Config.max32 ∧
      t.call n = { s.call n with state := .originating, attached := (s.call n).attached.put p true, dir := .out,
                                 stamp := t.cc.stamp, start := s.fu.uptime, sent := 0, received := 0, endCause := none,
                                 signals := (s.call n).signals ++ [.seize p] } ∧
      t.call n.other = s.call n.other ∧ t.media n = (s.media n).change (t.call n).mediaState ∧
      (t.mediaPort p).dcIn = 0 ∧ (t.mediaPort p).dcOut = 0 ∧
      counted (Ctr.offHooks p) 1 s t ∧ counted Ctr.admissionsGranted 1 s t ∧ counted Ctr.callsOriginated 1 s t ∧
      changesOnly [.phones, .calls, .media, .counters] s t ∧
      countsOnly [Ctr.offHooks p, Ctr.admissionsGranted, Ctr.callsOriginated, Ctr.staleVoice] s t

/-- LOOP_CHANGE on a port IN_CALL (R100, R101): opening the loop arms the on-hook compare; closing it after 20 to 120 ms is a dial
pulse, after at most 19 ms a glitch. -/
def Obligations.LoopOpensAndPulsesInACall : Prop :=
  ∀ (s : State) (p : Port), (s.port p).state = .inCall → (s.port p).inRingOn = false →
    ((s.port p).closed = true → ∃ t, exec (.loopChange p) s = .next t ∧
      t.port p = { s.port p with closed := false, differ := 0, trip := 0, capture := (s.port p).measure, measure := 0,
                                 compare := some { kind := .onHook, value := s.param .flashMaximum + 1 } } ∧
      t.port p.other = s.port p.other ∧ changesOnly [.phones] s t) ∧
    ((s.port p).closed = false → 20 ≤ (s.port p).measure → (s.port p).measure ≤ 120 →
      ∃ t, exec (.loopChange p) s = .next t ∧
      t.port p = { s.port p with closed := true, differ := 0, trip := 0, capture := (s.port p).measure, measure := 0,
                                 pulses := min ((s.port p).pulses + 1) 255,
                                 compare := some { kind := .interdigit, value := s.param .interdigitTime } } ∧
      t.port p.other = s.port p.other ∧ counted (Ctr.dialPulses p) 1 s t ∧ changesOnly [.phones, .counters] s t ∧
      countsOnly [Ctr.dialPulses p] s t) ∧
    ((s.port p).closed = false → (s.port p).measure ≤ 19 → ∃ t, exec (.loopChange p) s = .next t ∧
      (t.port p).closed = true ∧ (t.port p).pulses = (s.port p).pulses ∧ t.port p.other = s.port p.other ∧
      counted (Ctr.loopGlitches p) 1 s t ∧ changesOnly [.phones, .counters] s t ∧ countsOnly [Ctr.loopGlitches p] s t)

/-- INTERDIGIT on a port IN_CALL whose interdigit compare is armed (R103, R159): 1 to 10 pulses are a digit of its call, 10 pulses the
digit 0; more are a bad digit. -/
def Obligations.InterdigitMakesADigit : Prop :=
  ∀ (s : State) (p : Port) (n : Slot) (value : Nat), (s.port p).state = .inCall →
    (s.port p).compare = some { kind := .interdigit, value := value } → s.slotOf p = some n →
    ((1 ≤ (s.port p).pulses ∧ (s.port p).pulses ≤ 10) → (s.call n).signals.length < 8 →
      ∃ t, exec (.interdigit p) s = .next t ∧ t.port p = { s.port p with compare := none, pulses := 0 } ∧
      t.call n = { s.call n with signals := (s.call n).signals ++
        [.digit (if (s.port p).pulses = 10 then 0 else (s.port p).pulses)] } ∧
      t.call n.other = s.call n.other ∧ t.port p.other = s.port p.other ∧ counted (Ctr.digits p) 1 s t ∧
      changesOnly [.phones, .calls, .counters] s t ∧ countsOnly [Ctr.digits p] s t) ∧
    (11 ≤ (s.port p).pulses → ∃ t, exec (.interdigit p) s = .next t ∧
      t.port p = { s.port p with compare := none, pulses := 0 } ∧ t.port p.other = s.port p.other ∧
      counted (Ctr.badDigits p) 1 s t ∧ changesOnly [.phones, .counters] s t ∧ countsOnly [Ctr.badDigits p] s t)

/-- RING_TRIP in a ring-on segment of a port that rings alone (R99, R106, R154): the call is CONNECTED with the port attached, its ring
set empty and its alert limit stopped, its cadence 0 and its group flag clear (log entry 21), and its ANSWER is queued. -/
def Obligations.RingTripAnswersTheCall : Prop :=
  ∀ (s : State) (p : Port) (n : Slot), (s.port p).state = .ringing → (s.port p).inRingOn = true →
    s.ppu.pair = .apart → s.ringSlotOf p = some n → (s.call n).ringSet.put p false = { a := false, b := false } →
    (s.call n).signals.length < 8 →
    ∃ t, exec (.ringTrip p) s = .next t ∧
      t.port p = { s.port p with state := .inCall, closed := true, differ := 0, trip := 0, capture := (s.port p).measure,
                                 measure := 0, compare := none, chan := none } ∧
      t.port p.other = s.port p.other ∧
      t.call n = { s.call n with state := .connected, attached := (s.call n).attached.put p true,
                                 ringSet := { a := false, b := false }, alert := none, cadence := 0, group := false,
                                 signals := (s.call n).signals ++ [.answer p] } ∧
      t.call n.other = s.call n.other ∧ t.media n = (s.media n).change (t.call n).mediaState ∧
      counted (Ctr.answers p) 1 s t ∧ counted Ctr.callsAnswered 1 s t ∧
      changesOnly [.phones, .calls, .media, .counters] s t ∧
      countsOnly [Ctr.answers p, Ctr.callsAnswered, Ctr.staleVoice] s t

/-- ON_HOOK at the last port of a call while the other slot is in use (R102, R111, R159, R146, R59): the port is IDLE and silent, the
slot FREE with a CLEAR(NORMAL) behind its other signals, and a data floor that waited takes effect where the bound now holds. That the
FREE slot's cadence is 0 and its group flag clear is log entry 21, and what its playout returns to is log entry 49. -/
def Obligations.LastOnHookEndsTheCall : Prop :=
  ∀ (s : State) (p : Port) (n : Slot) (value : Nat), (s.port p).state = .inCall →
    (s.port p).compare = some { kind := .onHook, value := value } → s.slotOf p = some n →
    (s.call n).attached.put p false = { a := false, b := false } → (s.call n).state ≠ .free →
    (s.call n.other).state ≠ .free → (s.call n).signals.length < 8 →
    ∃ t, exec (.onHook p) s = .next t ∧
      t.port p = { s.port p with state := .idle, compare := none, pulses := 0, park := none, chan := none, tone := none,
                                 trip := 0 } ∧
      t.port p.other = s.port p.other ∧
      t.call n = { s.call n with state := .free, held := false, attached := { a := false, b := false },
                                 ringSet := { a := false, b := false }, cadence := 0, group := false, alert := none,
                                 endCause := some .normal,
                                 mark := (s.call n).mark || (s.ls.link == .riding || s.ls.link == .retraining),
                                 signals := (s.call n).signals ++ [.clear .normal] } ∧
      t.call n.other = s.call n.other ∧ t.media n = (s.media n).change .off ∧
      t.lbu = (match s.lbu.pendingFloor with
        | some d => if s.ls.link = .carrying ∧ s.lbu.size.voiceBlocks + 1 + d ≤ s.lbu.sustained then
            { s.lbu with floor := d, pendingFloor := none } else s.lbu
        | none => s.lbu) ∧
      counted (Ctr.onHooks p) 1 s t ∧
      changesOnly [.budget, .phones, .calls, .media, .counters] s t ∧
      countsOnly [Ctr.onHooks p, Ctr.digitsAbandoned p, Ctr.staleVoice] s t

/-- PARK when a port's park count runs (R109, R110): the port is PARKED and silent; PORT_PARKED becomes active if no other port was
PARKED. -/
def Obligations.ParkTimeParksThePort : Prop :=
  ∀ (s : State) (p : Port), ((s.port p).state = .released ∨ (s.port p).state = .localTone) → (s.port p).park ≠ none →
    ∃ t, exec (.park p) s = .next t ∧
      t.port p = { s.port p with state := .parked, chan := none, tone := none, park := none, trip := 0 } ∧
      t.port p.other = s.port p.other ∧ t.ppu.pair = s.ppu.pair ∧ t.ppu.cadences = s.ppu.cadences ∧ t.mdu = s.mdu ∧
      t.fault .portParked = (if (s.port p.other).state = .parked then s.fault .portParked
        else reported .portParked (if p = .a then 1 else 2) s.fu.uptime (s.fault .portParked)) ∧
      recordsOnly [.portParked] s t ∧ Reports s t ∧ counted (Ctr.parks p) 1 s t ∧
      changesOnly (.phones :: reportBlocks) s t ∧ countsOnly (Ctr.parks p :: reportCounters) s t

/-- CADENCE_SEGMENT_END (R115, R116, R121, R139): a tone turns from on to off and back, its phase at 0 as it comes on; a ring channel
of a port that rings alone steps to the next segment, if that is not empty. -/
def Obligations.CadencesStep : Prop :=
  ∀ (s : State) (p : Port) (c : CadenceChannel), (s.port p).chan = some c →
    (∀ k ms, c.mode = .tone k → k.times = some ms → c.endAt ≠ none → ∃ t, exec (.cadenceSegmentEnd p) s = .next t ∧
      t.port p = { s.port p with trip := 0, chan := some { mode := .tone k, pos := if c.on then 2 else 1, on := !c.on,
                                                           endAt := some ms, count := 0 } } ∧
      t.mediaPort p = { s.mediaPort p with phase := if c.on then (s.mediaPort p).phase else 0 } ∧
      t.port p.other = s.port p.other ∧ t.mediaPort p.other = s.mediaPort p.other ∧ changesOnly [.phones, .media] s t) ∧
    (∀ (cad pos : Fin 8), c.mode = .ring cad → s.ppu.pair = .apart → c.pos = pos.val →
      vget (vget s.ppu.cadences cad).durations pos ≠ 0 → ∃ t, exec (.cadenceSegmentEnd p) s = .next t ∧
      (t.port p).chan = some { mode := .ring cad, pos := pos.val + 1, on := pos.val % 2 == 0,
                               endAt := some (10 * vget (vget s.ppu.cadences cad).durations pos), count := 0 } ∧
      t.port p = { s.port p with chan := (t.port p).chan, trip := 0,
                                 differ := if pos.val % 2 = 0 then 0 else (s.port p).differ } ∧
      t.port p.other = s.port p.other ∧ changesOnly [.phones] s t)

/-- ALERT_LIMIT_EXPIRY of an ALERTING slot whose ringing ports are not lifted (R156, R107, R146): its ports stop ringing, the slot is
FREE with cause NO_ANSWER and its CLEAR is queued. The other slot is in use, so that nothing is reported to the Line Supervisor. That
the FREE slot's cadence is 0 and its group flag clear is log entry 21, and what its playout returns to is log entry 49. -/
def Obligations.AlertLimitEndsTheCall : Prop :=
  ∀ (s : State) (n : Slot), (s.call n).state = .alerting → (s.call n).alert ≠ none → (s.call n.other).state ≠ .free →
    s.ppu.pair = .apart → (∀ p, (s.call n).ringSet.has p = true → (s.port p).closed = false) →
    (s.call n).signals.length < 8 → s.lbu.pendingFloor = none →
    ∃ t, exec (.alertLimitExpiry n) s = .next t ∧
      t.call n = { s.call n with state := .free, held := false, attached := { a := false, b := false },
                                 ringSet := { a := false, b := false }, cadence := 0, group := false, alert := none,
                                 endCause := some .noAnswer,
                                 mark := (s.call n).mark || (s.ls.link == .riding || s.ls.link == .retraining),
                                 signals := (s.call n).signals ++ [.clear .noAnswer] } ∧
      t.call n.other = s.call n.other ∧ t.media n = (s.media n).change .off ∧
      (∀ p, t.port p = if (s.call n).ringSet.has p = true ∧ (s.port p).state = .ringing then
        { s.port p with state := .idle, chan := none, tone := none, park := none, trip := 0 } else s.port p) ∧
      counted Ctr.alertsUnanswered 1 s t ∧ changesOnly [.phones, .calls, .media, .counters] s t ∧
      countsOnly [Ctr.alertsUnanswered, Ctr.staleVoice] s t

/-- TEST_PHASE_EXPIRY (R198, R199, R200): in the RING phase the test ends NOT_ANSWERED with its result on the way to the authority
that asked; in the ECHO phase the test tone follows. -/
def Obligations.TestPhasesEnd : Prop :=
  ∀ (s : State) (x : PortTest), s.tr.test = some x → x.timer ≠ none →
    (x.phase = .ring → ∃ t, exec .testPhaseExpiry s = .next t ∧ t.tr = { s.tr with test := none } ∧
      t.port x.port = { s.port x.port with state := .idle, chan := none, tone := none, park := none, trip := 0 } ∧
      t.port x.port.other = s.port x.port.other ∧ counted Ctr.testResultsSent 1 s t ∧
      (let msg : Bytes := [1, 0x91] ++ be16 x.tag.toNat ++ be16 7 ++
        [if x.port = .a then 1 else 2, if x.kind = .ring then 1 else 2, 2] ++ be32 0
       let frame := etherFrame (s.du.manager.getD (BitVec.allOnes 48)) (BitVec.ofNat 48 (s.param .ownAddress)) 0x9A21 msg
       t.qm = match x.auth with
        | .exch => { s.qm with replies := s.qm.replies ++ (if s.qm.replies.length < 4 then [msg] else []) }
        | .loc => { s.qm with fifo := s.qm.fifo ++
            (if s.qm.homeUp = true ∧ itemBytes s.qm.fifo + frame.length ≤ 24576 then
              [{ kind := .localReply, bytes := frame }] else []) }) ∧
      changesOnly [.phones, .tests, .queues, .counters] s t ∧
      countsOnly [Ctr.testResultsSent, Ctr.testResultsLost, Ctr.fifoFull .localReply, Ctr.lostLinkDown .localReply] s t) ∧
    (x.phase = .echo → ∃ t, exec .testPhaseExpiry s = .next t ∧
      t.tr = { s.tr with test := some { x with phase := .tone, timer := none, line := [] } } ∧
      t.port x.port = { s.port x.port with
        tone := some .test, trip := 0, chan := some { mode := .tone .test, pos := 1, on := true, endAt := none, count := 0 } } ∧
      (t.mediaPort x.port).phase = 0 ∧ t.port x.port.other = s.port x.port.other ∧ changesOnly [.phones, .media, .tests] s t)

/-! ## Power -/

/-- POWER_STATE_CHANGE (R180, R181, R182, R87, R178): the two inputs take their values, the differ count of an input that changes
returns to 0 and that of the other stays; the power state follows; no further effect where it is the same; leaving
MAINS with at most one port holding the ringer, the Bulk queue is emptied and MAINS_LOST becomes active; from BATTERY to LOW the
dying gasp is claimed once, in CARRYING. That both inputs changing at once are one change is log entry 44. -/
def Obligations.PowerFollowsItsInputs : Prop :=
  ∀ (s : State) (mains low : Bool),
    let new : PowerState := if mains = true then .mains else if low = true then .low else .battery
    ∃ t, exec (.powerStateChange mains low) s = .next t ∧
      t.fu.power = new ∧ t.fu.mains = mains ∧ t.fu.batteryLow = low ∧ t.fu.uptime = s.fu.uptime ∧
      t.fu.mainsDiffer = (if mains = s.fu.mains then s.fu.mainsDiffer else 0) ∧
      t.fu.batteryDiffer = (if low = s.fu.batteryLow then s.fu.batteryDiffer else 0) ∧
      (s.fu.power = new → t.fu = { s.fu with mains := mains, mainsDiffer := t.fu.mainsDiffer, batteryLow := low,
                                             batteryDiffer := t.fu.batteryDiffer } ∧ changesOnly [.faults] s t) ∧
      (s.fu.power ≠ new → counted Ctr.powerChanges 1 s t) ∧
      (s.fu.power = .mains → new ≠ .mains → (s.holdsRinger .a = false ∨ s.holdsRinger .b = false) →
        t.qm.bulk = [] ∧ t.qm = { s.qm with bulk := [], fifo := t.qm.fifo } ∧ t.fu.since = s.fu.uptime ∧
        t.fault .mainsLost = reported .mainsLost (if new = .low then 3 else 2) s.fu.uptime (s.fault .mainsLost) ∧
        t.fault .bulkDrop = (if s.qm.bulk = [] then s.fault .bulkDrop
          else (s.fault .bulkDrop).occurred false s.fu.uptime 4) ∧
        recordsOnly [.mainsLost, .batteryLow, .bulkDrop] s t ∧ changesOnly (.framer :: .budget :: reportBlocks) s t) ∧
      (s.fu.power = .battery → new = .low →
        t.lbu = { s.lbu with urgent := s.lbu.urgent || (s.ls.link == .carrying && !s.fu.gaspSent) } ∧
        t.fu.gaspSent = (s.fu.gaspSent || s.ls.link == .carrying) ∧ recordsOnly [.batteryLow] s t ∧
        changesOnly (.budget :: reportBlocks) s t) ∧
      (s.fu.power = .battery → new = .mains →
        t.fault .mainsLost = { s.fault .mainsLost with active := false } ∧ recordsOnly [.mainsLost] s t ∧
        changesOnly [.faults, .counters] s t)

/-! ## Directives -/

/-- READ_TABLE, READ_STATUS and READ_PARAM from either authority (R209, R210, R214): the reply carries the entries, the record or the
value as they stand when the directive has arrived (its own receipt is counted by then), and nothing else happens; an index or an
identifier outside its range is refused with BAD_INDEX. -/
def Obligations.ReadsAnswerFromTheState : Prop :=
  ∀ (sender : Sender) (tag : Half) (s : State), accepts sender s →
    (∀ (table first count : Byte) (lo hi : Nat),
      (table.toNat, lo, hi) ∈ [(1, 0, 7), (2, 0, 7), (3, 0, 31), (4, 0, 3), (5, 1, 20), (6, 0, 1), (7, 0, 59), (8, 0, 175)] →
      (lo ≤ first.toNat ∧ first.toNat ≤ hi → ∃ t, exec (.readTable sender tag table first count) s = .next t ∧
        let n := min (max 1 (min count.toNat 8)) (hi + 1 - first.toNat)
        onlyAnswered sender 1 tag .done ([table, first, byteOf n] ++
          (List.range n).flatMap fun i => (arrived sender s).entryBytes table.toNat (first.toNat + i)) s t) ∧
      (first.toNat < lo ∨ hi < first.toNat → ∃ t, exec (.readTable sender tag table first count) s = .next t ∧
        onlyAnswered sender 1 tag .badIndex [] s t)) ∧
    (∃ t, exec (.readStatus sender tag) s = .next t ∧
      onlyAnswered sender 3 tag .done (arrived sender s).statusRecord s t) ∧
    (∀ ident : Byte, ∃ t, exec (.readParam sender tag ident) s = .next t ∧
      match Param.ofIdent ident.toNat with
      | some p => onlyAnswered sender 4 tag .done ([ident] ++ be48 (s.param p)) s t
      | none => onlyAnswered sender 4 tag .badIndex [] s t)

/-- WRITE_TABLE_PROFILE and WRITE_TABLE_CADENCE from the exchange (R24, R114, R205): the entry is replaced whole, its numbers clamped,
and the reply returns it as stored; the refusals leave the table as it was. -/
def Obligations.ExchangeWritesReplaceEntries : Prop :=
  ∀ (tag : Half) (index : Byte) (s : State), accepts .exch s →
    (∀ e : ProfileImage,
      let c : Instr := .writeTableProfile .exch tag index e
      let codesGood := (e.valid = 0 ∨ e.valid = 1) ∧ e.blockSize.toNat ≤ 2
      let busy := (s.ls.link = .training ∨ s.ls.link = .retraining) ∧ index.toNat = s.ls.rung.val
      let last := e.valid = 0 ∧ ∀ j : Fin 8, j.val = index.toNat ∨ (vget s.ls.profile j).valid = false
      (8 ≤ index.toNat → ∃ t, exec c s = .next t ∧ onlyAnswered .exch 2 tag .badIndex [] s t) ∧
      (index.toNat < 8 → ¬ codesGood → ∃ t, exec c s = .next t ∧ onlyAnswered .exch 2 tag .badValue [] s t) ∧
      (index.toNat < 8 → codesGood → busy → ¬ last → ∃ t, exec c s = .next t ∧ onlyAnswered .exch 2 tag .busy [] s t) ∧
      (index.toNat < 8 → codesGood → ¬ busy → (vget s.ls.profile (Fin.ofNat 8 index.toNat)).valid = true → last →
        ∃ t, exec c s = .next t ∧ onlyAnswered .exch 2 tag .badValue [] s t) ∧
      (index.toNat < 8 → codesGood → ¬ busy → ¬ last → ∃ t, exec c s = .next t ∧
        let r : Rung :=
          { valid := e.valid == 1, cap := max 32 (min e.rateCap.toNat 16383),
            size := if e.blockSize = 0 then .b32 else if e.blockSize = 1 then .b64 else .b128,
            eff := max 256 (min e.efficiency.toNat 512), minMargin := max (-100) (min e.minMargin.toInt 300) }
        t.ls = { s.ls with profile := vset s.ls.profile (Fin.ofNat 8 index.toNat) r } ∧
        Replied .exch 2 tag .done ([1, index] ++ r.bytes) s t ∧
        countedIf (r.cap ≠ e.rateCap.toNat ∨ r.eff ≠ e.efficiency.toNat ∨ r.minMargin ≠ e.minMargin.toInt)
          Ctr.paramsClamped 1 s t ∧
        changesOnly [.supervisor, .queues, .counters] s t ∧
        countsOnly (Ctr.paramsClamped :: answerCounters .exch .done) s t)) ∧
    (∀ (durations : List Half) (rep : Byte), durations.length = 8 →
      let c : Instr := .writeTableCadence .exch tag index durations rep
      (8 ≤ index.toNat → ∃ t, exec c s = .next t ∧ onlyAnswered .exch 2 tag .badIndex [] s t) ∧
      (index.toNat < 8 → rep ≠ 0 → rep ≠ 1 → ∃ t, exec c s = .next t ∧ onlyAnswered .exch 2 tag .badValue [] s t) ∧
      (index.toNat < 8 → (rep = 0 ∨ rep = 1) → ∃ t, exec c s = .next t ∧
        let stored := durations.map fun d => min d.toNat 800
        t.ppu = { s.ppu with cadences := t.ppu.cadences } ∧
        (∀ j : Fin 8, vget t.ppu.cadences j = if j.val = index.toNat then
          { durations := Vector.ofFn fun i : Fin 8 => stored.getD i.val 0, rep := rep == 1 }
          else vget s.ppu.cadences j) ∧
        Replied .exch 2 tag .done ([2, index] ++ stored.flatMap be16 ++ [rep]) s t ∧
        countedIf (∃ d ∈ durations, 800 < d.toNat) Ctr.paramsClamped 1 s t ∧
        changesOnly [.phones, .queues, .counters] s t ∧
        countsOnly (Ctr.paramsClamped :: answerCounters .exch .done) s t))

/-- WRITE_TABLE_MATCH and WRITE_TABLE_ANSWER from the local authority (R81, R191): the entry is replaced whole, a Match entry's hit
count set to 0 and its DSCP clamped to 63, and the reply returns it as stored; the refusals leave the tables as they were. -/
def Obligations.LocalWritesReplaceEntries : Prop :=
  ∀ (source : Mac) (tag : Half) (index : Byte) (s : State),
    (∀ e : MatchImage,
      let c : Instr := .writeTableMatch (.loc source) tag index e
      let dir := directionOf (e.codes.toNat / 64)
      let cls := classOf (e.codes.toNat / 16 % 4)
      let rec_ := e.codes.toNat % 8
      let codesGood := dir ≠ none ∧ cls ≠ none ∧ (rec_ < 4 ∨ rec_ = 7)
      (32 ≤ index.toNat → ∃ t, exec c s = .next t ∧ onlyAnswered (.loc source) 2 tag .badIndex [] s t) ∧
      (index.toNat < 32 → ¬ codesGood → ∃ t, exec c s = .next t ∧ onlyAnswered (.loc source) 2 tag .badValue [] s t) ∧
      (index.toNat < 32 → codesGood → ∃ t, exec c s = .next t ∧
        let m : MatchEntry :=
          { valid := e.flags.getLsbD 0, wake := e.flags.getLsbD 1, forward := e.flags.getLsbD 2, dscpAny := e.flags.getLsbD 3,
            dir := dir, cls := cls, answer := if rec_ < 4 then some (Fin.ofNat 4 rec_) else none, dest := e.dest, src := e.src,
            typeValue := e.typeValue, protocol := e.protocol, dscp := min e.dscp.toNat 63, ip := e.ip, low := e.low.toNat,
            high := e.high.toNat, hits := 0 }
        t.me = { s.me with table := vset s.me.table (Fin.ofNat 32 index.toNat) m } ∧ t.du = seenBy (.loc source) s.du ∧
        Replied (.loc source) 2 tag .done ([3, index] ++ m.bytes) s t ∧
        countedIf (63 < e.dscp.toNat) Ctr.paramsClamped 1 s t ∧
        changesOnly [.directives, .matchEngine, .queues, .counters] s t ∧
        countsOnly (Ctr.paramsClamped :: answerCounters (.loc source) .done) s t)) ∧
    (∀ (valid : Byte) (hw : Mac) (ip : Ip),
      let c : Instr := .writeTableAnswer (.loc source) tag index valid hw ip
      (4 ≤ index.toNat → ∃ t, exec c s = .next t ∧ onlyAnswered (.loc source) 2 tag .badIndex [] s t) ∧
      (index.toNat < 4 → valid ≠ 0 → valid ≠ 1 → ∃ t, exec c s = .next t ∧
        onlyAnswered (.loc source) 2 tag .badValue [] s t) ∧
      (index.toNat < 4 → (valid = 0 ∨ valid = 1) → ∃ t, exec c s = .next t ∧
        let record : AnswerRecord := { valid := valid == 1, hw := hw, ip := ip }
        t.me = { s.me with answers := vset s.me.answers (Fin.ofNat 4 index.toNat) record } ∧
        t.du = seenBy (.loc source) s.du ∧
        Replied (.loc source) 2 tag .done ([4, index, valid] ++ be48 hw.toNat ++ be32 ip.toNat) s t ∧
        changesOnly [.directives, .matchEngine, .queues, .counters] s t ∧
        countsOnly (answerCounters (.loc source) .done) s t))

/-- WRITE_TABLE_FAULT (R172) sets the writer's level of one kind, clamped into its range, a level of 0 removing the writer's pending
item of the kind; CLEAR_FAULT (R173) clears the requester's latch and, when asked, the counts, of records that are not
active. -/
def Obligations.LevelsAndLatchesAreTheRequesters : Prop :=
  ∀ (sender : Sender) (tag : Half) (s : State), accepts sender s →
    let mine := senderAuthority sender
    (∀ index level : Byte,
      let c : Instr := .writeTableFault sender tag index level
      (FaultKind.ofNumber index.toNat = none → ∃ t, exec c s = .next t ∧ onlyAnswered sender 2 tag .badIndex [] s t) ∧
      (∀ k, FaultKind.ofNumber index.toNat = some k → ∃ t, exec c s = .next t ∧
        let stored := max (k.levelRule mine).2.1 (min level.toNat (k.levelRule mine).2.2)
        let list (u : State) := match mine with
          | .loc => u.fu.locList
          | .exch => u.fu.exchList
        (t.fault k = match mine with
          | .loc => { s.fault k with locLevel := stored }
          | .exch => { s.fault k with exchLevel := stored }) ∧
        recordsOnly [k] s t ∧ list t = (if stored = 0 then (list s).filter (fun i => i.kind != k) else list s) ∧
        (t.fu = match mine with
          | .loc => { s.fu with records := t.fu.records, locList := list t }
          | .exch => { s.fu with records := t.fu.records, exchList := list t }) ∧
        t.du = seenBy sender s.du ∧ Replied sender 2 tag .done ([5, index] ++ faultBytes k (t.fault k)) s t ∧
        countedIf (stored ≠ level.toNat) Ctr.paramsClamped 1 s t ∧
        (∀ ch : Chan, ch ≠ 15 → t.chan ch = s.chan ch) ∧ (stored ≠ 0 → t.bf = s.bf) ∧
        changesOnly [.directives, .framer, .faults, .queues, .counters] s t)) ∧
    (∀ kind flag : Byte,
      let c : Instr := .clearFault sender tag kind flag
      let cleared (r : FaultRecord) : FaultRecord :=
        let r : FaultRecord := match mine with
          | .loc => { r with locLatch := false }
          | .exch => { r with exchLatch := false }
        if flag = 1 then { r with count := 0, first := 0, last := 0, detail := 0 } else r
      (flag ≠ 0 ∧ flag ≠ 1 ∨ kind ≠ 0 ∧ FaultKind.ofNumber kind.toNat = none → ∃ t, exec c s = .next t ∧
        onlyAnswered sender 6 tag .badValue [] s t) ∧
      ((flag = 0 ∨ flag = 1) → kind = 0 → ∃ t, exec c s = .next t ∧
        (∀ k, t.fault k = if (s.fault k).active = true then s.fault k else cleared (s.fault k)) ∧
        t.fu = { s.fu with records := t.fu.records } ∧ t.du = seenBy sender s.du ∧
        Replied sender 6 tag .done [0, byteOf (FaultKind.all.countP fun k => (s.fault k).active)] s t ∧
        changesOnly [.directives, .faults, .queues, .counters] s t ∧ countsOnly (answerCounters sender .done) s t) ∧
      ((flag = 0 ∨ flag = 1) → ∀ k, FaultKind.ofNumber kind.toNat = some k → (s.fault k).active = true →
        ∃ t, exec c s = .next t ∧ onlyAnswered sender 6 tag .stillActive [kind, 1] s t) ∧
      ((flag = 0 ∨ flag = 1) → ∀ k, FaultKind.ofNumber kind.toNat = some k → (s.fault k).active = false →
        ∃ t, exec c s = .next t ∧ t.fault k = cleared (s.fault k) ∧ recordsOnly [k] s t ∧
        t.fu = { s.fu with records := t.fu.records } ∧ t.du = seenBy sender s.du ∧
        Replied sender 6 tag .done [kind, 0] s t ∧
        changesOnly [.directives, .faults, .queues, .counters] s t ∧ countsOnly (answerCounters sender .done) s t))

/-- WRITE_PARAM (R209, R59): from its owner a numeric parameter is clamped and stored, a coded one is stored if the value is a code,
an address as it is; the reply carries the value stored. Only a written data floor touches anything else: in
CARRYING it acts or becomes pending, outside it replaces a pending one. That the reply to a write of
the own address has the new address as its source is log entry 17. -/
def Obligations.ParametersAreStoredAndClamped : Prop :=
  ∀ (sender : Sender) (tag : Half) (ident : Byte) (value : BitVec 48) (s : State), accepts sender s →
    (Param.ofIdent ident.toNat = none → ∃ t, exec (.writeParam sender tag ident value) s = .next t ∧
      onlyAnswered sender 5 tag .badIndex [] s t) ∧
    (∀ p, Param.ofIdent ident.toNat = some p → p.owner = senderAuthority sender →
      let v := value.toNat
      ((∃ codes, p.rule = .coded codes ∧ v ∉ codes) → ∃ t, exec (.writeParam sender tag ident value) s = .next t ∧
        onlyAnswered sender 5 tag .badValue [] s t) ∧
      ((∀ codes, p.rule = .coded codes → v ∈ codes) → ∃ t, exec (.writeParam sender tag ident value) s = .next t ∧
        let w := match p.rule with
          | .number lo hi => max lo (min v hi)
          | .coded _ | .address => v
        (∀ q, t.param q = if q = p then w else s.param q) ∧ t.du = { seenBy sender s.du with params := t.du.params } ∧
        Replied sender 5 tag .done ([ident] ++ be48 w) s t ∧ countedIf (w ≠ v) Ctr.paramsClamped 1 s t ∧
        t.lbu = (if p ≠ .dataFloor then s.lbu
          else if s.ls.link ≠ .carrying then
            { s.lbu with pendingFloor := if s.lbu.pendingFloor = none then none else some w }
          else if s.reserved = 0 ∨ s.reserved * s.lbu.size.voiceBlocks + 1 + w ≤ s.lbu.sustained then
            { s.lbu with floor := w, pendingFloor := none }
          else { s.lbu with pendingFloor := some w }) ∧
        changesOnly [.directives, .budget, .queues, .counters] s t ∧
        countsOnly (Ctr.paramsClamped :: answerCounters sender .done) s t))

/-- What an authority does not own it is refused with NOT_OWNER (R206, R207): a table (whatever the entry holds), a parameter, loopback
for the local authority, quiet for the exchange. The refusal is counted and recorded as DIRECTIVE_REFUSED with the authority and
the table in its detail, and its items enter the pending lists by their levels. Beside this report (with the notices that it gives
rise to and the wake pin) and the reply, nothing changes. The local list is stated with no item on offer, so that none leaves for
the FIFO (R177). That a local notice of it stands ahead of the reply in the FIFO is log entry 17. -/
def Obligations.OthersAreRefused : Prop :=
  ∀ (sender : Sender) (tag : Half) (c : Instr) (s : State) (code table : Nat), accepts sender s →
    ((code = 2 ∧ ∃ (t index : Byte) (entry : List Byte), c = .writeTableRefused sender tag t index entry ∧
        table = t.toNat ∧ 1 ≤ table ∧ table ≤ 8 ∧ sender.ownsTable t = false) ∨
      (code = 5 ∧ table = 0 ∧ ∃ (ident : Byte) (value : BitVec 48) (p : Param), c = .writeParam sender tag ident value ∧
        Param.ofIdent ident.toNat = some p ∧ p.owner ≠ senderAuthority sender) ∨
      (code = 7 ∧ table = 0 ∧ senderAuthority sender = .loc ∧
        (c = .loopOff sender tag ∨ ∃ channel : Byte, c = .loopOn sender tag channel)) ∨
      (code = 9 ∧ table = 0 ∧ sender = .exch ∧
        (c = .quietEnter sender tag ∨ ∃ hitClear : Byte, c = .quietLeave sender tag hitClear))) →
    ∃ t, exec c s = .next t ∧
      t.fault .directiveRefused = (s.fault .directiveRefused).occurred false s.fu.uptime
        ((if sender = .exch then 2 else 1) * 256 + table) ∧
      recordsOnly [.directiveRefused] s t ∧
      t.fu = { s.fu with records := t.fu.records, exchList := t.fu.exchList, locList := t.fu.locList } ∧
      entered .directiveRefused (s.fault .directiveRefused).exchLevel s.fu.uptime s.fu.exchList t.fu.exchList ∧
      (¬ noticesOffered s →
        entered .directiveRefused (s.fault .directiveRefused).locLevel s.fu.uptime s.fu.locList t.fu.locList) ∧
      t.du = seenBy sender s.du ∧ Replied sender code tag .notOwner [] s t ∧
      counted (Ctr.notOwner (senderAuthority sender)) 1 s t ∧
      t.me.table = s.me.table ∧ t.me.answers = s.me.answers ∧ t.me.quiet = s.me.quiet ∧
      changesOnly (.directives :: reportBlocks) s t ∧
      countsOnly (Ctr.notOwner (senderAuthority sender) :: answerCounters sender .notOwner ++ reportCounters) s t

/-- LINE_ACTION START, STOP, RETRAIN, STEP_DOWN and STEP_UP from either authority (R28, R37, R38, R44, R45, R212): each where it is
taken, with what it leaves of the Line Supervisor and sends to the transceiver, and each where it is refused with WRONG_STATE. That the
notices an action gives rise to stand ahead of a local reply in the FIFO is log entry 17, and that a STOP in STOPPED sends HALT is log
entry 46. -/
def Obligations.LineActionsMoveTheLine : Prop :=
  ∀ (sender : Sender) (tag : Half) (s : State), accepts sender s →
    let link := s.ls.link
    let train : Option Timer := some { limit := 1000 * s.param .trainTimeout, elapsed := 0 }
    let first := s.rungFrom (Fin.ofNat 8 (s.param .startRung))
    let same := s.rungFrom s.ls.rung
    let used := (s.call .zero).state ≠ .free ∨ (s.call .one).state ≠ .free
    let refused (c : Instr) : Prop := ∃ t, exec c s = .next t ∧ onlyAnswered sender 7 tag .wrongState [] s t
    let sends (l : List XcvrMsg) (t : State) : Prop :=
      t.out = { s.out with xcvr := s.out.xcvr ++ l } ∧ t.du = seenBy sender s.du ∧ Replied sender 7 tag .done [] s t
    let left (t : State) : Prop := t.ls.loopback = none ∧ t.ls.silence = none ∧ t.lbu = { s.lbu with urgent := false } ∧
      ∀ ch, t.chan ch = { s.chan ch with seg := none, asm := none }
    let trainsAt (i : Fin 8) (t : State) : Prop := t.ls.rung = i ∧ t.ls.train = train ∧
      t.ls.inUse = s.ls.inUse ∧ t.ls.rate = s.ls.rate ∧ t.ls.margin = s.ls.margin ∧ t.ls.history = s.ls.history
    (link = .stopped → ∃ t, exec (.lineActionStart sender tag) s = .next t ∧
      t.ls = { s.ls with link := .training, history := [], gradesSince := 0, rung := first, train := train } ∧
      sends [.train (vget s.ls.profile first).cap] t ∧ counted Ctr.trainingsStarted 1 s t ∧
      changesOnly [.directives, .supervisor, .outputs, .queues, .counters] s t) ∧
    (link = .waiting → ∀ c, (c = .lineActionStart sender tag ∨ c = .lineActionRetrain sender tag) →
      ∃ t, exec c s = .next t ∧ t.ls = { s.ls with link := .training, backoff := none, rung := first, train := train } ∧
      sends [.train (vget s.ls.profile first).cap] t ∧ counted Ctr.trainingsStarted 1 s t ∧
      changesOnly [.directives, .supervisor, .outputs, .queues, .counters] s t) ∧
    (link ≠ .stopped → link ≠ .waiting → refused (.lineActionStart sender tag)) ∧
    (∃ t, exec (.lineActionStop sender tag) s = .next t ∧
      t.ls = { s.ls with link := .stopped, train := none, ride := none, hold := none, backoff := none, silence := none,
                         loopback := t.ls.loopback, lowMargin := t.ls.lowMargin,
                         stepUpDeferred := t.ls.stepUpDeferred } ∧
      (link = .carrying → left t) ∧ sends [.halt] t ∧ (∀ n, (t.call n).state = .free) ∧
      (∀ n, (s.call n).state ≠ .free → (t.call n).endCause = some .line ∧ (t.call n).signals = []) ∧
      (t.fault .noRung).active = false ∧ t.tr.probe = none ∧
      changesOnly ([.directives, .framer, .supervisor, .budget, .phones, .calls, .media, .tests, .outputs] ++ reportBlocks)
        s t) ∧
    ((link = .carrying ∨ link = .riding) → ∃ t, exec (.lineActionRetrain sender tag) s = .next t ∧ trainsAt same t ∧
      t.ls.ride = none ∧
      (used → t.ls.link = .retraining ∧ t.ls.hold = some { limit := 1000 * s.param .holdLimit, elapsed := 0 }) ∧
      (¬ used → t.ls.link = .training) ∧ (link = .carrying → left t) ∧
      sends [.halt, .train (vget s.ls.profile same).cap] t ∧
      t.fault .retrain = (s.fault .retrain).occurred false s.fu.uptime same.val ∧
      changesOnly ([.directives, .framer, .supervisor, .budget, .calls, .media, .outputs] ++ reportBlocks) s t) ∧
    ((link = .training ∨ link = .retraining) → ∃ t, exec (.lineActionRetrain sender tag) s = .next t ∧
      t.ls = { s.ls with rung := same, train := train } ∧ sends [.halt, .train (vget s.ls.profile same).cap] t ∧
      changesOnly [.directives, .supervisor, .outputs, .queues, .counters] s t) ∧
    (link = .stopped → refused (.lineActionRetrain sender tag)) ∧
    (link = .carrying → ∀ i, s.rungBelow s.ls.rung = some i → ∃ t, exec (.lineActionStepDown sender tag) s = .next t ∧
      trainsAt i t ∧ t.ls.link = (if used then .retraining else .training) ∧ left t ∧
      sends [.halt, .train (vget s.ls.profile i).cap] t ∧
      t.fault .stepDown = (s.fault .stepDown).occurred false s.fu.uptime i.val ∧ counted Ctr.stepDowns 1 s t ∧
      changesOnly ([.directives, .framer, .supervisor, .budget, .calls, .media, .outputs] ++ reportBlocks) s t) ∧
    ((link ≠ .carrying ∨ s.rungBelow s.ls.rung = none) → refused (.lineActionStepDown sender tag)) ∧
    (link = .carrying → ¬ used → ∀ i, s.rungAbove s.ls.rung = some i → s.param .startRung ≤ i.val →
      ∃ t, exec (.lineActionStepUp sender tag) s = .next t ∧ trainsAt i t ∧ t.ls.link = .training ∧ left t ∧
      sends [.halt, .train (vget s.ls.profile i).cap] t ∧ counted Ctr.stepUps 1 s t ∧
      changesOnly ([.directives, .framer, .supervisor, .budget, .outputs] ++ reportBlocks) s t) ∧
    ((link ≠ .carrying ∨ used ∨ ∀ i, s.rungAbove s.ls.rung = some i → i.val < s.param .startRung) →
      refused (.lineActionStepUp sender tag))

/-- LOOP_ON and LOOP_OFF from the exchange, and the loopback limit's expiry (R195, R196, R17): where loopback goes on, where its limit
starts afresh, where LOOP_ON is refused; at its end the blocks stored are discarded and counted. -/
def Obligations.LoopbackStartsAndEnds : Prop :=
  ∀ (tag : Half) (s : State),
    let limit : Timer := { limit := 1000 * s.param .loopbackLimit, elapsed := 0 }
    let ended (t : State) : Prop :=
      t.ls = { s.ls with loopback := none } ∧ t.bf = (if s.ls.loopback = none then s.bf else { s.bf with loopStore := [] }) ∧
      countedIf (s.ls.loopback ≠ none) Ctr.loopedDiscarded s.bf.loopStore.length s t
    (accepts .exch s →
      (∀ channel : Byte, channel ≠ 3 → channel ≠ 14 → ∃ t, exec (.loopOn .exch tag channel) s = .next t ∧
        onlyAnswered .exch 7 tag .badValue [] s t) ∧
      (∀ (channel : Byte) (x : LoopChannel), channel.toNat = x.chan.val →
        ((s.ls.link ≠ .carrying ∨ ∃ l, s.ls.loopback = some l ∧ l.channel ≠ x) →
          ∃ t, exec (.loopOn .exch tag channel) s = .next t ∧ onlyAnswered .exch 7 tag .wrongState [] s t) ∧
        (s.ls.link = .carrying → (∀ l, s.ls.loopback = some l → l.channel = x) →
          ∃ t, exec (.loopOn .exch tag channel) s = .next t ∧
          t.ls = { s.ls with loopback := some { channel := x, limit := limit } } ∧
          (∀ c, t.chan c = if c = x.chan ∧ s.ls.loopback = none then { s.chan c with seg := none, asm := none }
            else s.chan c) ∧
          t.bf.loopStore = s.bf.loopStore ∧ countedIf (s.ls.loopback = none) Ctr.loopbacksStarted 1 s t ∧
          recordsOnly [.reassemblyLoss] s t ∧ Replied .exch 7 tag .done [] s t ∧
          changesOnly ([.framer, .supervisor] ++ reportBlocks) s t)) ∧
      (∃ t, exec (.loopOff .exch tag) s = .next t ∧ ended t ∧ Replied .exch 7 tag .done [] s t ∧
        changesOnly [.framer, .supervisor, .queues, .counters] s t ∧
        countsOnly (Ctr.loopedDiscarded :: answerCounters .exch .done) s t)) ∧
    (∃ t, exec .loopbackLimitExpiry s = .next t ∧ ended t ∧
      countedIf (s.ls.loopback ≠ none) Ctr.loopbackLimitExpiries 1 s t ∧
      changesOnly [.framer, .supervisor, .counters] s t ∧
      countsOnly [Ctr.loopbackLimitExpiries, Ctr.loopedDiscarded] s t)

/-- PORT_ACTION TEST_RING, ECHO_TEST, RELEASE_PORT, DISABLE and ENABLE (R112, R120, R197, R205, R206): the checks of a test in order,
the test started, and the port states that each of the other three takes, refuses or leaves. That a test ring which the power limit
would hold back records no RING_LIMITED beside its BUSY is log entry 39; that the notices of an action stand ahead of a local reply in the FIFO is log
entry 17. -/
def Obligations.PortActionsActOnThePort : Prop :=
  ∀ (sender : Sender) (tag : Half) (port : Byte) (s : State), accepts sender s →
    let refused (status : Status) (c : Instr) : Prop := ∃ t, exec c s = .next t ∧ onlyAnswered sender 8 tag status [] s t
    let done (body : Bytes) (t : State) : Prop := t.du = seenBy sender s.du ∧ Replied sender 8 tag .done body s t
    (port ≠ 1 → port ≠ 2 → refused .badValue (.releasePort sender tag port) ∧ refused .badValue (.disable sender tag port) ∧
      refused .badValue (.enable sender tag port) ∧ ∀ cadence seconds : Byte,
        refused .badValue (.testRing sender tag port cadence seconds) ∧
        refused .badValue (.echoTest sender tag port cadence seconds)) ∧
    ∀ p : Port, port.toNat = (if p = .a then 1 else 2) →
      let st := (s.port p).state
      (∀ (kind : TestKind) (c : Instr) (cadence seconds : Byte),
        ((kind = .ring ∧ c = .testRing sender tag port cadence seconds) ∨
          (kind = .echo ∧ c = .echoTest sender tag port cadence seconds)) →
        let empty := ∀ i, vget (vget s.ppu.cadences (Fin.ofNat 8 cadence.toNat)).durations i = 0
        let limited := s.fu.power ≠ .mains ∧ s.holdsRinger p.other = true
        ((8 ≤ cadence.toNat ∨ empty) → refused .badValue c) ∧
        (cadence.toNat < 8 → ¬ empty → s.tr.test ≠ none → refused .busy c) ∧
        (cadence.toNat < 8 → ¬ empty → s.tr.test = none → st ≠ .idle → refused .wrongState c) ∧
        (cadence.toNat < 8 → ¬ empty → s.tr.test = none → st = .idle → limited → refused .busy c) ∧
        (cadence.toNat < 8 → ¬ empty → s.tr.test = none → st = .idle → ¬ limited → ∃ t, exec c s = .next t ∧
          let n := max 1 (min seconds.toNat 60)
          let test : PortTest :=
            { kind := kind, port := p, auth := senderAuthority sender, tag := tag, cadence := Fin.ofNat 8 cadence.toNat,
              seconds := n, phase := .ring, timer := some { limit := 1000 * n, elapsed := 0 }, answerTime := 0, delay := 0,
              line := [] }
          t.tr = { s.tr with test := some test } ∧
          (t.port p).state = .testing ∧ (t.port p).chan ≠ none ∧
          t.port p = { s.port p with state := .testing, chan := (t.port p).chan, differ := (t.port p).differ, trip := 0 } ∧
          t.port p.other = s.port p.other ∧ (t.mediaPort p).dcIn = 0 ∧ (t.mediaPort p).dcOut = 0 ∧
          counted Ctr.portTestsStarted 1 s t ∧ done [byteOf n] t ∧
          changesOnly [.directives, .phones, .media, .tests, .queues, .counters] s t)) ∧
      (st ≠ .inCall → st ≠ .ringing → refused .wrongState (.releasePort sender tag port)) ∧
      (st = .inCall → ∃ t, exec (.releasePort sender tag port) s = .next t ∧
        t.port p = { s.port p with
          state := .released, tone := some .release, trip := 0, park := some { limit := 1000 * s.param .parkTime, elapsed := 0 },
          chan := some { mode := .tone .release, pos := 1, on := true, endAt := some 150, count := 0 } } ∧
        t.port p.other = s.port p.other ∧ done [] t ∧
        (∀ n, s.slotOf p = some n → (s.call n).attached.put p false ≠ { a := false, b := false } →
          t.call n = { s.call n with attached := (s.call n).attached.put p false } ∧ t.call n.other = s.call n.other ∧
          changesOnly [.directives, .phones, .calls, .media, .queues, .counters] s t)) ∧
      (st = .ringing → (s.port p).closed = false → ∃ t, exec (.releasePort sender tag port) s = .next t ∧
        (t.port p).state = .idle ∧ (t.port p).chan = none ∧ (t.port p).tone = none ∧ done [] t) ∧
      (st = .testing → refused .wrongState (.disable sender tag port)) ∧
      (st = .disabled → ∃ t, exec (.disable sender tag port) s = .next t ∧ onlyAnswered sender 8 tag .done [] s t) ∧
      ((st = .idle ∨ st = .localTone ∨ st = .released ∨ st = .parked) → ∃ t, exec (.disable sender tag port) s = .next t ∧
        t.port p = { s.port p with state := .disabled, chan := none, tone := none, park := none, trip := 0, compare := none,
                                   pulses := 0 } ∧
        t.port p.other = s.port p.other ∧
        (t.fault .portParked = if st = .parked ∧ (s.port p.other).state ≠ .parked then
          { s.fault .portParked with active := false } else s.fault .portParked) ∧
        recordsOnly [.portParked] s t ∧ t.fu = { s.fu with records := t.fu.records } ∧ done [] t ∧
        changesOnly [.directives, .phones, .faults, .queues, .counters] s t) ∧
      (st = .inCall ∨ st = .ringing → ∃ t, exec (.disable sender tag port) s = .next t ∧
        (t.port p).state = .disabled ∧ (t.port p).chan = none ∧ (t.port p).tone = none ∧ (t.port p).park = none ∧
        (t.port p).compare = none ∧ (t.port p).pulses = 0 ∧ done [] t) ∧
      (st = .disabled → (s.port p).closed = true → ∃ t, exec (.enable sender tag port) s = .next t ∧
        ((t.port p).state = .inCall ∨ (t.port p).state = .localTone) ∧ done [] t) ∧
      (st = .disabled → (s.port p).closed = false → ∃ t, exec (.enable sender tag port) s = .next t ∧
        t.port p = { s.port p with state := .idle } ∧ t.port p.other = s.port p.other ∧ done [] t ∧
        changesOnly [.directives, .phones, .queues, .counters] s t) ∧
      (st ≠ .disabled → ∃ t, exec (.enable sender tag port) s = .next t ∧ onlyAnswered sender 8 tag .done [] s t)

/-- QUIET ENTER and QUIET LEAVE from the local authority (R187, R188): the quiet flag, the wake pin, the hit counts of the wake
entries, and the local list, which a leave drains: its notices join the FIFO in order until the list is empty or the head's notice does
not fit, or none while the home link is down (R177). That the zero host address is checked before the flag already set is log entry 25,
that the notices stand ahead of the leave's own reply is log entry 17, and that a leave taken outside quiet offers them too is log entry
40. -/
def Obligations.QuietEntersAndLeaves : Prop :=
  ∀ (source : Mac) (tag : Half) (s : State),
    let done (t : State) : Prop := t.du = seenBy (.loc source) s.du ∧ Replied (.loc source) 9 tag .done [] s t
    (s.param .hostAddress = 0 → ∃ t, exec (.quietEnter (.loc source) tag) s = .next t ∧
      onlyAnswered (.loc source) 9 tag .wrongState [] s t) ∧
    (s.param .hostAddress ≠ 0 → s.me.quiet = true → ∃ t, exec (.quietEnter (.loc source) tag) s = .next t ∧
      onlyAnswered (.loc source) 9 tag .done [] s t) ∧
    (s.param .hostAddress ≠ 0 → s.me.quiet = false → ∃ t, exec (.quietEnter (.loc source) tag) s = .next t ∧
      t.me = { s.me with quiet := true, wake := false } ∧ counted Ctr.quietEntries 1 s t ∧ done t ∧
      changesOnly [.directives, .matchEngine, .queues, .counters] s t ∧
      countsOnly (Ctr.quietEntries :: answerCounters (.loc source) .done) s t) ∧
    ∀ hitClear : Byte,
      (hitClear ≠ 0 → hitClear ≠ 1 → ∃ t, exec (.quietLeave (.loc source) tag hitClear) s = .next t ∧
        onlyAnswered (.loc source) 9 tag .badValue [] s t) ∧
      (hitClear = 0 ∨ hitClear = 1 → ∃ t, exec (.quietLeave (.loc source) tag hitClear) s = .next t ∧
        t.me = { s.me with quiet := false, wake := false, table := t.me.table } ∧
        (∀ i, vget t.me.table i = if hitClear = 1 ∧ (vget s.me.table i).wake = true then
          { vget s.me.table i with hits := 0 } else vget s.me.table i) ∧
        Drained s.qm.fifo s t ∧ done t ∧
        answeredAfter (noticesJoined s t) (.loc source) (replyMsg (replyCode 9) tag .done []) s t ∧
        changesOnly [.directives, .matchEngine, .faults, .queues, .counters] s t ∧
        countsOnly ([Ctr.locNoticesQueued, Ctr.noticeDeclined] ++ answerCounters (.loc source) .done) s t)

/-- RESET from either authority (R216, R19, R25, R49, R72, R96, R124, R145, R166, R186, R202, R208), with auto-start on: what is kept
and what returns to its power-up value, the effective data floor at its kept parameter, a HALT and the start of the line, no reply;
LINE_DOWN is reported afresh when the line was up, and it alone is counted and listed. That the sample clock runs on is log entry 5,
that the record of the outputs stays is log entry 4, and that the home link comes up again by a command of its own is log entry 43. -/
def Obligations.ResetReturnsTheBlocks : Prop :=
  ∀ (sender : Sender) (tag : Half) (s : State), accepts sender s → s.param .autoStart = 1 →
    ∃ t, exec (.reset sender tag) s = .next t ∧ BlocksReset (s.param .dataFloor) t ∧
      t.ppu.cadences = s.ppu.cadences ∧
      (∀ p, t.param p = if p.owner = .exch then s.param p else p.default) ∧
      t.du.manager = (seenBy sender s.du).manager ∧
      t.du.cause = (if sender = .exch then .exchangeDirective else .localDirective) ∧
      (let i := s.rungFrom (Fin.ofNat 8 (s.param .startRung))
       t.ls = lineStarted s.ls.profile i (s.param .trainTimeout) ∧
       t.out = { s.out with xcvr := s.out.xcvr ++ [.halt, .train (vget s.ls.profile i).cap] }) ∧
      (∀ k ∈ [FaultKind.noRung, .severeRun, .marginLow, .portParked, .clipping, .playoutLoss],
        t.fault k = { s.fault k with active := false }) ∧
      recordsOnly [.noRung, .severeRun, .marginLow, .portParked, .clipping, .playoutLoss, .lineDown] s t ∧
      t.fu = { s.fu with records := t.fu.records, exchList := t.fu.exchList, locList := t.fu.locList } ∧
      (let r := s.fault .lineDown
       let fresh := (s.ls.link = .carrying ∨ s.ls.link = .riding ∨ s.ls.link = .retraining) ∧ r.active = false
       let item (level : Nat) : List PendingItem :=
         if fresh ∧ 1 ≤ level then [{ kind := .lineDown, level := level, entry := s.fu.uptime, repeats := 1 }] else []
       t.fault .lineDown = (if fresh then r.occurred true s.fu.uptime s.ls.rate else r) ∧
       t.fu.exchList = item r.exchLevel ∧ t.fu.locList = item r.locLevel ∧
       ∀ c, t.counter c = if c = Ctr.trainingsStarted ∨ fresh ∧ (c = Ctr.occurrences ∨
         c = Ctr.itemsEnteredExch ∧ 1 ≤ r.exchLevel ∨ c = Ctr.itemsEnteredLoc ∧ 1 ≤ r.locLevel) then 1 else 0) ∧
      t.clock = s.clock ∧ t.pending = s.pending ∧ t.free = s.free

/-- A directive's way into the part (R75, R203, R204, R219): a management frame from home carries it to the Directive Unit with the
frame's source as its sender, and what the row of the command table does there follows; so does a frame WHOLE on channel 15 while
CARRYING, from the exchange; a full exchange reply queue has an exchange directive discarded unread. That a row begins where the
Directive Unit takes the directive is log entry 14, and that a discarded directive is counted as received is log entry 24. -/
def Obligations.FramesCarryDirectives : Prop :=
  ∀ (c : Instr) (tag : Half) (r : Request) (s : State), r.fits = true →
    (∀ (dest source : Mac) (pad : List Byte), requestOf c = some (.loc source, tag, r) → s.qm.homeUp = true →
      let f := etherFrame dest source 0x9A21 (requestMsg tag r ++ pad)
      60 ≤ f.length → f.length ≤ 1518 →
      exec (.homeFrameReceived (f ++ fcsBytes f)) s =
        exec c (s |> bump Ctr.framesReceived |> bump Ctr.managementFrames)) ∧
    (requestOf c = some (.exch, tag, r) →
      (∀ (seq frameNo : Byte), s.ls.link = .carrying → (s.chan 15).expected = some seq → (s.chan 15).asm = none →
        (requestMsg tag r).length ≤ s.lbu.size.payload →
        exec (.lineBlockReceived (blockBytes s.lbu.size 15 .whole false false seq (requestMsg tag r).length frameNo
          (requestMsg tag r))) s =
        exec c (s |> bump Ctr.goodReceived |> onChan 15 (fun h => { h with expected := some (seq + 1) }) |> bump (Ctr.framesDelivered 15))) ∧
      (s.qm.replies.length = 4 → ∃ t, exec c s = .next t ∧ counted (Ctr.received .exch) 1 s t ∧
        counted Ctr.exchangeDiscarded 1 s t ∧ changesOnly [.counters] s t ∧
        countsOnly [Ctr.received .exch, Ctr.exchangeDiscarded] s t))
end

