-- ==== Sys2Proof/Laws/Bytes.lean ====
section
/-! SUPPORT. Byte order: a field written most significant byte first is read back as it was. -/

namespace Sys2Proof.Machine

theorem byteOf_toNat (n : Nat) : (byteOf n).toNat = n % 256 := by simp [byteOf]

@[simp] theorem be16_length (n : Nat) : (be16 n).length = 2 := rfl

@[simp] theorem be32_length (n : Nat) : (be32 n).length = 4 := rfl

@[simp] theorem be48_length (n : Nat) : (be48 n).length = 6 := rfl

/-- A 16-bit field's two bytes read back. -/
theorem half_be16 (h : Half) : half (byteOf (h.toNat / 256)) (byteOf h.toNat) = h := by
  apply BitVec.eq_of_toNat_eq
  have hh := h.isLt
  simp only [half, BitVec.toNat_append, byteOf_toNat]
  rw [← Nat.shiftLeft_add_eq_or_of_lt (Nat.mod_lt _ (by decide)), Nat.shiftLeft_eq]
  omega

theorem natOf_be32 (n : Nat) (h : n < 2 ^ 32) : natOf (be32 n) = n := by
  simp only [natOf, be32, List.foldl_cons, List.foldl_nil, byteOf_toNat]
  omega

theorem natOf_be48 (n : Nat) (h : n < 2 ^ 48) : natOf (be48 n) = n := by
  simp only [natOf, be48, be16, be32, List.cons_append, List.nil_append, List.foldl_cons, List.foldl_nil, byteOf_toNat]
  omega

theorem natOf_be16 (n : Nat) (h : n < 2 ^ 16) : natOf (be16 n) = n := by
  simp only [natOf, be16, List.foldl_cons, List.foldl_nil, byteOf_toNat]
  omega

/-- A 48-bit field's six bytes read back. -/
@[simp] theorem word48_be48 (v : BitVec 48) : word48 (be48 v.toNat) = v := by
  simp [word48, natOf_be48 _ v.isLt]

/-- A 32-bit field's four bytes read back. -/
@[simp] theorem word32_be32 (v : BitVec 32) : word32 (be32 v.toNat) = v := by
  simp [word32, natOf_be32 _ v.isLt]

@[simp] theorem halfBytes_length (l : List Half) : (halfBytes l).length = 2 * l.length := by
  induction l with
  | nil => rfl
  | cons h l ih =>
    simp only [halfBytes, List.flatMap_cons, List.length_append, be16_length, List.length_cons] at *
    omega

/-- A run of 16-bit fields read back. -/
@[simp] theorem halvesOf_halfBytes (l : List Half) : halvesOf (halfBytes l) = l := by
  induction l with
  | nil => rfl
  | cons h l ih =>
    have : halfBytes (h :: l) = byteOf (h.toNat / 256) :: byteOf h.toNat :: halfBytes l := rfl
    rw [this, halvesOf, ih, half_be16]

end Sys2Proof.Machine
end

