-- ==== Sys2Proof/Laws/State.lean ====
section
/-! SUPPORT. What each update of one block does to every field: one lemma per field per update, true by definition. -/

namespace Sys2Proof.Machine

variable (s : State)

@[simp] theorem onBf_pending (f : Framer → Framer) : (onBf f s).pending = s.pending := rfl
@[simp] theorem onBf_bf (f : Framer → Framer) : (onBf f s).bf = f s.bf := rfl
@[simp] theorem onBf_ls (f : Framer → Framer) : (onBf f s).ls = s.ls := rfl
@[simp] theorem onBf_lbu (f : Framer → Framer) : (onBf f s).lbu = s.lbu := rfl
@[simp] theorem onBf_me (f : Framer → Framer) : (onBf f s).me = s.me := rfl
@[simp] theorem onBf_qm (f : Framer → Framer) : (onBf f s).qm = s.qm := rfl
@[simp] theorem onBf_ppu (f : Framer → Framer) : (onBf f s).ppu = s.ppu := rfl
@[simp] theorem onBf_cc (f : Framer → Framer) : (onBf f s).cc = s.cc := rfl
@[simp] theorem onBf_mdu (f : Framer → Framer) : (onBf f s).mdu = s.mdu := rfl
@[simp] theorem onBf_fu (f : Framer → Framer) : (onBf f s).fu = s.fu := rfl
@[simp] theorem onBf_du (f : Framer → Framer) : (onBf f s).du = s.du := rfl
@[simp] theorem onBf_tr (f : Framer → Framer) : (onBf f s).tr = s.tr := rfl
@[simp] theorem onBf_counters (f : Framer → Framer) : (onBf f s).counters = s.counters := rfl
@[simp] theorem onBf_clock (f : Framer → Framer) : (onBf f s).clock = s.clock := rfl
@[simp] theorem onBf_out (f : Framer → Framer) : (onBf f s).out = s.out := rfl
@[simp] theorem onBf_free (f : Framer → Framer) : (onBf f s).free = s.free := rfl

@[simp] theorem onLs_pending (f : Supervisor → Supervisor) : (onLs f s).pending = s.pending := rfl
@[simp] theorem onLs_bf (f : Supervisor → Supervisor) : (onLs f s).bf = s.bf := rfl
@[simp] theorem onLs_ls (f : Supervisor → Supervisor) : (onLs f s).ls = f s.ls := rfl
@[simp] theorem onLs_lbu (f : Supervisor → Supervisor) : (onLs f s).lbu = s.lbu := rfl
@[simp] theorem onLs_me (f : Supervisor → Supervisor) : (onLs f s).me = s.me := rfl
@[simp] theorem onLs_qm (f : Supervisor → Supervisor) : (onLs f s).qm = s.qm := rfl
@[simp] theorem onLs_ppu (f : Supervisor → Supervisor) : (onLs f s).ppu = s.ppu := rfl
@[simp] theorem onLs_cc (f : Supervisor → Supervisor) : (onLs f s).cc = s.cc := rfl
@[simp] theorem onLs_mdu (f : Supervisor → Supervisor) : (onLs f s).mdu = s.mdu := rfl
@[simp] theorem onLs_fu (f : Supervisor → Supervisor) : (onLs f s).fu = s.fu := rfl
@[simp] theorem onLs_du (f : Supervisor → Supervisor) : (onLs f s).du = s.du := rfl
@[simp] theorem onLs_tr (f : Supervisor → Supervisor) : (onLs f s).tr = s.tr := rfl
@[simp] theorem onLs_counters (f : Supervisor → Supervisor) : (onLs f s).counters = s.counters := rfl
@[simp] theorem onLs_clock (f : Supervisor → Supervisor) : (onLs f s).clock = s.clock := rfl
@[simp] theorem onLs_out (f : Supervisor → Supervisor) : (onLs f s).out = s.out := rfl
@[simp] theorem onLs_free (f : Supervisor → Supervisor) : (onLs f s).free = s.free := rfl

@[simp] theorem onLbu_pending (f : Budget → Budget) : (onLbu f s).pending = s.pending := rfl
@[simp] theorem onLbu_bf (f : Budget → Budget) : (onLbu f s).bf = s.bf := rfl
@[simp] theorem onLbu_ls (f : Budget → Budget) : (onLbu f s).ls = s.ls := rfl
@[simp] theorem onLbu_lbu (f : Budget → Budget) : (onLbu f s).lbu = f s.lbu := rfl
@[simp] theorem onLbu_me (f : Budget → Budget) : (onLbu f s).me = s.me := rfl
@[simp] theorem onLbu_qm (f : Budget → Budget) : (onLbu f s).qm = s.qm := rfl
@[simp] theorem onLbu_ppu (f : Budget → Budget) : (onLbu f s).ppu = s.ppu := rfl
@[simp] theorem onLbu_cc (f : Budget → Budget) : (onLbu f s).cc = s.cc := rfl
@[simp] theorem onLbu_mdu (f : Budget → Budget) : (onLbu f s).mdu = s.mdu := rfl
@[simp] theorem onLbu_fu (f : Budget → Budget) : (onLbu f s).fu = s.fu := rfl
@[simp] theorem onLbu_du (f : Budget → Budget) : (onLbu f s).du = s.du := rfl
@[simp] theorem onLbu_tr (f : Budget → Budget) : (onLbu f s).tr = s.tr := rfl
@[simp] theorem onLbu_counters (f : Budget → Budget) : (onLbu f s).counters = s.counters := rfl
@[simp] theorem onLbu_clock (f : Budget → Budget) : (onLbu f s).clock = s.clock := rfl
@[simp] theorem onLbu_out (f : Budget → Budget) : (onLbu f s).out = s.out := rfl
@[simp] theorem onLbu_free (f : Budget → Budget) : (onLbu f s).free = s.free := rfl

@[simp] theorem onMe_pending (f : MatchEngine → MatchEngine) : (onMe f s).pending = s.pending := rfl
@[simp] theorem onMe_bf (f : MatchEngine → MatchEngine) : (onMe f s).bf = s.bf := rfl
@[simp] theorem onMe_ls (f : MatchEngine → MatchEngine) : (onMe f s).ls = s.ls := rfl
@[simp] theorem onMe_lbu (f : MatchEngine → MatchEngine) : (onMe f s).lbu = s.lbu := rfl
@[simp] theorem onMe_me (f : MatchEngine → MatchEngine) : (onMe f s).me = f s.me := rfl
@[simp] theorem onMe_qm (f : MatchEngine → MatchEngine) : (onMe f s).qm = s.qm := rfl
@[simp] theorem onMe_ppu (f : MatchEngine → MatchEngine) : (onMe f s).ppu = s.ppu := rfl
@[simp] theorem onMe_cc (f : MatchEngine → MatchEngine) : (onMe f s).cc = s.cc := rfl
@[simp] theorem onMe_mdu (f : MatchEngine → MatchEngine) : (onMe f s).mdu = s.mdu := rfl
@[simp] theorem onMe_fu (f : MatchEngine → MatchEngine) : (onMe f s).fu = s.fu := rfl
@[simp] theorem onMe_du (f : MatchEngine → MatchEngine) : (onMe f s).du = s.du := rfl
@[simp] theorem onMe_tr (f : MatchEngine → MatchEngine) : (onMe f s).tr = s.tr := rfl
@[simp] theorem onMe_counters (f : MatchEngine → MatchEngine) : (onMe f s).counters = s.counters := rfl
@[simp] theorem onMe_clock (f : MatchEngine → MatchEngine) : (onMe f s).clock = s.clock := rfl
@[simp] theorem onMe_out (f : MatchEngine → MatchEngine) : (onMe f s).out = s.out := rfl
@[simp] theorem onMe_free (f : MatchEngine → MatchEngine) : (onMe f s).free = s.free := rfl

@[simp] theorem onQm_pending (f : QueueManager → QueueManager) : (onQm f s).pending = s.pending := rfl
@[simp] theorem onQm_bf (f : QueueManager → QueueManager) : (onQm f s).bf = s.bf := rfl
@[simp] theorem onQm_ls (f : QueueManager → QueueManager) : (onQm f s).ls = s.ls := rfl
@[simp] theorem onQm_lbu (f : QueueManager → QueueManager) : (onQm f s).lbu = s.lbu := rfl
@[simp] theorem onQm_me (f : QueueManager → QueueManager) : (onQm f s).me = s.me := rfl
@[simp] theorem onQm_qm (f : QueueManager → QueueManager) : (onQm f s).qm = f s.qm := rfl
@[simp] theorem onQm_ppu (f : QueueManager → QueueManager) : (onQm f s).ppu = s.ppu := rfl
@[simp] theorem onQm_cc (f : QueueManager → QueueManager) : (onQm f s).cc = s.cc := rfl
@[simp] theorem onQm_mdu (f : QueueManager → QueueManager) : (onQm f s).mdu = s.mdu := rfl
@[simp] theorem onQm_fu (f : QueueManager → QueueManager) : (onQm f s).fu = s.fu := rfl
@[simp] theorem onQm_du (f : QueueManager → QueueManager) : (onQm f s).du = s.du := rfl
@[simp] theorem onQm_tr (f : QueueManager → QueueManager) : (onQm f s).tr = s.tr := rfl
@[simp] theorem onQm_counters (f : QueueManager → QueueManager) : (onQm f s).counters = s.counters := rfl
@[simp] theorem onQm_clock (f : QueueManager → QueueManager) : (onQm f s).clock = s.clock := rfl
@[simp] theorem onQm_out (f : QueueManager → QueueManager) : (onQm f s).out = s.out := rfl
@[simp] theorem onQm_free (f : QueueManager → QueueManager) : (onQm f s).free = s.free := rfl

@[simp] theorem onPpu_pending (f : PhoneUnit → PhoneUnit) : (onPpu f s).pending = s.pending := rfl
@[simp] theorem onPpu_bf (f : PhoneUnit → PhoneUnit) : (onPpu f s).bf = s.bf := rfl
@[simp] theorem onPpu_ls (f : PhoneUnit → PhoneUnit) : (onPpu f s).ls = s.ls := rfl
@[simp] theorem onPpu_lbu (f : PhoneUnit → PhoneUnit) : (onPpu f s).lbu = s.lbu := rfl
@[simp] theorem onPpu_me (f : PhoneUnit → PhoneUnit) : (onPpu f s).me = s.me := rfl
@[simp] theorem onPpu_qm (f : PhoneUnit → PhoneUnit) : (onPpu f s).qm = s.qm := rfl
@[simp] theorem onPpu_ppu (f : PhoneUnit → PhoneUnit) : (onPpu f s).ppu = f s.ppu := rfl
@[simp] theorem onPpu_cc (f : PhoneUnit → PhoneUnit) : (onPpu f s).cc = s.cc := rfl
@[simp] theorem onPpu_mdu (f : PhoneUnit → PhoneUnit) : (onPpu f s).mdu = s.mdu := rfl
@[simp] theorem onPpu_fu (f : PhoneUnit → PhoneUnit) : (onPpu f s).fu = s.fu := rfl
@[simp] theorem onPpu_du (f : PhoneUnit → PhoneUnit) : (onPpu f s).du = s.du := rfl
@[simp] theorem onPpu_tr (f : PhoneUnit → PhoneUnit) : (onPpu f s).tr = s.tr := rfl
@[simp] theorem onPpu_counters (f : PhoneUnit → PhoneUnit) : (onPpu f s).counters = s.counters := rfl
@[simp] theorem onPpu_clock (f : PhoneUnit → PhoneUnit) : (onPpu f s).clock = s.clock := rfl
@[simp] theorem onPpu_out (f : PhoneUnit → PhoneUnit) : (onPpu f s).out = s.out := rfl
@[simp] theorem onPpu_free (f : PhoneUnit → PhoneUnit) : (onPpu f s).free = s.free := rfl

@[simp] theorem onCc_pending (f : CallController → CallController) : (onCc f s).pending = s.pending := rfl
@[simp] theorem onCc_bf (f : CallController → CallController) : (onCc f s).bf = s.bf := rfl
@[simp] theorem onCc_ls (f : CallController → CallController) : (onCc f s).ls = s.ls := rfl
@[simp] theorem onCc_lbu (f : CallController → CallController) : (onCc f s).lbu = s.lbu := rfl
@[simp] theorem onCc_me (f : CallController → CallController) : (onCc f s).me = s.me := rfl
@[simp] theorem onCc_qm (f : CallController → CallController) : (onCc f s).qm = s.qm := rfl
@[simp] theorem onCc_ppu (f : CallController → CallController) : (onCc f s).ppu = s.ppu := rfl
@[simp] theorem onCc_cc (f : CallController → CallController) : (onCc f s).cc = f s.cc := rfl
@[simp] theorem onCc_mdu (f : CallController → CallController) : (onCc f s).mdu = s.mdu := rfl
@[simp] theorem onCc_fu (f : CallController → CallController) : (onCc f s).fu = s.fu := rfl
@[simp] theorem onCc_du (f : CallController → CallController) : (onCc f s).du = s.du := rfl
@[simp] theorem onCc_tr (f : CallController → CallController) : (onCc f s).tr = s.tr := rfl
@[simp] theorem onCc_counters (f : CallController → CallController) : (onCc f s).counters = s.counters := rfl
@[simp] theorem onCc_clock (f : CallController → CallController) : (onCc f s).clock = s.clock := rfl
@[simp] theorem onCc_out (f : CallController → CallController) : (onCc f s).out = s.out := rfl
@[simp] theorem onCc_free (f : CallController → CallController) : (onCc f s).free = s.free := rfl

@[simp] theorem onMdu_pending (f : MediaUnit → MediaUnit) : (onMdu f s).pending = s.pending := rfl
@[simp] theorem onMdu_bf (f : MediaUnit → MediaUnit) : (onMdu f s).bf = s.bf := rfl
@[simp] theorem onMdu_ls (f : MediaUnit → MediaUnit) : (onMdu f s).ls = s.ls := rfl
@[simp] theorem onMdu_lbu (f : MediaUnit → MediaUnit) : (onMdu f s).lbu = s.lbu := rfl
@[simp] theorem onMdu_me (f : MediaUnit → MediaUnit) : (onMdu f s).me = s.me := rfl
@[simp] theorem onMdu_qm (f : MediaUnit → MediaUnit) : (onMdu f s).qm = s.qm := rfl
@[simp] theorem onMdu_ppu (f : MediaUnit → MediaUnit) : (onMdu f s).ppu = s.ppu := rfl
@[simp] theorem onMdu_cc (f : MediaUnit → MediaUnit) : (onMdu f s).cc = s.cc := rfl
@[simp] theorem onMdu_mdu (f : MediaUnit → MediaUnit) : (onMdu f s).mdu = f s.mdu := rfl
@[simp] theorem onMdu_fu (f : MediaUnit → MediaUnit) : (onMdu f s).fu = s.fu := rfl
@[simp] theorem onMdu_du (f : MediaUnit → MediaUnit) : (onMdu f s).du = s.du := rfl
@[simp] theorem onMdu_tr (f : MediaUnit → MediaUnit) : (onMdu f s).tr = s.tr := rfl
@[simp] theorem onMdu_counters (f : MediaUnit → MediaUnit) : (onMdu f s).counters = s.counters := rfl
@[simp] theorem onMdu_clock (f : MediaUnit → MediaUnit) : (onMdu f s).clock = s.clock := rfl
@[simp] theorem onMdu_out (f : MediaUnit → MediaUnit) : (onMdu f s).out = s.out := rfl
@[simp] theorem onMdu_free (f : MediaUnit → MediaUnit) : (onMdu f s).free = s.free := rfl

@[simp] theorem onFu_pending (f : FaultUnit → FaultUnit) : (onFu f s).pending = s.pending := rfl
@[simp] theorem onFu_bf (f : FaultUnit → FaultUnit) : (onFu f s).bf = s.bf := rfl
@[simp] theorem onFu_ls (f : FaultUnit → FaultUnit) : (onFu f s).ls = s.ls := rfl
@[simp] theorem onFu_lbu (f : FaultUnit → FaultUnit) : (onFu f s).lbu = s.lbu := rfl
@[simp] theorem onFu_me (f : FaultUnit → FaultUnit) : (onFu f s).me = s.me := rfl
@[simp] theorem onFu_qm (f : FaultUnit → FaultUnit) : (onFu f s).qm = s.qm := rfl
@[simp] theorem onFu_ppu (f : FaultUnit → FaultUnit) : (onFu f s).ppu = s.ppu := rfl
@[simp] theorem onFu_cc (f : FaultUnit → FaultUnit) : (onFu f s).cc = s.cc := rfl
@[simp] theorem onFu_mdu (f : FaultUnit → FaultUnit) : (onFu f s).mdu = s.mdu := rfl
@[simp] theorem onFu_fu (f : FaultUnit → FaultUnit) : (onFu f s).fu = f s.fu := rfl
@[simp] theorem onFu_du (f : FaultUnit → FaultUnit) : (onFu f s).du = s.du := rfl
@[simp] theorem onFu_tr (f : FaultUnit → FaultUnit) : (onFu f s).tr = s.tr := rfl
@[simp] theorem onFu_counters (f : FaultUnit → FaultUnit) : (onFu f s).counters = s.counters := rfl
@[simp] theorem onFu_clock (f : FaultUnit → FaultUnit) : (onFu f s).clock = s.clock := rfl
@[simp] theorem onFu_out (f : FaultUnit → FaultUnit) : (onFu f s).out = s.out := rfl
@[simp] theorem onFu_free (f : FaultUnit → FaultUnit) : (onFu f s).free = s.free := rfl

@[simp] theorem onDu_pending (f : DirectiveUnit → DirectiveUnit) : (onDu f s).pending = s.pending := rfl
@[simp] theorem onDu_bf (f : DirectiveUnit → DirectiveUnit) : (onDu f s).bf = s.bf := rfl
@[simp] theorem onDu_ls (f : DirectiveUnit → DirectiveUnit) : (onDu f s).ls = s.ls := rfl
@[simp] theorem onDu_lbu (f : DirectiveUnit → DirectiveUnit) : (onDu f s).lbu = s.lbu := rfl
@[simp] theorem onDu_me (f : DirectiveUnit → DirectiveUnit) : (onDu f s).me = s.me := rfl
@[simp] theorem onDu_qm (f : DirectiveUnit → DirectiveUnit) : (onDu f s).qm = s.qm := rfl
@[simp] theorem onDu_ppu (f : DirectiveUnit → DirectiveUnit) : (onDu f s).ppu = s.ppu := rfl
@[simp] theorem onDu_cc (f : DirectiveUnit → DirectiveUnit) : (onDu f s).cc = s.cc := rfl
@[simp] theorem onDu_mdu (f : DirectiveUnit → DirectiveUnit) : (onDu f s).mdu = s.mdu := rfl
@[simp] theorem onDu_fu (f : DirectiveUnit → DirectiveUnit) : (onDu f s).fu = s.fu := rfl
@[simp] theorem onDu_du (f : DirectiveUnit → DirectiveUnit) : (onDu f s).du = f s.du := rfl
@[simp] theorem onDu_tr (f : DirectiveUnit → DirectiveUnit) : (onDu f s).tr = s.tr := rfl
@[simp] theorem onDu_counters (f : DirectiveUnit → DirectiveUnit) : (onDu f s).counters = s.counters := rfl
@[simp] theorem onDu_clock (f : DirectiveUnit → DirectiveUnit) : (onDu f s).clock = s.clock := rfl
@[simp] theorem onDu_out (f : DirectiveUnit → DirectiveUnit) : (onDu f s).out = s.out := rfl
@[simp] theorem onDu_free (f : DirectiveUnit → DirectiveUnit) : (onDu f s).free = s.free := rfl

@[simp] theorem onTr_pending (f : TestResponder → TestResponder) : (onTr f s).pending = s.pending := rfl
@[simp] theorem onTr_bf (f : TestResponder → TestResponder) : (onTr f s).bf = s.bf := rfl
@[simp] theorem onTr_ls (f : TestResponder → TestResponder) : (onTr f s).ls = s.ls := rfl
@[simp] theorem onTr_lbu (f : TestResponder → TestResponder) : (onTr f s).lbu = s.lbu := rfl
@[simp] theorem onTr_me (f : TestResponder → TestResponder) : (onTr f s).me = s.me := rfl
@[simp] theorem onTr_qm (f : TestResponder → TestResponder) : (onTr f s).qm = s.qm := rfl
@[simp] theorem onTr_ppu (f : TestResponder → TestResponder) : (onTr f s).ppu = s.ppu := rfl
@[simp] theorem onTr_cc (f : TestResponder → TestResponder) : (onTr f s).cc = s.cc := rfl
@[simp] theorem onTr_mdu (f : TestResponder → TestResponder) : (onTr f s).mdu = s.mdu := rfl
@[simp] theorem onTr_fu (f : TestResponder → TestResponder) : (onTr f s).fu = s.fu := rfl
@[simp] theorem onTr_du (f : TestResponder → TestResponder) : (onTr f s).du = s.du := rfl
@[simp] theorem onTr_tr (f : TestResponder → TestResponder) : (onTr f s).tr = f s.tr := rfl
@[simp] theorem onTr_counters (f : TestResponder → TestResponder) : (onTr f s).counters = s.counters := rfl
@[simp] theorem onTr_clock (f : TestResponder → TestResponder) : (onTr f s).clock = s.clock := rfl
@[simp] theorem onTr_out (f : TestResponder → TestResponder) : (onTr f s).out = s.out := rfl
@[simp] theorem onTr_free (f : TestResponder → TestResponder) : (onTr f s).free = s.free := rfl

@[simp] theorem onClock_pending (f : Clock → Clock) : (onClock f s).pending = s.pending := rfl
@[simp] theorem onClock_bf (f : Clock → Clock) : (onClock f s).bf = s.bf := rfl
@[simp] theorem onClock_ls (f : Clock → Clock) : (onClock f s).ls = s.ls := rfl
@[simp] theorem onClock_lbu (f : Clock → Clock) : (onClock f s).lbu = s.lbu := rfl
@[simp] theorem onClock_me (f : Clock → Clock) : (onClock f s).me = s.me := rfl
@[simp] theorem onClock_qm (f : Clock → Clock) : (onClock f s).qm = s.qm := rfl
@[simp] theorem onClock_ppu (f : Clock → Clock) : (onClock f s).ppu = s.ppu := rfl
@[simp] theorem onClock_cc (f : Clock → Clock) : (onClock f s).cc = s.cc := rfl
@[simp] theorem onClock_mdu (f : Clock → Clock) : (onClock f s).mdu = s.mdu := rfl
@[simp] theorem onClock_fu (f : Clock → Clock) : (onClock f s).fu = s.fu := rfl
@[simp] theorem onClock_du (f : Clock → Clock) : (onClock f s).du = s.du := rfl
@[simp] theorem onClock_tr (f : Clock → Clock) : (onClock f s).tr = s.tr := rfl
@[simp] theorem onClock_counters (f : Clock → Clock) : (onClock f s).counters = s.counters := rfl
@[simp] theorem onClock_clock (f : Clock → Clock) : (onClock f s).clock = f s.clock := rfl
@[simp] theorem onClock_out (f : Clock → Clock) : (onClock f s).out = s.out := rfl
@[simp] theorem onClock_free (f : Clock → Clock) : (onClock f s).free = s.free := rfl

@[simp] theorem onOut_pending (f : Outputs → Outputs) : (onOut f s).pending = s.pending := rfl
@[simp] theorem onOut_bf (f : Outputs → Outputs) : (onOut f s).bf = s.bf := rfl
@[simp] theorem onOut_ls (f : Outputs → Outputs) : (onOut f s).ls = s.ls := rfl
@[simp] theorem onOut_lbu (f : Outputs → Outputs) : (onOut f s).lbu = s.lbu := rfl
@[simp] theorem onOut_me (f : Outputs → Outputs) : (onOut f s).me = s.me := rfl
@[simp] theorem onOut_qm (f : Outputs → Outputs) : (onOut f s).qm = s.qm := rfl
@[simp] theorem onOut_ppu (f : Outputs → Outputs) : (onOut f s).ppu = s.ppu := rfl
@[simp] theorem onOut_cc (f : Outputs → Outputs) : (onOut f s).cc = s.cc := rfl
@[simp] theorem onOut_mdu (f : Outputs → Outputs) : (onOut f s).mdu = s.mdu := rfl
@[simp] theorem onOut_fu (f : Outputs → Outputs) : (onOut f s).fu = s.fu := rfl
@[simp] theorem onOut_du (f : Outputs → Outputs) : (onOut f s).du = s.du := rfl
@[simp] theorem onOut_tr (f : Outputs → Outputs) : (onOut f s).tr = s.tr := rfl
@[simp] theorem onOut_counters (f : Outputs → Outputs) : (onOut f s).counters = s.counters := rfl
@[simp] theorem onOut_clock (f : Outputs → Outputs) : (onOut f s).clock = s.clock := rfl
@[simp] theorem onOut_out (f : Outputs → Outputs) : (onOut f s).out = f s.out := rfl
@[simp] theorem onOut_free (f : Outputs → Outputs) : (onOut f s).free = s.free := rfl

@[simp] theorem bumpBy_pending (c : Counter) (k : Nat) : (bumpBy c k s).pending = s.pending := rfl
@[simp] theorem bumpBy_bf (c : Counter) (k : Nat) : (bumpBy c k s).bf = s.bf := rfl
@[simp] theorem bumpBy_ls (c : Counter) (k : Nat) : (bumpBy c k s).ls = s.ls := rfl
@[simp] theorem bumpBy_lbu (c : Counter) (k : Nat) : (bumpBy c k s).lbu = s.lbu := rfl
@[simp] theorem bumpBy_me (c : Counter) (k : Nat) : (bumpBy c k s).me = s.me := rfl
@[simp] theorem bumpBy_qm (c : Counter) (k : Nat) : (bumpBy c k s).qm = s.qm := rfl
@[simp] theorem bumpBy_ppu (c : Counter) (k : Nat) : (bumpBy c k s).ppu = s.ppu := rfl
@[simp] theorem bumpBy_cc (c : Counter) (k : Nat) : (bumpBy c k s).cc = s.cc := rfl
@[simp] theorem bumpBy_mdu (c : Counter) (k : Nat) : (bumpBy c k s).mdu = s.mdu := rfl
@[simp] theorem bumpBy_fu (c : Counter) (k : Nat) : (bumpBy c k s).fu = s.fu := rfl
@[simp] theorem bumpBy_du (c : Counter) (k : Nat) : (bumpBy c k s).du = s.du := rfl
@[simp] theorem bumpBy_tr (c : Counter) (k : Nat) : (bumpBy c k s).tr = s.tr := rfl
@[simp] theorem bumpBy_counters (c : Counter) (k : Nat) : (bumpBy c k s).counters = vset s.counters c (satAdd Config.max32 (vget s.counters c) k) := rfl
@[simp] theorem bumpBy_clock (c : Counter) (k : Nat) : (bumpBy c k s).clock = s.clock := rfl
@[simp] theorem bumpBy_out (c : Counter) (k : Nat) : (bumpBy c k s).out = s.out := rfl
@[simp] theorem bumpBy_free (c : Counter) (k : Nat) : (bumpBy c k s).free = s.free := rfl
@[simp] theorem bump_pending (c : Counter) : (bump c s).pending = s.pending := rfl
@[simp] theorem bump_bf (c : Counter) : (bump c s).bf = s.bf := rfl
@[simp] theorem bump_ls (c : Counter) : (bump c s).ls = s.ls := rfl
@[simp] theorem bump_lbu (c : Counter) : (bump c s).lbu = s.lbu := rfl
@[simp] theorem bump_me (c : Counter) : (bump c s).me = s.me := rfl
@[simp] theorem bump_qm (c : Counter) : (bump c s).qm = s.qm := rfl
@[simp] theorem bump_ppu (c : Counter) : (bump c s).ppu = s.ppu := rfl
@[simp] theorem bump_cc (c : Counter) : (bump c s).cc = s.cc := rfl
@[simp] theorem bump_mdu (c : Counter) : (bump c s).mdu = s.mdu := rfl
@[simp] theorem bump_fu (c : Counter) : (bump c s).fu = s.fu := rfl
@[simp] theorem bump_du (c : Counter) : (bump c s).du = s.du := rfl
@[simp] theorem bump_tr (c : Counter) : (bump c s).tr = s.tr := rfl
@[simp] theorem bump_counters (c : Counter) : (bump c s).counters = vset s.counters c (satAdd Config.max32 (vget s.counters c) 1) := rfl
@[simp] theorem bump_clock (c : Counter) : (bump c s).clock = s.clock := rfl
@[simp] theorem bump_out (c : Counter) : (bump c s).out = s.out := rfl
@[simp] theorem bump_free (c : Counter) : (bump c s).free = s.free := rfl

theorem whenever_eq (b : Bool) (f : State → State) : whenever b f s = if b then f s else s := rfl
@[simp] theorem whenever_true (f : State → State) : whenever true f s = f s := rfl
@[simp] theorem whenever_false (f : State → State) : whenever false f s = s := rfl

@[simp] theorem whenever_pending (b : Bool) (f : State → State) :
    (whenever b f s).pending = if b then (f s).pending else s.pending := by cases b <;> rfl
@[simp] theorem whenever_bf (b : Bool) (f : State → State) :
    (whenever b f s).bf = if b then (f s).bf else s.bf := by cases b <;> rfl
@[simp] theorem whenever_ls (b : Bool) (f : State → State) :
    (whenever b f s).ls = if b then (f s).ls else s.ls := by cases b <;> rfl
@[simp] theorem whenever_lbu (b : Bool) (f : State → State) :
    (whenever b f s).lbu = if b then (f s).lbu else s.lbu := by cases b <;> rfl
@[simp] theorem whenever_me (b : Bool) (f : State → State) :
    (whenever b f s).me = if b then (f s).me else s.me := by cases b <;> rfl
@[simp] theorem whenever_qm (b : Bool) (f : State → State) :
    (whenever b f s).qm = if b then (f s).qm else s.qm := by cases b <;> rfl
@[simp] theorem whenever_ppu (b : Bool) (f : State → State) :
    (whenever b f s).ppu = if b then (f s).ppu else s.ppu := by cases b <;> rfl
@[simp] theorem whenever_cc (b : Bool) (f : State → State) :
    (whenever b f s).cc = if b then (f s).cc else s.cc := by cases b <;> rfl
@[simp] theorem whenever_mdu (b : Bool) (f : State → State) :
    (whenever b f s).mdu = if b then (f s).mdu else s.mdu := by cases b <;> rfl
@[simp] theorem whenever_fu (b : Bool) (f : State → State) :
    (whenever b f s).fu = if b then (f s).fu else s.fu := by cases b <;> rfl
@[simp] theorem whenever_du (b : Bool) (f : State → State) :
    (whenever b f s).du = if b then (f s).du else s.du := by cases b <;> rfl
@[simp] theorem whenever_tr (b : Bool) (f : State → State) :
    (whenever b f s).tr = if b then (f s).tr else s.tr := by cases b <;> rfl
@[simp] theorem whenever_counters (b : Bool) (f : State → State) :
    (whenever b f s).counters = if b then (f s).counters else s.counters := by cases b <;> rfl
@[simp] theorem whenever_clock (b : Bool) (f : State → State) :
    (whenever b f s).clock = if b then (f s).clock else s.clock := by cases b <;> rfl
@[simp] theorem whenever_out (b : Bool) (f : State → State) :
    (whenever b f s).out = if b then (f s).out else s.out := by cases b <;> rfl
@[simp] theorem whenever_free (b : Bool) (f : State → State) :
    (whenever b f s).free = if b then (f s).free else s.free := by cases b <;> rfl

end Sys2Proof.Machine
end

