-- ==== Sys2Proof/Laws/FramesA.lean ====
section
/-! SUPPORT. Frames: the pieces of state that each operation from Machine/Ops.lean to Machine/Phone.lean leaves alone. One lemma per operation. -/

namespace Sys2Proof.Machine

@[simp] theorem onPort_frame (p : Port) (f : PortUnit → PortUnit) (s : State) :
    (onPort p f s).pending = s.pending ∧ (onPort p f s).bf = s.bf ∧ (onPort p f s).ls = s.ls ∧
    (onPort p f s).lbu = s.lbu ∧ (onPort p f s).me = s.me ∧ (onPort p f s).qm = s.qm ∧ (onPort p f s).cc = s.cc ∧
    (onPort p f s).mdu = s.mdu ∧ (onPort p f s).fu = s.fu ∧ (onPort p f s).du = s.du ∧ (onPort p f s).tr = s.tr ∧
    (onPort p f s).counters = s.counters ∧ (onPort p f s).clock = s.clock ∧ (onPort p f s).out = s.out ∧
    (onPort p f s).free = s.free := by
  simp [onPort]

@[simp] theorem onCall_frame (n : Slot) (f : CallSlot → CallSlot) (s : State) :
    (onCall n f s).pending = s.pending ∧ (onCall n f s).bf = s.bf ∧ (onCall n f s).ls = s.ls ∧
    (onCall n f s).lbu = s.lbu ∧ (onCall n f s).me = s.me ∧ (onCall n f s).qm = s.qm ∧ (onCall n f s).ppu = s.ppu ∧
    (onCall n f s).mdu = s.mdu ∧ (onCall n f s).fu = s.fu ∧ (onCall n f s).du = s.du ∧ (onCall n f s).tr = s.tr ∧
    (onCall n f s).counters = s.counters ∧ (onCall n f s).clock = s.clock ∧ (onCall n f s).out = s.out ∧
    (onCall n f s).free = s.free := by
  simp [onCall]

@[simp] theorem onMedia_frame (n : Slot) (f : MediaSlot → MediaSlot) (s : State) :
    (onMedia n f s).pending = s.pending ∧ (onMedia n f s).bf = s.bf ∧ (onMedia n f s).ls = s.ls ∧
    (onMedia n f s).lbu = s.lbu ∧ (onMedia n f s).me = s.me ∧ (onMedia n f s).qm = s.qm ∧
    (onMedia n f s).ppu = s.ppu ∧ (onMedia n f s).cc = s.cc ∧ (onMedia n f s).fu = s.fu ∧ (onMedia n f s).du = s.du ∧
    (onMedia n f s).tr = s.tr ∧ (onMedia n f s).counters = s.counters ∧ (onMedia n f s).clock = s.clock ∧
    (onMedia n f s).out = s.out ∧ (onMedia n f s).free = s.free := by
  simp [onMedia]

@[simp] theorem onMediaPort_frame (p : Port) (f : MediaPort → MediaPort) (s : State) :
    (onMediaPort p f s).pending = s.pending ∧ (onMediaPort p f s).bf = s.bf ∧ (onMediaPort p f s).ls = s.ls ∧
    (onMediaPort p f s).lbu = s.lbu ∧ (onMediaPort p f s).me = s.me ∧ (onMediaPort p f s).qm = s.qm ∧
    (onMediaPort p f s).ppu = s.ppu ∧ (onMediaPort p f s).cc = s.cc ∧ (onMediaPort p f s).fu = s.fu ∧
    (onMediaPort p f s).du = s.du ∧ (onMediaPort p f s).tr = s.tr ∧ (onMediaPort p f s).counters = s.counters ∧
    (onMediaPort p f s).clock = s.clock ∧ (onMediaPort p f s).out = s.out ∧ (onMediaPort p f s).free = s.free := by
  simp [onMediaPort]

@[simp] theorem onChan_frame (c : Chan) (f : Channel → Channel) (s : State) :
    (onChan c f s).pending = s.pending ∧ (onChan c f s).ls = s.ls ∧ (onChan c f s).lbu = s.lbu ∧
    (onChan c f s).me = s.me ∧ (onChan c f s).qm = s.qm ∧ (onChan c f s).ppu = s.ppu ∧ (onChan c f s).cc = s.cc ∧
    (onChan c f s).mdu = s.mdu ∧ (onChan c f s).fu = s.fu ∧ (onChan c f s).du = s.du ∧ (onChan c f s).tr = s.tr ∧
    (onChan c f s).counters = s.counters ∧ (onChan c f s).clock = s.clock ∧ (onChan c f s).out = s.out ∧
    (onChan c f s).free = s.free := by
  simp [onChan]

@[simp] theorem setRec_frame (k : FaultKind) (r : FaultRecord) (s : State) :
    (setRec k r s).pending = s.pending ∧ (setRec k r s).bf = s.bf ∧ (setRec k r s).ls = s.ls ∧
    (setRec k r s).lbu = s.lbu ∧ (setRec k r s).me = s.me ∧ (setRec k r s).qm = s.qm ∧ (setRec k r s).ppu = s.ppu ∧
    (setRec k r s).cc = s.cc ∧ (setRec k r s).mdu = s.mdu ∧ (setRec k r s).du = s.du ∧ (setRec k r s).tr = s.tr ∧
    (setRec k r s).counters = s.counters ∧ (setRec k r s).clock = s.clock ∧ (setRec k r s).out = s.out ∧
    (setRec k r s).free = s.free := by
  simp [setRec]

@[simp] theorem setParam_frame (p : Param) (v : Nat) (s : State) :
    (setParam p v s).pending = s.pending ∧ (setParam p v s).bf = s.bf ∧ (setParam p v s).ls = s.ls ∧
    (setParam p v s).lbu = s.lbu ∧ (setParam p v s).me = s.me ∧ (setParam p v s).qm = s.qm ∧
    (setParam p v s).ppu = s.ppu ∧ (setParam p v s).cc = s.cc ∧ (setParam p v s).mdu = s.mdu ∧
    (setParam p v s).fu = s.fu ∧ (setParam p v s).tr = s.tr ∧ (setParam p v s).counters = s.counters ∧
    (setParam p v s).clock = s.clock ∧ (setParam p v s).out = s.out ∧ (setParam p v s).free = s.free := by
  simp [setParam]

@[simp] theorem sendXcvr_frame (m : XcvrMsg) (s : State) :
    (sendXcvr m s).pending = s.pending ∧ (sendXcvr m s).bf = s.bf ∧ (sendXcvr m s).ls = s.ls ∧
    (sendXcvr m s).lbu = s.lbu ∧ (sendXcvr m s).me = s.me ∧ (sendXcvr m s).qm = s.qm ∧ (sendXcvr m s).ppu = s.ppu ∧
    (sendXcvr m s).cc = s.cc ∧ (sendXcvr m s).mdu = s.mdu ∧ (sendXcvr m s).fu = s.fu ∧ (sendXcvr m s).du = s.du ∧
    (sendXcvr m s).tr = s.tr ∧ (sendXcvr m s).counters = s.counters ∧ (sendXcvr m s).clock = s.clock ∧
    (sendXcvr m s).free = s.free := by
  simp [sendXcvr]

@[simp] theorem sendBlock_frame (b : Bytes) (s : State) :
    (sendBlock b s).pending = s.pending ∧ (sendBlock b s).bf = s.bf ∧ (sendBlock b s).ls = s.ls ∧
    (sendBlock b s).lbu = s.lbu ∧ (sendBlock b s).me = s.me ∧ (sendBlock b s).qm = s.qm ∧
    (sendBlock b s).ppu = s.ppu ∧ (sendBlock b s).cc = s.cc ∧ (sendBlock b s).mdu = s.mdu ∧
    (sendBlock b s).fu = s.fu ∧ (sendBlock b s).du = s.du ∧ (sendBlock b s).tr = s.tr ∧
    (sendBlock b s).counters = s.counters ∧ (sendBlock b s).clock = s.clock ∧ (sendBlock b s).free = s.free := by
  simp [sendBlock]

@[simp] theorem sendHome_frame (f : Bytes) (s : State) :
    (sendHome f s).pending = s.pending ∧ (sendHome f s).bf = s.bf ∧ (sendHome f s).ls = s.ls ∧
    (sendHome f s).lbu = s.lbu ∧ (sendHome f s).me = s.me ∧ (sendHome f s).qm = s.qm ∧ (sendHome f s).ppu = s.ppu ∧
    (sendHome f s).cc = s.cc ∧ (sendHome f s).mdu = s.mdu ∧ (sendHome f s).fu = s.fu ∧ (sendHome f s).du = s.du ∧
    (sendHome f s).tr = s.tr ∧ (sendHome f s).counters = s.counters ∧ (sendHome f s).clock = s.clock ∧
    (sendHome f s).free = s.free := by
  simp [sendHome]

@[simp] theorem pushFifo_frame (kind : FifoKind) (frame : Bytes) (s : State) :
    (pushFifo kind frame s).pending = s.pending ∧ (pushFifo kind frame s).bf = s.bf ∧
    (pushFifo kind frame s).ls = s.ls ∧ (pushFifo kind frame s).lbu = s.lbu ∧ (pushFifo kind frame s).me = s.me ∧
    (pushFifo kind frame s).ppu = s.ppu ∧ (pushFifo kind frame s).cc = s.cc ∧ (pushFifo kind frame s).mdu = s.mdu ∧
    (pushFifo kind frame s).fu = s.fu ∧ (pushFifo kind frame s).du = s.du ∧ (pushFifo kind frame s).tr = s.tr ∧
    (pushFifo kind frame s).counters = s.counters ∧ (pushFifo kind frame s).clock = s.clock ∧
    (pushFifo kind frame s).out = s.out ∧ (pushFifo kind frame s).free = s.free := by
  simp [pushFifo]

@[simp] theorem offerFifo_frame (kind : FifoKind) (frame : Bytes) (s : State) :
    (offerFifo kind frame s).pending = s.pending ∧ (offerFifo kind frame s).bf = s.bf ∧
    (offerFifo kind frame s).ls = s.ls ∧ (offerFifo kind frame s).lbu = s.lbu ∧ (offerFifo kind frame s).me = s.me ∧
    (offerFifo kind frame s).ppu = s.ppu ∧ (offerFifo kind frame s).cc = s.cc ∧
    (offerFifo kind frame s).mdu = s.mdu ∧ (offerFifo kind frame s).fu = s.fu ∧ (offerFifo kind frame s).du = s.du ∧
    (offerFifo kind frame s).tr = s.tr ∧ (offerFifo kind frame s).clock = s.clock ∧
    (offerFifo kind frame s).out = s.out ∧ (offerFifo kind frame s).free = s.free := by
  unfold offerFifo
  split <;> simp

@[simp] theorem assertWake_frame (s : State) :
    (assertWake s).pending = s.pending ∧ (assertWake s).bf = s.bf ∧ (assertWake s).ls = s.ls ∧
    (assertWake s).lbu = s.lbu ∧ (assertWake s).qm = s.qm ∧ (assertWake s).ppu = s.ppu ∧ (assertWake s).cc = s.cc ∧
    (assertWake s).mdu = s.mdu ∧ (assertWake s).fu = s.fu ∧ (assertWake s).du = s.du ∧ (assertWake s).tr = s.tr ∧
    (assertWake s).clock = s.clock ∧ (assertWake s).out = s.out ∧ (assertWake s).free = s.free := by
  unfold assertWake
  split <;> simp

@[simp] theorem onList_frame (a : Authority) (f : List PendingItem → List PendingItem) (s : State) :
    (onList a f s).pending = s.pending ∧ (onList a f s).bf = s.bf ∧ (onList a f s).ls = s.ls ∧
    (onList a f s).lbu = s.lbu ∧ (onList a f s).me = s.me ∧ (onList a f s).qm = s.qm ∧ (onList a f s).ppu = s.ppu ∧
    (onList a f s).cc = s.cc ∧ (onList a f s).mdu = s.mdu ∧ (onList a f s).du = s.du ∧ (onList a f s).tr = s.tr ∧
    (onList a f s).counters = s.counters ∧ (onList a f s).clock = s.clock ∧ (onList a f s).out = s.out ∧
    (onList a f s).free = s.free := by
  simp [onList]

@[simp] theorem drainLocal_frame (n : Nat) (s : State) :
    (drainLocal n s).pending = s.pending ∧ (drainLocal n s).bf = s.bf ∧ (drainLocal n s).ls = s.ls ∧
    (drainLocal n s).lbu = s.lbu ∧ (drainLocal n s).me = s.me ∧ (drainLocal n s).ppu = s.ppu ∧
    (drainLocal n s).cc = s.cc ∧ (drainLocal n s).mdu = s.mdu ∧ (drainLocal n s).du = s.du ∧
    (drainLocal n s).tr = s.tr ∧ (drainLocal n s).clock = s.clock ∧ (drainLocal n s).out = s.out ∧
    (drainLocal n s).free = s.free := by
  induction n generalizing s with
  | zero => simp [drainLocal]
  | succ n ih =>
    unfold drainLocal
    split
    · split
      · simp
      · dsimp only
        split <;> simp [ih]
    · simp

@[simp] theorem offerLocal_frame (s : State) :
    (offerLocal s).pending = s.pending ∧ (offerLocal s).bf = s.bf ∧ (offerLocal s).ls = s.ls ∧
    (offerLocal s).lbu = s.lbu ∧ (offerLocal s).me = s.me ∧ (offerLocal s).ppu = s.ppu ∧ (offerLocal s).cc = s.cc ∧
    (offerLocal s).mdu = s.mdu ∧ (offerLocal s).du = s.du ∧ (offerLocal s).tr = s.tr ∧
    (offerLocal s).clock = s.clock ∧ (offerLocal s).out = s.out ∧ (offerLocal s).free = s.free := by
  simp [offerLocal]

@[simp] theorem enterExch_frame (k : FaultKind) (level : Nat) (s : State) :
    (enterExch k level s).pending = s.pending ∧ (enterExch k level s).bf = s.bf ∧ (enterExch k level s).ls = s.ls ∧
    (enterExch k level s).lbu = s.lbu ∧ (enterExch k level s).me = s.me ∧ (enterExch k level s).qm = s.qm ∧
    (enterExch k level s).ppu = s.ppu ∧ (enterExch k level s).cc = s.cc ∧ (enterExch k level s).mdu = s.mdu ∧
    (enterExch k level s).du = s.du ∧ (enterExch k level s).tr = s.tr ∧ (enterExch k level s).clock = s.clock ∧
    (enterExch k level s).out = s.out ∧ (enterExch k level s).free = s.free := by
  unfold enterExch
  split <;> simp

@[simp] theorem enterLoc_frame (k : FaultKind) (level : Nat) (s : State) :
    (enterLoc k level s).pending = s.pending ∧ (enterLoc k level s).bf = s.bf ∧ (enterLoc k level s).ls = s.ls ∧
    (enterLoc k level s).lbu = s.lbu ∧ (enterLoc k level s).ppu = s.ppu ∧ (enterLoc k level s).cc = s.cc ∧
    (enterLoc k level s).mdu = s.mdu ∧ (enterLoc k level s).du = s.du ∧ (enterLoc k level s).tr = s.tr ∧
    (enterLoc k level s).clock = s.clock ∧ (enterLoc k level s).out = s.out ∧ (enterLoc k level s).free = s.free := by
  unfold enterLoc
  split <;> simp

@[simp] theorem occurrence_frame (k : FaultKind) (detail : Nat) (s : State) :
    (occurrence k detail s).pending = s.pending ∧ (occurrence k detail s).bf = s.bf ∧
    (occurrence k detail s).ls = s.ls ∧ (occurrence k detail s).lbu = s.lbu ∧ (occurrence k detail s).ppu = s.ppu ∧
    (occurrence k detail s).cc = s.cc ∧ (occurrence k detail s).mdu = s.mdu ∧ (occurrence k detail s).du = s.du ∧
    (occurrence k detail s).tr = s.tr ∧ (occurrence k detail s).clock = s.clock ∧
    (occurrence k detail s).out = s.out ∧ (occurrence k detail s).free = s.free := by
  unfold occurrence
  split <;> simp

@[simp] theorem endCondition_frame (k : FaultKind) (s : State) :
    (endCondition k s).pending = s.pending ∧ (endCondition k s).bf = s.bf ∧ (endCondition k s).ls = s.ls ∧
    (endCondition k s).lbu = s.lbu ∧ (endCondition k s).me = s.me ∧ (endCondition k s).qm = s.qm ∧
    (endCondition k s).ppu = s.ppu ∧ (endCondition k s).cc = s.cc ∧ (endCondition k s).mdu = s.mdu ∧
    (endCondition k s).du = s.du ∧ (endCondition k s).tr = s.tr ∧ (endCondition k s).counters = s.counters ∧
    (endCondition k s).clock = s.clock ∧ (endCondition k s).out = s.out ∧ (endCondition k s).free = s.free := by
  simp [endCondition]

@[simp] theorem noticeDone_frame (k : FaultKind) (carried : Nat) (s : State) :
    (noticeDone k carried s).pending = s.pending ∧ (noticeDone k carried s).bf = s.bf ∧
    (noticeDone k carried s).ls = s.ls ∧ (noticeDone k carried s).lbu = s.lbu ∧ (noticeDone k carried s).me = s.me ∧
    (noticeDone k carried s).qm = s.qm ∧ (noticeDone k carried s).ppu = s.ppu ∧ (noticeDone k carried s).cc = s.cc ∧
    (noticeDone k carried s).mdu = s.mdu ∧ (noticeDone k carried s).du = s.du ∧ (noticeDone k carried s).tr = s.tr ∧
    (noticeDone k carried s).clock = s.clock ∧ (noticeDone k carried s).out = s.out ∧
    (noticeDone k carried s).free = s.free := by
  simp [noticeDone]

@[simp] theorem emitOn_frame (c : Chan) (kind : BlockKind) (urgent : Bool) (used : Nat) (frameNo : Byte) (payload : Bytes) (s : State) :
    (emitOn c kind urgent used frameNo payload s).pending = s.pending ∧
    (emitOn c kind urgent used frameNo payload s).ls = s.ls ∧
    (emitOn c kind urgent used frameNo payload s).lbu = s.lbu ∧
    (emitOn c kind urgent used frameNo payload s).me = s.me ∧
    (emitOn c kind urgent used frameNo payload s).qm = s.qm ∧
    (emitOn c kind urgent used frameNo payload s).ppu = s.ppu ∧
    (emitOn c kind urgent used frameNo payload s).cc = s.cc ∧
    (emitOn c kind urgent used frameNo payload s).mdu = s.mdu ∧
    (emitOn c kind urgent used frameNo payload s).fu = s.fu ∧
    (emitOn c kind urgent used frameNo payload s).du = s.du ∧
    (emitOn c kind urgent used frameNo payload s).tr = s.tr ∧
    (emitOn c kind urgent used frameNo payload s).clock = s.clock ∧
    (emitOn c kind urgent used frameNo payload s).free = s.free := by
  simp [emitOn]

@[simp] theorem emitFill_frame (s : State) :
    (emitFill s).pending = s.pending ∧ (emitFill s).bf = s.bf ∧ (emitFill s).ls = s.ls ∧ (emitFill s).lbu = s.lbu ∧
    (emitFill s).me = s.me ∧ (emitFill s).qm = s.qm ∧ (emitFill s).ppu = s.ppu ∧ (emitFill s).cc = s.cc ∧
    (emitFill s).mdu = s.mdu ∧ (emitFill s).fu = s.fu ∧ (emitFill s).du = s.du ∧ (emitFill s).tr = s.tr ∧
    (emitFill s).clock = s.clock ∧ (emitFill s).free = s.free := by
  simp [emitFill]

@[simp] theorem frameLeft_frame (c : Chan) (source : Source) (s : State) :
    (frameLeft c source s).pending = s.pending ∧ (frameLeft c source s).bf = s.bf ∧
    (frameLeft c source s).ls = s.ls ∧ (frameLeft c source s).lbu = s.lbu ∧ (frameLeft c source s).me = s.me ∧
    (frameLeft c source s).ppu = s.ppu ∧ (frameLeft c source s).mdu = s.mdu ∧ (frameLeft c source s).du = s.du ∧
    (frameLeft c source s).clock = s.clock ∧ (frameLeft c source s).out = s.out ∧
    (frameLeft c source s).free = s.free := by
  unfold frameLeft
  split <;> simp

@[simp] theorem emitNext_frame (c : Chan) (sd : Sending) (s : State) :
    (emitNext c sd s).pending = s.pending ∧ (emitNext c sd s).ls = s.ls ∧ (emitNext c sd s).lbu = s.lbu ∧
    (emitNext c sd s).me = s.me ∧ (emitNext c sd s).ppu = s.ppu ∧ (emitNext c sd s).mdu = s.mdu ∧
    (emitNext c sd s).du = s.du ∧ (emitNext c sd s).clock = s.clock ∧ (emitNext c sd s).free = s.free := by
  unfold emitNext
  split <;> simp

@[simp] theorem startFrame_frame (c : Chan) (source : Source) (bytes : Bytes) (s : State) :
    (startFrame c source bytes s).pending = s.pending ∧ (startFrame c source bytes s).ls = s.ls ∧
    (startFrame c source bytes s).lbu = s.lbu ∧ (startFrame c source bytes s).me = s.me ∧
    (startFrame c source bytes s).ppu = s.ppu ∧ (startFrame c source bytes s).mdu = s.mdu ∧
    (startFrame c source bytes s).du = s.du ∧ (startFrame c source bytes s).clock = s.clock ∧
    (startFrame c source bytes s).free = s.free := by
  simp [startFrame]

@[simp] theorem dropSeg_frame (c : Chan) (s : State) :
    (dropSeg c s).pending = s.pending ∧ (dropSeg c s).ls = s.ls ∧ (dropSeg c s).lbu = s.lbu ∧
    (dropSeg c s).me = s.me ∧ (dropSeg c s).qm = s.qm ∧ (dropSeg c s).ppu = s.ppu ∧ (dropSeg c s).cc = s.cc ∧
    (dropSeg c s).mdu = s.mdu ∧ (dropSeg c s).fu = s.fu ∧ (dropSeg c s).du = s.du ∧ (dropSeg c s).tr = s.tr ∧
    (dropSeg c s).counters = s.counters ∧ (dropSeg c s).clock = s.clock ∧ (dropSeg c s).out = s.out ∧
    (dropSeg c s).free = s.free := by
  simp [dropSeg]

@[simp] theorem cutShort_frame (c : Chan) (removed : Source → Bool) (s : State) :
    (cutShort c removed s).pending = s.pending ∧ (cutShort c removed s).ls = s.ls ∧
    (cutShort c removed s).lbu = s.lbu ∧ (cutShort c removed s).me = s.me ∧ (cutShort c removed s).qm = s.qm ∧
    (cutShort c removed s).ppu = s.ppu ∧ (cutShort c removed s).cc = s.cc ∧ (cutShort c removed s).mdu = s.mdu ∧
    (cutShort c removed s).fu = s.fu ∧ (cutShort c removed s).du = s.du ∧ (cutShort c removed s).tr = s.tr ∧
    (cutShort c removed s).clock = s.clock ∧ (cutShort c removed s).out = s.out ∧
    (cutShort c removed s).free = s.free := by
  unfold cutShort
  (repeat' split) <;> simp

@[simp] theorem reportLoss_frame (c : Chan) (cause : LossCause) (s : State) :
    (reportLoss c cause s).pending = s.pending ∧ (reportLoss c cause s).bf = s.bf ∧
    (reportLoss c cause s).ls = s.ls ∧ (reportLoss c cause s).lbu = s.lbu ∧ (reportLoss c cause s).ppu = s.ppu ∧
    (reportLoss c cause s).cc = s.cc ∧ (reportLoss c cause s).mdu = s.mdu ∧ (reportLoss c cause s).du = s.du ∧
    (reportLoss c cause s).tr = s.tr ∧ (reportLoss c cause s).clock = s.clock ∧ (reportLoss c cause s).out = s.out ∧
    (reportLoss c cause s).free = s.free := by
  simp [reportLoss]

@[simp] theorem abandon_frame (c : Chan) (cause : LossCause) (s : State) :
    (abandon c cause s).pending = s.pending ∧ (abandon c cause s).ls = s.ls ∧ (abandon c cause s).lbu = s.lbu ∧
    (abandon c cause s).ppu = s.ppu ∧ (abandon c cause s).cc = s.cc ∧ (abandon c cause s).mdu = s.mdu ∧
    (abandon c cause s).du = s.du ∧ (abandon c cause s).tr = s.tr ∧ (abandon c cause s).clock = s.clock ∧
    (abandon c cause s).out = s.out ∧ (abandon c cause s).free = s.free := by
  unfold abandon
  split <;> simp

@[simp] theorem abandonAll_frame (s : State) :
    (abandonAll s).pending = s.pending ∧ (abandonAll s).ls = s.ls ∧ (abandonAll s).lbu = s.lbu ∧
    (abandonAll s).ppu = s.ppu ∧ (abandonAll s).cc = s.cc ∧ (abandonAll s).mdu = s.mdu ∧ (abandonAll s).du = s.du ∧
    (abandonAll s).tr = s.tr ∧ (abandonAll s).clock = s.clock ∧ (abandonAll s).out = s.out ∧
    (abandonAll s).free = s.free := by
  simp [abandonAll, chanList]

@[simp] theorem dropAllSegs_frame (s : State) :
    (dropAllSegs s).pending = s.pending ∧ (dropAllSegs s).ls = s.ls ∧ (dropAllSegs s).lbu = s.lbu ∧
    (dropAllSegs s).me = s.me ∧ (dropAllSegs s).qm = s.qm ∧ (dropAllSegs s).ppu = s.ppu ∧ (dropAllSegs s).cc = s.cc ∧
    (dropAllSegs s).mdu = s.mdu ∧ (dropAllSegs s).fu = s.fu ∧ (dropAllSegs s).du = s.du ∧ (dropAllSegs s).tr = s.tr ∧
    (dropAllSegs s).counters = s.counters ∧ (dropAllSegs s).clock = s.clock ∧ (dropAllSegs s).out = s.out ∧
    (dropAllSegs s).free = s.free := by
  simp [dropAllSegs, chanList]

@[simp] theorem unsetExpected_frame (s : State) :
    (unsetExpected s).pending = s.pending ∧ (unsetExpected s).ls = s.ls ∧ (unsetExpected s).lbu = s.lbu ∧
    (unsetExpected s).me = s.me ∧ (unsetExpected s).qm = s.qm ∧ (unsetExpected s).ppu = s.ppu ∧
    (unsetExpected s).cc = s.cc ∧ (unsetExpected s).mdu = s.mdu ∧ (unsetExpected s).fu = s.fu ∧
    (unsetExpected s).du = s.du ∧ (unsetExpected s).tr = s.tr ∧ (unsetExpected s).counters = s.counters ∧
    (unsetExpected s).clock = s.clock ∧ (unsetExpected s).out = s.out ∧ (unsetExpected s).free = s.free := by
  simp [unsetExpected, chanList]

@[simp] theorem endLoopback_frame (s : State) :
    (endLoopback s).pending = s.pending ∧ (endLoopback s).lbu = s.lbu ∧ (endLoopback s).me = s.me ∧
    (endLoopback s).qm = s.qm ∧ (endLoopback s).ppu = s.ppu ∧ (endLoopback s).cc = s.cc ∧
    (endLoopback s).mdu = s.mdu ∧ (endLoopback s).fu = s.fu ∧ (endLoopback s).du = s.du ∧ (endLoopback s).tr = s.tr ∧
    (endLoopback s).clock = s.clock ∧ (endLoopback s).out = s.out ∧ (endLoopback s).free = s.free := by
  unfold endLoopback
  split <;> simp

@[simp] theorem storeLooped_frame (b : Looped) (s : State) :
    (storeLooped b s).pending = s.pending ∧ (storeLooped b s).ls = s.ls ∧ (storeLooped b s).lbu = s.lbu ∧
    (storeLooped b s).me = s.me ∧ (storeLooped b s).qm = s.qm ∧ (storeLooped b s).ppu = s.ppu ∧
    (storeLooped b s).cc = s.cc ∧ (storeLooped b s).mdu = s.mdu ∧ (storeLooped b s).fu = s.fu ∧
    (storeLooped b s).du = s.du ∧ (storeLooped b s).tr = s.tr ∧ (storeLooped b s).clock = s.clock ∧
    (storeLooped b s).out = s.out ∧ (storeLooped b s).free = s.free := by
  unfold storeLooped
  split <;> simp

theorem sendLooped_frame (c : Chan) (s : State) (t : State) (h : sendLooped c s = some t) :
    t.pending = s.pending ∧ t.ls = s.ls ∧ t.lbu = s.lbu ∧ t.me = s.me ∧ t.qm = s.qm ∧ t.ppu = s.ppu ∧ t.cc = s.cc ∧
    t.mdu = s.mdu ∧ t.fu = s.fu ∧ t.du = s.du ∧ t.tr = s.tr ∧ t.clock = s.clock ∧ t.free = s.free := by
  unfold sendLooped at h
  split at h
  · simp only [Option.some.injEq] at h
    subst h
    simp
  · simp at h

@[simp] theorem copyFloor_frame (s : State) :
    (copyFloor s).pending = s.pending ∧ (copyFloor s).bf = s.bf ∧ (copyFloor s).ls = s.ls ∧ (copyFloor s).me = s.me ∧
    (copyFloor s).qm = s.qm ∧ (copyFloor s).ppu = s.ppu ∧ (copyFloor s).cc = s.cc ∧ (copyFloor s).mdu = s.mdu ∧
    (copyFloor s).fu = s.fu ∧ (copyFloor s).du = s.du ∧ (copyFloor s).tr = s.tr ∧
    (copyFloor s).counters = s.counters ∧ (copyFloor s).clock = s.clock ∧ (copyFloor s).out = s.out ∧
    (copyFloor s).free = s.free := by
  simp [copyFloor]

@[simp] theorem stageBudget_frame (rate : Nat) (size : BlockSize) (eff : Nat) (s : State) :
    (stageBudget rate size eff s).pending = s.pending ∧ (stageBudget rate size eff s).bf = s.bf ∧
    (stageBudget rate size eff s).ls = s.ls ∧ (stageBudget rate size eff s).me = s.me ∧
    (stageBudget rate size eff s).qm = s.qm ∧ (stageBudget rate size eff s).ppu = s.ppu ∧
    (stageBudget rate size eff s).cc = s.cc ∧ (stageBudget rate size eff s).mdu = s.mdu ∧
    (stageBudget rate size eff s).fu = s.fu ∧ (stageBudget rate size eff s).du = s.du ∧
    (stageBudget rate size eff s).tr = s.tr ∧ (stageBudget rate size eff s).counters = s.counters ∧
    (stageBudget rate size eff s).clock = s.clock ∧ (stageBudget rate size eff s).out = s.out ∧
    (stageBudget rate size eff s).free = s.free := by
  simp [stageBudget]

@[simp] theorem countAdmission_frame (granted : Bool) (s : State) :
    (countAdmission granted s).pending = s.pending ∧ (countAdmission granted s).bf = s.bf ∧
    (countAdmission granted s).ls = s.ls ∧ (countAdmission granted s).lbu = s.lbu ∧
    (countAdmission granted s).me = s.me ∧ (countAdmission granted s).qm = s.qm ∧
    (countAdmission granted s).ppu = s.ppu ∧ (countAdmission granted s).cc = s.cc ∧
    (countAdmission granted s).mdu = s.mdu ∧ (countAdmission granted s).fu = s.fu ∧
    (countAdmission granted s).du = s.du ∧ (countAdmission granted s).tr = s.tr ∧
    (countAdmission granted s).clock = s.clock ∧ (countAdmission granted s).out = s.out ∧
    (countAdmission granted s).free = s.free := by
  simp [countAdmission]

@[simp] theorem refuseAdmission_frame (needs : Nat) (s : State) :
    (refuseAdmission needs s).pending = s.pending ∧ (refuseAdmission needs s).bf = s.bf ∧
    (refuseAdmission needs s).ls = s.ls ∧ (refuseAdmission needs s).lbu = s.lbu ∧
    (refuseAdmission needs s).ppu = s.ppu ∧ (refuseAdmission needs s).cc = s.cc ∧
    (refuseAdmission needs s).mdu = s.mdu ∧ (refuseAdmission needs s).du = s.du ∧
    (refuseAdmission needs s).tr = s.tr ∧ (refuseAdmission needs s).clock = s.clock ∧
    (refuseAdmission needs s).out = s.out ∧ (refuseAdmission needs s).free = s.free := by
  simp [refuseAdmission]

@[simp] theorem floorCheck_frame (s : State) :
    (floorCheck s).pending = s.pending ∧ (floorCheck s).bf = s.bf ∧ (floorCheck s).ls = s.ls ∧
    (floorCheck s).me = s.me ∧ (floorCheck s).qm = s.qm ∧ (floorCheck s).ppu = s.ppu ∧ (floorCheck s).cc = s.cc ∧
    (floorCheck s).mdu = s.mdu ∧ (floorCheck s).fu = s.fu ∧ (floorCheck s).du = s.du ∧ (floorCheck s).tr = s.tr ∧
    (floorCheck s).counters = s.counters ∧ (floorCheck s).clock = s.clock ∧ (floorCheck s).out = s.out ∧
    (floorCheck s).free = s.free := by
  unfold floorCheck
  (repeat' split) <;> simp

/-- All that a write of the data floor does: the effective floor and the pending one, and nothing else of the budget record. -/
theorem floorWritten_lbu (d : Nat) (s : State) :
    (floorWritten d s).lbu =
      if s.carrying = false then { s.lbu with pendingFloor := s.lbu.pendingFloor.map fun _ => d }
      else if s.boundHolds d = true then { s.lbu with floor := d, pendingFloor := none }
      else { s.lbu with pendingFloor := some d } := by
  cases h : s.carrying <;> simp [floorWritten, h]
  split <;> simp

@[simp] theorem floorWritten_frame (d : Nat) (s : State) :
    (floorWritten d s).pending = s.pending ∧ (floorWritten d s).bf = s.bf ∧ (floorWritten d s).ls = s.ls ∧
    (floorWritten d s).me = s.me ∧ (floorWritten d s).qm = s.qm ∧ (floorWritten d s).ppu = s.ppu ∧
    (floorWritten d s).cc = s.cc ∧ (floorWritten d s).mdu = s.mdu ∧ (floorWritten d s).fu = s.fu ∧
    (floorWritten d s).du = s.du ∧ (floorWritten d s).tr = s.tr ∧ (floorWritten d s).counters = s.counters ∧
    (floorWritten d s).clock = s.clock ∧ (floorWritten d s).out = s.out ∧ (floorWritten d s).free = s.free := by
  unfold floorWritten
  (repeat' split) <;> simp

@[simp] theorem setMedia_frame (n : Slot) (m : MediaState) (s : State) :
    (setMedia n m s).pending = s.pending ∧ (setMedia n m s).bf = s.bf ∧ (setMedia n m s).ls = s.ls ∧
    (setMedia n m s).lbu = s.lbu ∧ (setMedia n m s).me = s.me ∧ (setMedia n m s).qm = s.qm ∧
    (setMedia n m s).ppu = s.ppu ∧ (setMedia n m s).cc = s.cc ∧ (setMedia n m s).fu = s.fu ∧
    (setMedia n m s).du = s.du ∧ (setMedia n m s).tr = s.tr ∧ (setMedia n m s).clock = s.clock ∧
    (setMedia n m s).out = s.out ∧ (setMedia n m s).free = s.free := by
  simp [setMedia]

@[simp] theorem followCall_frame (n : Slot) (s : State) :
    (followCall n s).pending = s.pending ∧ (followCall n s).bf = s.bf ∧ (followCall n s).ls = s.ls ∧
    (followCall n s).lbu = s.lbu ∧ (followCall n s).me = s.me ∧ (followCall n s).qm = s.qm ∧
    (followCall n s).ppu = s.ppu ∧ (followCall n s).cc = s.cc ∧ (followCall n s).fu = s.fu ∧
    (followCall n s).du = s.du ∧ (followCall n s).tr = s.tr ∧ (followCall n s).clock = s.clock ∧
    (followCall n s).out = s.out ∧ (followCall n s).free = s.free := by
  simp [followCall]

@[simp] theorem addClip_frame (s : State) :
    (addClip s).pending = s.pending ∧ (addClip s).bf = s.bf ∧ (addClip s).ls = s.ls ∧ (addClip s).lbu = s.lbu ∧
    (addClip s).me = s.me ∧ (addClip s).qm = s.qm ∧ (addClip s).ppu = s.ppu ∧ (addClip s).cc = s.cc ∧
    (addClip s).fu = s.fu ∧ (addClip s).du = s.du ∧ (addClip s).tr = s.tr ∧ (addClip s).counters = s.counters ∧
    (addClip s).clock = s.clock ∧ (addClip s).out = s.out ∧ (addClip s).free = s.free := by
  simp [addClip]

@[simp] theorem saturated_frame (v : Int) (s : State) :
    (saturated v s).1.pending = s.pending ∧ (saturated v s).1.bf = s.bf ∧ (saturated v s).1.ls = s.ls ∧
    (saturated v s).1.lbu = s.lbu ∧ (saturated v s).1.me = s.me ∧ (saturated v s).1.qm = s.qm ∧
    (saturated v s).1.ppu = s.ppu ∧ (saturated v s).1.cc = s.cc ∧ (saturated v s).1.fu = s.fu ∧
    (saturated v s).1.du = s.du ∧ (saturated v s).1.tr = s.tr ∧ (saturated v s).1.counters = s.counters ∧
    (saturated v s).1.clock = s.clock ∧ (saturated v s).1.out = s.out ∧ (saturated v s).1.free = s.free := by
  simp [saturated]

@[simp] theorem dcBlock_frame (p : Port) (x : Int) (s : State) :
    (dcBlock p x s).pending = s.pending ∧ (dcBlock p x s).bf = s.bf ∧ (dcBlock p x s).ls = s.ls ∧
    (dcBlock p x s).lbu = s.lbu ∧ (dcBlock p x s).me = s.me ∧ (dcBlock p x s).qm = s.qm ∧
    (dcBlock p x s).ppu = s.ppu ∧ (dcBlock p x s).cc = s.cc ∧ (dcBlock p x s).fu = s.fu ∧ (dcBlock p x s).du = s.du ∧
    (dcBlock p x s).tr = s.tr ∧ (dcBlock p x s).counters = s.counters ∧ (dcBlock p x s).clock = s.clock ∧
    (dcBlock p x s).out = s.out ∧ (dcBlock p x s).free = s.free := by
  unfold dcBlock
  (repeat' split) <;> simp_all

@[simp] theorem uplinkSample_frame (n : Slot) (s : State) :
    (uplinkSample n s).pending = s.pending ∧ (uplinkSample n s).bf = s.bf ∧ (uplinkSample n s).ls = s.ls ∧
    (uplinkSample n s).lbu = s.lbu ∧ (uplinkSample n s).me = s.me ∧ (uplinkSample n s).qm = s.qm ∧
    (uplinkSample n s).ppu = s.ppu ∧ (uplinkSample n s).cc = s.cc ∧ (uplinkSample n s).fu = s.fu ∧
    (uplinkSample n s).du = s.du ∧ (uplinkSample n s).tr = s.tr ∧ (uplinkSample n s).counters = s.counters ∧
    (uplinkSample n s).clock = s.clock ∧ (uplinkSample n s).out = s.out ∧ (uplinkSample n s).free = s.free := by
  unfold uplinkSample
  (repeat' split) <;> simp_all

@[simp] theorem closeFrame_frame (n : Slot) (s : State) :
    (closeFrame n s).pending = s.pending ∧ (closeFrame n s).bf = s.bf ∧ (closeFrame n s).ls = s.ls ∧
    (closeFrame n s).lbu = s.lbu ∧ (closeFrame n s).me = s.me ∧ (closeFrame n s).qm = s.qm ∧
    (closeFrame n s).ppu = s.ppu ∧ (closeFrame n s).cc = s.cc ∧ (closeFrame n s).fu = s.fu ∧
    (closeFrame n s).du = s.du ∧ (closeFrame n s).tr = s.tr ∧ (closeFrame n s).clock = s.clock ∧
    (closeFrame n s).out = s.out ∧ (closeFrame n s).free = s.free := by
  unfold closeFrame
  (repeat' split) <;> simp

@[simp] theorem playArrival_frame (n : Slot) (resume : Bool) (f : RingFrame) (s : State) :
    (playArrival n resume f s).pending = s.pending ∧ (playArrival n resume f s).bf = s.bf ∧
    (playArrival n resume f s).ls = s.ls ∧ (playArrival n resume f s).lbu = s.lbu ∧
    (playArrival n resume f s).me = s.me ∧ (playArrival n resume f s).qm = s.qm ∧
    (playArrival n resume f s).ppu = s.ppu ∧ (playArrival n resume f s).cc = s.cc ∧
    (playArrival n resume f s).fu = s.fu ∧ (playArrival n resume f s).du = s.du ∧
    (playArrival n resume f s).tr = s.tr ∧ (playArrival n resume f s).clock = s.clock ∧
    (playArrival n resume f s).out = s.out ∧ (playArrival n resume f s).free = s.free := by
  unfold playArrival
  simp only []
  (repeat' split) <;> simp

@[simp] theorem mediaArrives_frame (n : Slot) (frame : Bytes) (s : State) :
    (mediaArrives n frame s).pending = s.pending ∧ (mediaArrives n frame s).bf = s.bf ∧
    (mediaArrives n frame s).ls = s.ls ∧ (mediaArrives n frame s).lbu = s.lbu ∧ (mediaArrives n frame s).me = s.me ∧
    (mediaArrives n frame s).qm = s.qm ∧ (mediaArrives n frame s).ppu = s.ppu ∧ (mediaArrives n frame s).fu = s.fu ∧
    (mediaArrives n frame s).du = s.du ∧ (mediaArrives n frame s).tr = s.tr ∧
    (mediaArrives n frame s).clock = s.clock ∧ (mediaArrives n frame s).out = s.out ∧
    (mediaArrives n frame s).free = s.free := by
  unfold mediaArrives
  (repeat' split) <;> simp

@[simp] theorem mediaPeriod_frame (n : Slot) (s : State) :
    (mediaPeriod n s).pending = s.pending ∧ (mediaPeriod n s).bf = s.bf ∧ (mediaPeriod n s).ls = s.ls ∧
    (mediaPeriod n s).lbu = s.lbu ∧ (mediaPeriod n s).me = s.me ∧ (mediaPeriod n s).qm = s.qm ∧
    (mediaPeriod n s).ppu = s.ppu ∧ (mediaPeriod n s).cc = s.cc ∧ (mediaPeriod n s).fu = s.fu ∧
    (mediaPeriod n s).du = s.du ∧ (mediaPeriod n s).tr = s.tr ∧ (mediaPeriod n s).counters = s.counters ∧
    (mediaPeriod n s).clock = s.clock ∧ (mediaPeriod n s).out = s.out ∧ (mediaPeriod n s).free = s.free := by
  simp [mediaPeriod]

@[simp] theorem playTone_frame (p : Port) (kind : ToneKind) (s : State) :
    (playTone p kind s).1.pending = s.pending ∧ (playTone p kind s).1.bf = s.bf ∧ (playTone p kind s).1.ls = s.ls ∧
    (playTone p kind s).1.lbu = s.lbu ∧ (playTone p kind s).1.me = s.me ∧ (playTone p kind s).1.qm = s.qm ∧
    (playTone p kind s).1.ppu = s.ppu ∧ (playTone p kind s).1.cc = s.cc ∧ (playTone p kind s).1.fu = s.fu ∧
    (playTone p kind s).1.du = s.du ∧ (playTone p kind s).1.tr = s.tr ∧ (playTone p kind s).1.counters = s.counters ∧
    (playTone p kind s).1.clock = s.clock ∧ (playTone p kind s).1.out = s.out ∧
    (playTone p kind s).1.free = s.free := by
  unfold playTone
  (repeat' split) <;> simp

@[simp] theorem playCall_frame (p : Port) (n : Slot) (s : State) :
    (playCall p n s).1.pending = s.pending ∧ (playCall p n s).1.bf = s.bf ∧ (playCall p n s).1.ls = s.ls ∧
    (playCall p n s).1.lbu = s.lbu ∧ (playCall p n s).1.me = s.me ∧ (playCall p n s).1.qm = s.qm ∧
    (playCall p n s).1.ppu = s.ppu ∧ (playCall p n s).1.cc = s.cc ∧ (playCall p n s).1.fu = s.fu ∧
    (playCall p n s).1.du = s.du ∧ (playCall p n s).1.tr = s.tr ∧ (playCall p n s).1.counters = s.counters ∧
    (playCall p n s).1.clock = s.clock ∧ (playCall p n s).1.out = s.out ∧ (playCall p n s).1.free = s.free := by
  unfold playCall
  (repeat' split) <;> simp_all

@[simp] theorem playEcho_frame (p : Port) (t : PortTest) (s : State) :
    (playEcho p t s).1.pending = s.pending ∧ (playEcho p t s).1.bf = s.bf ∧ (playEcho p t s).1.ls = s.ls ∧
    (playEcho p t s).1.lbu = s.lbu ∧ (playEcho p t s).1.me = s.me ∧ (playEcho p t s).1.qm = s.qm ∧
    (playEcho p t s).1.ppu = s.ppu ∧ (playEcho p t s).1.cc = s.cc ∧ (playEcho p t s).1.fu = s.fu ∧
    (playEcho p t s).1.du = s.du ∧ (playEcho p t s).1.counters = s.counters ∧ (playEcho p t s).1.clock = s.clock ∧
    (playEcho p t s).1.out = s.out ∧ (playEcho p t s).1.free = s.free := by
  unfold playEcho
  (repeat' split) <;> simp_all

@[simp] theorem outputSample_frame (p : Port) (s : State) :
    (outputSample p s).1.pending = s.pending ∧ (outputSample p s).1.bf = s.bf ∧ (outputSample p s).1.ls = s.ls ∧
    (outputSample p s).1.lbu = s.lbu ∧ (outputSample p s).1.me = s.me ∧ (outputSample p s).1.qm = s.qm ∧
    (outputSample p s).1.ppu = s.ppu ∧ (outputSample p s).1.cc = s.cc ∧ (outputSample p s).1.fu = s.fu ∧
    (outputSample p s).1.du = s.du ∧ (outputSample p s).1.counters = s.counters ∧
    (outputSample p s).1.clock = s.clock ∧ (outputSample p s).1.out = s.out ∧ (outputSample p s).1.free = s.free := by
  unfold outputSample
  (repeat' split) <;> simp

@[simp] theorem giveSample_frame (p : Port) (s : State) :
    (giveSample p s).pending = s.pending ∧ (giveSample p s).bf = s.bf ∧ (giveSample p s).ls = s.ls ∧
    (giveSample p s).lbu = s.lbu ∧ (giveSample p s).me = s.me ∧ (giveSample p s).qm = s.qm ∧
    (giveSample p s).ppu = s.ppu ∧ (giveSample p s).cc = s.cc ∧ (giveSample p s).fu = s.fu ∧
    (giveSample p s).du = s.du ∧ (giveSample p s).counters = s.counters ∧ (giveSample p s).clock = s.clock ∧
    (giveSample p s).free = s.free := by
  simp [giveSample]

@[simp] theorem sampleInstant_frame (a b : Int) (pins : Pins) (s : State) :
    (sampleInstant a b pins s).pending = s.pending ∧ (sampleInstant a b pins s).bf = s.bf ∧
    (sampleInstant a b pins s).ls = s.ls ∧ (sampleInstant a b pins s).lbu = s.lbu ∧
    (sampleInstant a b pins s).me = s.me ∧ (sampleInstant a b pins s).qm = s.qm ∧
    (sampleInstant a b pins s).ppu = s.ppu ∧ (sampleInstant a b pins s).cc = s.cc ∧
    (sampleInstant a b pins s).fu = s.fu ∧ (sampleInstant a b pins s).du = s.du ∧
    (sampleInstant a b pins s).counters = s.counters ∧ (sampleInstant a b pins s).free = s.free := by
  simp [sampleInstant]

@[simp] theorem keepThreshold_frame (k : FaultKind) (count threshold : Nat) (s : State) :
    (keepThreshold k count threshold s).pending = s.pending ∧ (keepThreshold k count threshold s).bf = s.bf ∧
    (keepThreshold k count threshold s).ls = s.ls ∧ (keepThreshold k count threshold s).lbu = s.lbu ∧
    (keepThreshold k count threshold s).ppu = s.ppu ∧ (keepThreshold k count threshold s).cc = s.cc ∧
    (keepThreshold k count threshold s).mdu = s.mdu ∧ (keepThreshold k count threshold s).du = s.du ∧
    (keepThreshold k count threshold s).tr = s.tr ∧ (keepThreshold k count threshold s).clock = s.clock ∧
    (keepThreshold k count threshold s).out = s.out ∧ (keepThreshold k count threshold s).free = s.free := by
  unfold keepThreshold
  split <;> simp

@[simp] theorem mediaSecond_frame (s : State) :
    (mediaSecond s).pending = s.pending ∧ (mediaSecond s).bf = s.bf ∧ (mediaSecond s).ls = s.ls ∧
    (mediaSecond s).lbu = s.lbu ∧ (mediaSecond s).ppu = s.ppu ∧ (mediaSecond s).cc = s.cc ∧
    (mediaSecond s).du = s.du ∧ (mediaSecond s).tr = s.tr ∧ (mediaSecond s).clock = s.clock ∧
    (mediaSecond s).out = s.out ∧ (mediaSecond s).free = s.free := by
  unfold mediaSecond
  simp only []
  (repeat' split) <;> simp

@[simp] theorem sendHalt_frame (s : State) :
    (sendHalt s).pending = s.pending ∧ (sendHalt s).bf = s.bf ∧ (sendHalt s).ls = s.ls ∧ (sendHalt s).lbu = s.lbu ∧
    (sendHalt s).me = s.me ∧ (sendHalt s).qm = s.qm ∧ (sendHalt s).ppu = s.ppu ∧ (sendHalt s).cc = s.cc ∧
    (sendHalt s).mdu = s.mdu ∧ (sendHalt s).fu = s.fu ∧ (sendHalt s).du = s.du ∧ (sendHalt s).tr = s.tr ∧
    (sendHalt s).counters = s.counters ∧ (sendHalt s).clock = s.clock ∧ (sendHalt s).free = s.free := by
  simp [sendHalt]

@[simp] theorem sendTrain_frame (i : Fin 8) (s : State) :
    (sendTrain i s).pending = s.pending ∧ (sendTrain i s).bf = s.bf ∧ (sendTrain i s).lbu = s.lbu ∧
    (sendTrain i s).me = s.me ∧ (sendTrain i s).qm = s.qm ∧ (sendTrain i s).ppu = s.ppu ∧ (sendTrain i s).cc = s.cc ∧
    (sendTrain i s).mdu = s.mdu ∧ (sendTrain i s).fu = s.fu ∧ (sendTrain i s).du = s.du ∧ (sendTrain i s).tr = s.tr ∧
    (sendTrain i s).clock = s.clock ∧ (sendTrain i s).free = s.free := by
  simp [sendTrain]

@[simp] theorem enterLink_frame (new : LinkState) (s : State) :
    (enterLink new s).pending = s.pending ∧ (enterLink new s).bf = s.bf ∧ (enterLink new s).lbu = s.lbu ∧
    (enterLink new s).ppu = s.ppu ∧ (enterLink new s).cc = s.cc ∧ (enterLink new s).mdu = s.mdu ∧
    (enterLink new s).du = s.du ∧ (enterLink new s).tr = s.tr ∧ (enterLink new s).clock = s.clock ∧
    (enterLink new s).out = s.out ∧ (enterLink new s).free = s.free := by
  simp [enterLink]

@[simp] theorem dropClaim_frame (s : State) :
    (dropClaim s).pending = s.pending ∧ (dropClaim s).bf = s.bf ∧ (dropClaim s).ls = s.ls ∧ (dropClaim s).me = s.me ∧
    (dropClaim s).qm = s.qm ∧ (dropClaim s).ppu = s.ppu ∧ (dropClaim s).cc = s.cc ∧ (dropClaim s).mdu = s.mdu ∧
    (dropClaim s).fu = s.fu ∧ (dropClaim s).du = s.du ∧ (dropClaim s).tr = s.tr ∧ (dropClaim s).clock = s.clock ∧
    (dropClaim s).out = s.out ∧ (dropClaim s).free = s.free := by
  unfold dropClaim
  split <;> simp

@[simp] theorem leaveCarrying_frame (s : State) :
    (leaveCarrying s).pending = s.pending ∧ (leaveCarrying s).ppu = s.ppu ∧ (leaveCarrying s).cc = s.cc ∧
    (leaveCarrying s).mdu = s.mdu ∧ (leaveCarrying s).du = s.du ∧ (leaveCarrying s).tr = s.tr ∧
    (leaveCarrying s).clock = s.clock ∧ (leaveCarrying s).out = s.out ∧ (leaveCarrying s).free = s.free := by
  simp [leaveCarrying]

@[simp] theorem stepUpTo_frame (i : Fin 8) (s : State) :
    (stepUpTo i s).pending = s.pending ∧ (stepUpTo i s).ppu = s.ppu ∧ (stepUpTo i s).cc = s.cc ∧
    (stepUpTo i s).mdu = s.mdu ∧ (stepUpTo i s).du = s.du ∧ (stepUpTo i s).tr = s.tr ∧
    (stepUpTo i s).clock = s.clock ∧ (stepUpTo i s).free = s.free := by
  simp [stepUpTo]

@[simp] theorem lastSlotFree_frame (s : State) :
    (lastSlotFree s).pending = s.pending ∧ (lastSlotFree s).ppu = s.ppu ∧ (lastSlotFree s).cc = s.cc ∧
    (lastSlotFree s).mdu = s.mdu ∧ (lastSlotFree s).du = s.du ∧ (lastSlotFree s).tr = s.tr ∧
    (lastSlotFree s).clock = s.clock ∧ (lastSlotFree s).free = s.free := by
  unfold lastSlotFree
  (repeat' split) <;> simp

@[simp] theorem enterPort_frame (p : Port) (new : PortState) (s : State) :
    (enterPort p new s).pending = s.pending ∧ (enterPort p new s).bf = s.bf ∧ (enterPort p new s).ls = s.ls ∧
    (enterPort p new s).lbu = s.lbu ∧ (enterPort p new s).me = s.me ∧ (enterPort p new s).qm = s.qm ∧
    (enterPort p new s).cc = s.cc ∧ (enterPort p new s).fu = s.fu ∧ (enterPort p new s).du = s.du ∧
    (enterPort p new s).tr = s.tr ∧ (enterPort p new s).counters = s.counters ∧ (enterPort p new s).clock = s.clock ∧
    (enterPort p new s).out = s.out ∧ (enterPort p new s).free = s.free := by
  simp [enterPort]

@[simp] theorem quieten_frame (p : Port) (s : State) :
    (quieten p s).pending = s.pending ∧ (quieten p s).bf = s.bf ∧ (quieten p s).ls = s.ls ∧
    (quieten p s).lbu = s.lbu ∧ (quieten p s).me = s.me ∧ (quieten p s).qm = s.qm ∧ (quieten p s).cc = s.cc ∧
    (quieten p s).mdu = s.mdu ∧ (quieten p s).fu = s.fu ∧ (quieten p s).du = s.du ∧ (quieten p s).tr = s.tr ∧
    (quieten p s).counters = s.counters ∧ (quieten p s).clock = s.clock ∧ (quieten p s).out = s.out ∧
    (quieten p s).free = s.free := by
  simp [quieten]

@[simp] theorem loadChannel_frame (p : Port) (c : CadenceChannel) (s : State) :
    (loadChannel p c s).pending = s.pending ∧ (loadChannel p c s).bf = s.bf ∧ (loadChannel p c s).ls = s.ls ∧
    (loadChannel p c s).lbu = s.lbu ∧ (loadChannel p c s).me = s.me ∧ (loadChannel p c s).qm = s.qm ∧
    (loadChannel p c s).cc = s.cc ∧ (loadChannel p c s).mdu = s.mdu ∧ (loadChannel p c s).fu = s.fu ∧
    (loadChannel p c s).du = s.du ∧ (loadChannel p c s).tr = s.tr ∧ (loadChannel p c s).counters = s.counters ∧
    (loadChannel p c s).clock = s.clock ∧ (loadChannel p c s).out = s.out ∧ (loadChannel p c s).free = s.free := by
  simp [loadChannel]

@[simp] theorem stopChannel_frame (p : Port) (s : State) :
    (stopChannel p s).pending = s.pending ∧ (stopChannel p s).bf = s.bf ∧ (stopChannel p s).ls = s.ls ∧
    (stopChannel p s).lbu = s.lbu ∧ (stopChannel p s).me = s.me ∧ (stopChannel p s).qm = s.qm ∧
    (stopChannel p s).cc = s.cc ∧ (stopChannel p s).mdu = s.mdu ∧ (stopChannel p s).fu = s.fu ∧
    (stopChannel p s).du = s.du ∧ (stopChannel p s).tr = s.tr ∧ (stopChannel p s).counters = s.counters ∧
    (stopChannel p s).clock = s.clock ∧ (stopChannel p s).out = s.out ∧ (stopChannel p s).free = s.free := by
  simp [stopChannel]

@[simp] theorem startRing_frame (p : Port) (cad : Fin 8) (s : State) :
    (startRing p cad s).pending = s.pending ∧ (startRing p cad s).bf = s.bf ∧ (startRing p cad s).ls = s.ls ∧
    (startRing p cad s).lbu = s.lbu ∧ (startRing p cad s).me = s.me ∧ (startRing p cad s).qm = s.qm ∧
    (startRing p cad s).cc = s.cc ∧ (startRing p cad s).mdu = s.mdu ∧ (startRing p cad s).fu = s.fu ∧
    (startRing p cad s).du = s.du ∧ (startRing p cad s).tr = s.tr ∧ (startRing p cad s).counters = s.counters ∧
    (startRing p cad s).clock = s.clock ∧ (startRing p cad s).out = s.out ∧ (startRing p cad s).free = s.free := by
  unfold startRing
  split <;> simp

@[simp] theorem toneSegment_frame (p : Port) (k : ToneKind) (on : Bool) (s : State) :
    (toneSegment p k on s).pending = s.pending ∧ (toneSegment p k on s).bf = s.bf ∧
    (toneSegment p k on s).ls = s.ls ∧ (toneSegment p k on s).lbu = s.lbu ∧ (toneSegment p k on s).me = s.me ∧
    (toneSegment p k on s).qm = s.qm ∧ (toneSegment p k on s).cc = s.cc ∧ (toneSegment p k on s).fu = s.fu ∧
    (toneSegment p k on s).du = s.du ∧ (toneSegment p k on s).tr = s.tr ∧
    (toneSegment p k on s).counters = s.counters ∧ (toneSegment p k on s).clock = s.clock ∧
    (toneSegment p k on s).out = s.out ∧ (toneSegment p k on s).free = s.free := by
  simp [toneSegment]

@[simp] theorem startTone_frame (p : Port) (k : ToneKind) (s : State) :
    (startTone p k s).pending = s.pending ∧ (startTone p k s).bf = s.bf ∧ (startTone p k s).ls = s.ls ∧
    (startTone p k s).lbu = s.lbu ∧ (startTone p k s).me = s.me ∧ (startTone p k s).qm = s.qm ∧
    (startTone p k s).cc = s.cc ∧ (startTone p k s).fu = s.fu ∧ (startTone p k s).du = s.du ∧
    (startTone p k s).tr = s.tr ∧ (startTone p k s).counters = s.counters ∧ (startTone p k s).clock = s.clock ∧
    (startTone p k s).out = s.out ∧ (startTone p k s).free = s.free := by
  simp [startTone]

@[simp] theorem startPark_frame (p : Port) (s : State) :
    (startPark p s).pending = s.pending ∧ (startPark p s).bf = s.bf ∧ (startPark p s).ls = s.ls ∧
    (startPark p s).lbu = s.lbu ∧ (startPark p s).me = s.me ∧ (startPark p s).qm = s.qm ∧ (startPark p s).cc = s.cc ∧
    (startPark p s).mdu = s.mdu ∧ (startPark p s).fu = s.fu ∧ (startPark p s).du = s.du ∧ (startPark p s).tr = s.tr ∧
    (startPark p s).counters = s.counters ∧ (startPark p s).clock = s.clock ∧ (startPark p s).out = s.out ∧
    (startPark p s).free = s.free := by
  simp [startPark]

@[simp] theorem toReleased_frame (p : Port) (s : State) :
    (toReleased p s).pending = s.pending ∧ (toReleased p s).bf = s.bf ∧ (toReleased p s).ls = s.ls ∧
    (toReleased p s).lbu = s.lbu ∧ (toReleased p s).me = s.me ∧ (toReleased p s).qm = s.qm ∧
    (toReleased p s).cc = s.cc ∧ (toReleased p s).fu = s.fu ∧ (toReleased p s).du = s.du ∧
    (toReleased p s).tr = s.tr ∧ (toReleased p s).counters = s.counters ∧ (toReleased p s).clock = s.clock ∧
    (toReleased p s).out = s.out ∧ (toReleased p s).free = s.free := by
  simp [toReleased]

@[simp] theorem toLocalTone_frame (p : Port) (k : ToneKind) (s : State) :
    (toLocalTone p k s).pending = s.pending ∧ (toLocalTone p k s).bf = s.bf ∧ (toLocalTone p k s).ls = s.ls ∧
    (toLocalTone p k s).lbu = s.lbu ∧ (toLocalTone p k s).me = s.me ∧ (toLocalTone p k s).qm = s.qm ∧
    (toLocalTone p k s).cc = s.cc ∧ (toLocalTone p k s).fu = s.fu ∧ (toLocalTone p k s).du = s.du ∧
    (toLocalTone p k s).tr = s.tr ∧ (toLocalTone p k s).counters = s.counters ∧ (toLocalTone p k s).clock = s.clock ∧
    (toLocalTone p k s).out = s.out ∧ (toLocalTone p k s).free = s.free := by
  simp [toLocalTone]

@[simp] theorem toIdle_frame (p : Port) (s : State) :
    (toIdle p s).pending = s.pending ∧ (toIdle p s).bf = s.bf ∧ (toIdle p s).ls = s.ls ∧ (toIdle p s).lbu = s.lbu ∧
    (toIdle p s).me = s.me ∧ (toIdle p s).qm = s.qm ∧ (toIdle p s).cc = s.cc ∧ (toIdle p s).fu = s.fu ∧
    (toIdle p s).du = s.du ∧ (toIdle p s).tr = s.tr ∧ (toIdle p s).counters = s.counters ∧
    (toIdle p s).clock = s.clock ∧ (toIdle p s).out = s.out ∧ (toIdle p s).free = s.free := by
  simp [toIdle]

@[simp] theorem toParked_frame (p : Port) (s : State) :
    (toParked p s).pending = s.pending ∧ (toParked p s).bf = s.bf ∧ (toParked p s).ls = s.ls ∧
    (toParked p s).lbu = s.lbu ∧ (toParked p s).cc = s.cc ∧ (toParked p s).du = s.du ∧ (toParked p s).tr = s.tr ∧
    (toParked p s).clock = s.clock ∧ (toParked p s).out = s.out ∧ (toParked p s).free = s.free := by
  simp [toParked]

@[simp] theorem leftParked_frame (s : State) :
    (leftParked s).pending = s.pending ∧ (leftParked s).bf = s.bf ∧ (leftParked s).ls = s.ls ∧
    (leftParked s).lbu = s.lbu ∧ (leftParked s).me = s.me ∧ (leftParked s).qm = s.qm ∧ (leftParked s).ppu = s.ppu ∧
    (leftParked s).cc = s.cc ∧ (leftParked s).mdu = s.mdu ∧ (leftParked s).du = s.du ∧ (leftParked s).tr = s.tr ∧
    (leftParked s).counters = s.counters ∧ (leftParked s).clock = s.clock ∧ (leftParked s).out = s.out ∧
    (leftParked s).free = s.free := by
  unfold leftParked
  split <;> simp

@[simp] theorem unpair_frame (p : Port) (s : State) :
    (unpair p s).pending = s.pending ∧ (unpair p s).bf = s.bf ∧ (unpair p s).ls = s.ls ∧ (unpair p s).lbu = s.lbu ∧
    (unpair p s).me = s.me ∧ (unpair p s).qm = s.qm ∧ (unpair p s).cc = s.cc ∧ (unpair p s).mdu = s.mdu ∧
    (unpair p s).fu = s.fu ∧ (unpair p s).du = s.du ∧ (unpair p s).tr = s.tr ∧ (unpair p s).counters = s.counters ∧
    (unpair p s).clock = s.clock ∧ (unpair p s).out = s.out ∧ (unpair p s).free = s.free := by
  unfold unpair
  split <;> simp

@[simp] theorem endRinging_frame (p : Port) (s : State) :
    (endRinging p s).pending = s.pending ∧ (endRinging p s).bf = s.bf ∧ (endRinging p s).ls = s.ls ∧
    (endRinging p s).lbu = s.lbu ∧ (endRinging p s).me = s.me ∧ (endRinging p s).qm = s.qm ∧
    (endRinging p s).cc = s.cc ∧ (endRinging p s).mdu = s.mdu ∧ (endRinging p s).fu = s.fu ∧
    (endRinging p s).du = s.du ∧ (endRinging p s).tr = s.tr ∧ (endRinging p s).counters = s.counters ∧
    (endRinging p s).clock = s.clock ∧ (endRinging p s).out = s.out ∧ (endRinging p s).free = s.free := by
  simp [endRinging]

@[simp] theorem stopRinging_frame (p : Port) (s : State) :
    (stopRinging p s).pending = s.pending ∧ (stopRinging p s).bf = s.bf ∧ (stopRinging p s).ls = s.ls ∧
    (stopRinging p s).lbu = s.lbu ∧ (stopRinging p s).me = s.me ∧ (stopRinging p s).qm = s.qm ∧
    (stopRinging p s).cc = s.cc ∧ (stopRinging p s).fu = s.fu ∧ (stopRinging p s).du = s.du ∧
    (stopRinging p s).tr = s.tr ∧ (stopRinging p s).counters = s.counters ∧ (stopRinging p s).clock = s.clock ∧
    (stopRinging p s).out = s.out ∧ (stopRinging p s).free = s.free := by
  unfold stopRinging
  split <;> simp

@[simp] theorem ringOne_frame (p : Port) (s : State) :
    (ringOne p s).pending = s.pending ∧ (ringOne p s).bf = s.bf ∧ (ringOne p s).ls = s.ls ∧
    (ringOne p s).lbu = s.lbu ∧ (ringOne p s).cc = s.cc ∧ (ringOne p s).du = s.du ∧ (ringOne p s).tr = s.tr ∧
    (ringOne p s).clock = s.clock ∧ (ringOne p s).out = s.out ∧ (ringOne p s).free = s.free := by
  unfold ringOne
  (repeat' split) <;> simp

@[simp] theorem startRings_frame (cad : Fin 8) (group : Bool) (rung : PortSet) (s : State) :
    (startRings cad group rung s).pending = s.pending ∧ (startRings cad group rung s).bf = s.bf ∧
    (startRings cad group rung s).ls = s.ls ∧ (startRings cad group rung s).lbu = s.lbu ∧
    (startRings cad group rung s).me = s.me ∧ (startRings cad group rung s).qm = s.qm ∧
    (startRings cad group rung s).cc = s.cc ∧ (startRings cad group rung s).mdu = s.mdu ∧
    (startRings cad group rung s).fu = s.fu ∧ (startRings cad group rung s).du = s.du ∧
    (startRings cad group rung s).tr = s.tr ∧ (startRings cad group rung s).counters = s.counters ∧
    (startRings cad group rung s).clock = s.clock ∧ (startRings cad group rung s).out = s.out ∧
    (startRings cad group rung s).free = s.free := by
  unfold startRings
  (repeat' split) <;> simp

@[simp] theorem ringPorts_frame (ports : PortSet) (cad : Fin 8) (group : Bool) (s : State) :
    (ringPorts ports cad group s).1.pending = s.pending ∧ (ringPorts ports cad group s).1.bf = s.bf ∧
    (ringPorts ports cad group s).1.ls = s.ls ∧ (ringPorts ports cad group s).1.lbu = s.lbu ∧
    (ringPorts ports cad group s).1.cc = s.cc ∧ (ringPorts ports cad group s).1.du = s.du ∧
    (ringPorts ports cad group s).1.tr = s.tr ∧ (ringPorts ports cad group s).1.clock = s.clock ∧
    (ringPorts ports cad group s).1.out = s.out ∧ (ringPorts ports cad group s).1.free = s.free := by
  simp [ringPorts]

@[simp] theorem segmentEnd_frame (p : Port) (s : State) :
    (segmentEnd p s).pending = s.pending ∧ (segmentEnd p s).bf = s.bf ∧ (segmentEnd p s).ls = s.ls ∧
    (segmentEnd p s).lbu = s.lbu ∧ (segmentEnd p s).me = s.me ∧ (segmentEnd p s).qm = s.qm ∧
    (segmentEnd p s).cc = s.cc ∧ (segmentEnd p s).fu = s.fu ∧ (segmentEnd p s).du = s.du ∧
    (segmentEnd p s).tr = s.tr ∧ (segmentEnd p s).counters = s.counters ∧ (segmentEnd p s).clock = s.clock ∧
    (segmentEnd p s).out = s.out ∧ (segmentEnd p s).free = s.free := by
  unfold segmentEnd
  simp only []
  (repeat' split) <;> simp

end Sys2Proof.Machine
end

