-- ==== Sys2Proof/Laws/FramesB.lean ====
section
/-! SUPPORT. Frames: the pieces of state that each operation from Machine/Calls.lean to Machine/Resets.lean leaves alone. One lemma per operation. -/

namespace Sys2Proof.Machine

@[simp] theorem queueSignal_frame (n : Slot) (g : Signal) (s : State) :
    (queueSignal n g s).pending = s.pending ∧ (queueSignal n g s).bf = s.bf ∧ (queueSignal n g s).ls = s.ls ∧
    (queueSignal n g s).lbu = s.lbu ∧ (queueSignal n g s).me = s.me ∧ (queueSignal n g s).qm = s.qm ∧
    (queueSignal n g s).ppu = s.ppu ∧ (queueSignal n g s).mdu = s.mdu ∧ (queueSignal n g s).fu = s.fu ∧
    (queueSignal n g s).du = s.du ∧ (queueSignal n g s).tr = s.tr ∧ (queueSignal n g s).clock = s.clock ∧
    (queueSignal n g s).out = s.out ∧ (queueSignal n g s).free = s.free := by
  unfold queueSignal
  split <;> simp

@[simp] theorem frontSignal_frame (n : Slot) (g : Signal) (s : State) :
    (frontSignal n g s).pending = s.pending ∧ (frontSignal n g s).bf = s.bf ∧ (frontSignal n g s).ls = s.ls ∧
    (frontSignal n g s).lbu = s.lbu ∧ (frontSignal n g s).me = s.me ∧ (frontSignal n g s).qm = s.qm ∧
    (frontSignal n g s).ppu = s.ppu ∧ (frontSignal n g s).mdu = s.mdu ∧ (frontSignal n g s).fu = s.fu ∧
    (frontSignal n g s).du = s.du ∧ (frontSignal n g s).tr = s.tr ∧ (frontSignal n g s).clock = s.clock ∧
    (frontSignal n g s).out = s.out ∧ (frontSignal n g s).free = s.free := by
  simp [frontSignal]

@[simp] theorem occupy_frame (n : Slot) (st : SlotState) (dir : CallDir) (s : State) :
    (occupy n st dir s).pending = s.pending ∧ (occupy n st dir s).bf = s.bf ∧ (occupy n st dir s).ls = s.ls ∧
    (occupy n st dir s).lbu = s.lbu ∧ (occupy n st dir s).me = s.me ∧ (occupy n st dir s).qm = s.qm ∧
    (occupy n st dir s).ppu = s.ppu ∧ (occupy n st dir s).mdu = s.mdu ∧ (occupy n st dir s).fu = s.fu ∧
    (occupy n st dir s).du = s.du ∧ (occupy n st dir s).tr = s.tr ∧ (occupy n st dir s).clock = s.clock ∧
    (occupy n st dir s).out = s.out ∧ (occupy n st dir s).free = s.free := by
  simp [occupy]

@[simp] theorem freeSlot_frame (n : Slot) (cause : Cause) (s : State) :
    (freeSlot n cause s).pending = s.pending ∧ (freeSlot n cause s).bf = s.bf ∧ (freeSlot n cause s).ls = s.ls ∧
    (freeSlot n cause s).me = s.me ∧ (freeSlot n cause s).qm = s.qm ∧ (freeSlot n cause s).ppu = s.ppu ∧
    (freeSlot n cause s).fu = s.fu ∧ (freeSlot n cause s).du = s.du ∧ (freeSlot n cause s).tr = s.tr ∧
    (freeSlot n cause s).clock = s.clock ∧ (freeSlot n cause s).out = s.out ∧ (freeSlot n cause s).free = s.free := by
  simp [freeSlot]

@[simp] theorem reportIfIdle_frame (s : State) :
    (reportIfIdle s).pending = s.pending ∧ (reportIfIdle s).ppu = s.ppu ∧ (reportIfIdle s).cc = s.cc ∧
    (reportIfIdle s).mdu = s.mdu ∧ (reportIfIdle s).du = s.du ∧ (reportIfIdle s).tr = s.tr ∧
    (reportIfIdle s).clock = s.clock ∧ (reportIfIdle s).free = s.free := by
  unfold reportIfIdle
  split <;> simp

@[simp] theorem attach_frame (p : Port) (n : Slot) (s : State) :
    (attach p n s).pending = s.pending ∧ (attach p n s).bf = s.bf ∧ (attach p n s).ls = s.ls ∧
    (attach p n s).lbu = s.lbu ∧ (attach p n s).me = s.me ∧ (attach p n s).qm = s.qm ∧ (attach p n s).fu = s.fu ∧
    (attach p n s).du = s.du ∧ (attach p n s).tr = s.tr ∧ (attach p n s).counters = s.counters ∧
    (attach p n s).clock = s.clock ∧ (attach p n s).out = s.out ∧ (attach p n s).free = s.free := by
  simp [attach]

@[simp] theorem join_frame (p : Port) (n : Slot) (s : State) :
    (join p n s).pending = s.pending ∧ (join p n s).bf = s.bf ∧ (join p n s).ls = s.ls ∧ (join p n s).lbu = s.lbu ∧
    (join p n s).me = s.me ∧ (join p n s).qm = s.qm ∧ (join p n s).fu = s.fu ∧ (join p n s).du = s.du ∧
    (join p n s).tr = s.tr ∧ (join p n s).clock = s.clock ∧ (join p n s).out = s.out ∧
    (join p n s).free = s.free := by
  simp [join]

@[simp] theorem originate_frame (p : Port) (n : Slot) (s : State) :
    (originate p n s).pending = s.pending ∧ (originate p n s).bf = s.bf ∧ (originate p n s).ls = s.ls ∧
    (originate p n s).lbu = s.lbu ∧ (originate p n s).me = s.me ∧ (originate p n s).qm = s.qm ∧
    (originate p n s).fu = s.fu ∧ (originate p n s).du = s.du ∧ (originate p n s).tr = s.tr ∧
    (originate p n s).clock = s.clock ∧ (originate p n s).out = s.out ∧ (originate p n s).free = s.free := by
  simp [originate]

@[simp] theorem refuseOff_frame (p : Port) (s : State) :
    (refuseOff p s).pending = s.pending ∧ (refuseOff p s).bf = s.bf ∧ (refuseOff p s).ls = s.ls ∧
    (refuseOff p s).lbu = s.lbu ∧ (refuseOff p s).cc = s.cc ∧ (refuseOff p s).du = s.du ∧ (refuseOff p s).tr = s.tr ∧
    (refuseOff p s).clock = s.clock ∧ (refuseOff p s).out = s.out ∧ (refuseOff p s).free = s.free := by
  simp [refuseOff]

@[simp] theorem offHook_frame (p : Port) (s : State) :
    (offHook p s).pending = s.pending ∧ (offHook p s).bf = s.bf ∧ (offHook p s).ls = s.ls ∧
    (offHook p s).lbu = s.lbu ∧ (offHook p s).du = s.du ∧ (offHook p s).tr = s.tr ∧ (offHook p s).clock = s.clock ∧
    (offHook p s).out = s.out ∧ (offHook p s).free = s.free := by
  unfold offHook
  simp only []
  (repeat' split) <;> simp

@[simp] theorem takeIfLifted_frame (p : Port) (s : State) :
    (takeIfLifted p s).pending = s.pending ∧ (takeIfLifted p s).bf = s.bf ∧ (takeIfLifted p s).ls = s.ls ∧
    (takeIfLifted p s).lbu = s.lbu ∧ (takeIfLifted p s).du = s.du ∧ (takeIfLifted p s).tr = s.tr ∧
    (takeIfLifted p s).clock = s.clock ∧ (takeIfLifted p s).out = s.out ∧ (takeIfLifted p s).free = s.free := by
  unfold takeIfLifted
  split <;> simp

@[simp] theorem takeLifted_frame (ports : PortSet) (s : State) :
    (takeLifted ports s).pending = s.pending ∧ (takeLifted ports s).bf = s.bf ∧ (takeLifted ports s).ls = s.ls ∧
    (takeLifted ports s).lbu = s.lbu ∧ (takeLifted ports s).du = s.du ∧ (takeLifted ports s).tr = s.tr ∧
    (takeLifted ports s).clock = s.clock ∧ (takeLifted ports s).out = s.out ∧ (takeLifted ports s).free = s.free := by
  simp [takeLifted]

@[simp] theorem stopAll_frame (ports : PortSet) (s : State) :
    (stopAll ports s).pending = s.pending ∧ (stopAll ports s).bf = s.bf ∧ (stopAll ports s).ls = s.ls ∧
    (stopAll ports s).lbu = s.lbu ∧ (stopAll ports s).me = s.me ∧ (stopAll ports s).qm = s.qm ∧
    (stopAll ports s).cc = s.cc ∧ (stopAll ports s).fu = s.fu ∧ (stopAll ports s).du = s.du ∧
    (stopAll ports s).tr = s.tr ∧ (stopAll ports s).counters = s.counters ∧ (stopAll ports s).clock = s.clock ∧
    (stopAll ports s).out = s.out ∧ (stopAll ports s).free = s.free := by
  simp [stopAll]

@[simp] theorem releaseAll_frame (ports : PortSet) (s : State) :
    (releaseAll ports s).pending = s.pending ∧ (releaseAll ports s).bf = s.bf ∧ (releaseAll ports s).ls = s.ls ∧
    (releaseAll ports s).lbu = s.lbu ∧ (releaseAll ports s).me = s.me ∧ (releaseAll ports s).qm = s.qm ∧
    (releaseAll ports s).cc = s.cc ∧ (releaseAll ports s).fu = s.fu ∧ (releaseAll ports s).du = s.du ∧
    (releaseAll ports s).tr = s.tr ∧ (releaseAll ports s).counters = s.counters ∧
    (releaseAll ports s).clock = s.clock ∧ (releaseAll ports s).out = s.out ∧ (releaseAll ports s).free = s.free := by
  simp [releaseAll]

@[simp] theorem refuseAlert_frame (n : Slot) (cause : Cause) (s : State) :
    (refuseAlert n cause s).pending = s.pending ∧ (refuseAlert n cause s).bf = s.bf ∧
    (refuseAlert n cause s).ls = s.ls ∧ (refuseAlert n cause s).lbu = s.lbu ∧ (refuseAlert n cause s).me = s.me ∧
    (refuseAlert n cause s).qm = s.qm ∧ (refuseAlert n cause s).ppu = s.ppu ∧ (refuseAlert n cause s).mdu = s.mdu ∧
    (refuseAlert n cause s).fu = s.fu ∧ (refuseAlert n cause s).du = s.du ∧ (refuseAlert n cause s).tr = s.tr ∧
    (refuseAlert n cause s).clock = s.clock ∧ (refuseAlert n cause s).out = s.out ∧
    (refuseAlert n cause s).free = s.free := by
  simp [refuseAlert]

@[simp] theorem alertRings_frame (n : Slot) (ports : PortSet) (cad : Fin 8) (group : Bool) (s : State) :
    (alertRings n ports cad group s).pending = s.pending ∧ (alertRings n ports cad group s).du = s.du ∧
    (alertRings n ports cad group s).tr = s.tr ∧ (alertRings n ports cad group s).clock = s.clock ∧
    (alertRings n ports cad group s).free = s.free := by
  unfold alertRings
  simp only []
  (repeat' split) <;> simp

@[simp] theorem alert_frame (n : Slot) (cadence : Nat) (ports : PortSet) (group : Bool) (s : State) :
    (alert n cadence ports group s).pending = s.pending ∧ (alert n cadence ports group s).du = s.du ∧
    (alert n cadence ports group s).tr = s.tr ∧ (alert n cadence ports group s).clock = s.clock ∧
    (alert n cadence ports group s).free = s.free := by
  unfold alert
  (repeat' split) <;> simp

@[simp] theorem answer_frame (p : Port) (s : State) :
    (answer p s).pending = s.pending ∧ (answer p s).bf = s.bf ∧ (answer p s).ls = s.ls ∧ (answer p s).lbu = s.lbu ∧
    (answer p s).du = s.du ∧ (answer p s).tr = s.tr ∧ (answer p s).clock = s.clock ∧ (answer p s).out = s.out ∧
    (answer p s).free = s.free := by
  unfold answer
  split <;> simp

@[simp] theorem leaveRingSet_frame (p : Port) (cause : Cause) (s : State) :
    (leaveRingSet p cause s).pending = s.pending ∧ (leaveRingSet p cause s).ppu = s.ppu ∧
    (leaveRingSet p cause s).du = s.du ∧ (leaveRingSet p cause s).tr = s.tr ∧
    (leaveRingSet p cause s).clock = s.clock ∧ (leaveRingSet p cause s).free = s.free := by
  unfold leaveRingSet
  simp only []
  (repeat' split) <;> simp

@[simp] theorem alertLimit_frame (n : Slot) (s : State) :
    (alertLimit n s).pending = s.pending ∧ (alertLimit n s).du = s.du ∧ (alertLimit n s).tr = s.tr ∧
    (alertLimit n s).clock = s.clock ∧ (alertLimit n s).free = s.free := by
  simp [alertLimit]

@[simp] theorem cancel_frame (n : Slot) (s : State) :
    (cancel n s).pending = s.pending ∧ (cancel n s).du = s.du ∧ (cancel n s).tr = s.tr ∧
    (cancel n s).clock = s.clock ∧ (cancel n s).free = s.free := by
  simp [cancel]

@[simp] theorem connect_frame (n : Slot) (s : State) :
    (connect n s).pending = s.pending ∧ (connect n s).bf = s.bf ∧ (connect n s).ls = s.ls ∧
    (connect n s).lbu = s.lbu ∧ (connect n s).me = s.me ∧ (connect n s).qm = s.qm ∧ (connect n s).ppu = s.ppu ∧
    (connect n s).fu = s.fu ∧ (connect n s).du = s.du ∧ (connect n s).tr = s.tr ∧ (connect n s).clock = s.clock ∧
    (connect n s).out = s.out ∧ (connect n s).free = s.free := by
  simp [connect]

@[simp] theorem release_frame (n : Slot) (code : Nat) (s : State) :
    (release n code s).pending = s.pending ∧ (release n code s).du = s.du ∧ (release n code s).tr = s.tr ∧
    (release n code s).clock = s.clock ∧ (release n code s).free = s.free := by
  simp [release]

@[simp] theorem ignoreSignal_frame (s : State) :
    (ignoreSignal s).pending = s.pending ∧ (ignoreSignal s).bf = s.bf ∧ (ignoreSignal s).ls = s.ls ∧
    (ignoreSignal s).lbu = s.lbu ∧ (ignoreSignal s).me = s.me ∧ (ignoreSignal s).qm = s.qm ∧
    (ignoreSignal s).ppu = s.ppu ∧ (ignoreSignal s).cc = s.cc ∧ (ignoreSignal s).mdu = s.mdu ∧
    (ignoreSignal s).fu = s.fu ∧ (ignoreSignal s).du = s.du ∧ (ignoreSignal s).tr = s.tr ∧
    (ignoreSignal s).clock = s.clock ∧ (ignoreSignal s).out = s.out ∧ (ignoreSignal s).free = s.free := by
  simp [ignoreSignal]

@[simp] theorem signalArrives_frame (n : Slot) (frame : Bytes) (s : State) :
    (signalArrives n frame s).pending = s.pending ∧ (signalArrives n frame s).du = s.du ∧
    (signalArrives n frame s).tr = s.tr ∧ (signalArrives n frame s).clock = s.clock ∧
    (signalArrives n frame s).free = s.free := by
  unfold signalArrives
  simp only []
  (repeat' split) <;> simp

@[simp] theorem fromPort_frame (p : Port) (g : Signal) (s : State) :
    (fromPort p g s).pending = s.pending ∧ (fromPort p g s).bf = s.bf ∧ (fromPort p g s).ls = s.ls ∧
    (fromPort p g s).lbu = s.lbu ∧ (fromPort p g s).me = s.me ∧ (fromPort p g s).qm = s.qm ∧
    (fromPort p g s).ppu = s.ppu ∧ (fromPort p g s).mdu = s.mdu ∧ (fromPort p g s).fu = s.fu ∧
    (fromPort p g s).du = s.du ∧ (fromPort p g s).tr = s.tr ∧ (fromPort p g s).clock = s.clock ∧
    (fromPort p g s).out = s.out ∧ (fromPort p g s).free = s.free := by
  unfold fromPort
  split <;> simp

@[simp] theorem detach_frame (p : Port) (s : State) :
    (detach p s).pending = s.pending ∧ (detach p s).ppu = s.ppu ∧ (detach p s).du = s.du ∧ (detach p s).tr = s.tr ∧
    (detach p s).clock = s.clock ∧ (detach p s).free = s.free := by
  unfold detach
  simp only []
  (repeat' split) <;> simp

@[simp] theorem holdSlot_frame (n : Slot) (s : State) :
    (holdSlot n s).pending = s.pending ∧ (holdSlot n s).bf = s.bf ∧ (holdSlot n s).ls = s.ls ∧
    (holdSlot n s).lbu = s.lbu ∧ (holdSlot n s).me = s.me ∧ (holdSlot n s).qm = s.qm ∧ (holdSlot n s).ppu = s.ppu ∧
    (holdSlot n s).fu = s.fu ∧ (holdSlot n s).du = s.du ∧ (holdSlot n s).tr = s.tr ∧ (holdSlot n s).clock = s.clock ∧
    (holdSlot n s).out = s.out ∧ (holdSlot n s).free = s.free := by
  unfold holdSlot
  split <;> simp

@[simp] theorem holdSlots_frame (s : State) :
    (holdSlots s).pending = s.pending ∧ (holdSlots s).bf = s.bf ∧ (holdSlots s).ls = s.ls ∧
    (holdSlots s).lbu = s.lbu ∧ (holdSlots s).me = s.me ∧ (holdSlots s).qm = s.qm ∧ (holdSlots s).ppu = s.ppu ∧
    (holdSlots s).fu = s.fu ∧ (holdSlots s).du = s.du ∧ (holdSlots s).tr = s.tr ∧ (holdSlots s).clock = s.clock ∧
    (holdSlots s).out = s.out ∧ (holdSlots s).free = s.free := by
  simp [holdSlots]

@[simp] theorem cutSlot_frame (n : Slot) (s : State) :
    (cutSlot n s).pending = s.pending ∧ (cutSlot n s).du = s.du ∧ (cutSlot n s).tr = s.tr ∧
    (cutSlot n s).clock = s.clock ∧ (cutSlot n s).free = s.free := by
  simp [cutSlot]

@[simp] theorem preemptOnce_frame (s : State) :
    (preemptOnce s).pending = s.pending ∧ (preemptOnce s).du = s.du ∧ (preemptOnce s).tr = s.tr ∧
    (preemptOnce s).clock = s.clock ∧ (preemptOnce s).free = s.free := by
  unfold preemptOnce
  split <;> simp

@[simp] theorem preempt_frame (s : State) :
    (preempt s).pending = s.pending ∧ (preempt s).du = s.du ∧ (preempt s).tr = s.tr ∧ (preempt s).clock = s.clock ∧
    (preempt s).free = s.free := by
  simp [preempt]

@[simp] theorem refreshSlot_frame (n : Slot) (s : State) :
    (refreshSlot n s).pending = s.pending ∧ (refreshSlot n s).bf = s.bf ∧ (refreshSlot n s).ls = s.ls ∧
    (refreshSlot n s).lbu = s.lbu ∧ (refreshSlot n s).me = s.me ∧ (refreshSlot n s).qm = s.qm ∧
    (refreshSlot n s).ppu = s.ppu ∧ (refreshSlot n s).mdu = s.mdu ∧ (refreshSlot n s).fu = s.fu ∧
    (refreshSlot n s).du = s.du ∧ (refreshSlot n s).tr = s.tr ∧ (refreshSlot n s).clock = s.clock ∧
    (refreshSlot n s).out = s.out ∧ (refreshSlot n s).free = s.free := by
  unfold refreshSlot
  split <;> simp

@[simp] theorem endHold_frame (n : Slot) (s : State) :
    (endHold n s).pending = s.pending ∧ (endHold n s).bf = s.bf ∧ (endHold n s).ls = s.ls ∧
    (endHold n s).lbu = s.lbu ∧ (endHold n s).me = s.me ∧ (endHold n s).qm = s.qm ∧ (endHold n s).ppu = s.ppu ∧
    (endHold n s).fu = s.fu ∧ (endHold n s).du = s.du ∧ (endHold n s).tr = s.tr ∧ (endHold n s).clock = s.clock ∧
    (endHold n s).out = s.out ∧ (endHold n s).free = s.free := by
  simp [endHold]

@[simp] theorem lineReturns_frame (s : State) :
    (lineReturns s).pending = s.pending ∧ (lineReturns s).du = s.du ∧ (lineReturns s).tr = s.tr ∧
    (lineReturns s).clock = s.clock ∧ (lineReturns s).free = s.free := by
  simp [lineReturns]

@[simp] theorem dropSlot_frame (n : Slot) (s : State) :
    (dropSlot n s).pending = s.pending ∧ (dropSlot n s).ls = s.ls ∧ (dropSlot n s).du = s.du ∧
    (dropSlot n s).tr = s.tr ∧ (dropSlot n s).clock = s.clock ∧ (dropSlot n s).out = s.out ∧
    (dropSlot n s).free = s.free := by
  unfold dropSlot
  split <;> simp

@[simp] theorem dropAll_frame (s : State) :
    (dropAll s).pending = s.pending ∧ (dropAll s).ls = s.ls ∧ (dropAll s).du = s.du ∧ (dropAll s).tr = s.tr ∧
    (dropAll s).clock = s.clock ∧ (dropAll s).out = s.out ∧ (dropAll s).free = s.free := by
  simp [dropAll]

@[simp] theorem probeArrives_frame (frame : Bytes) (s : State) :
    (probeArrives frame s).pending = s.pending ∧ (probeArrives frame s).ls = s.ls ∧
    (probeArrives frame s).lbu = s.lbu ∧ (probeArrives frame s).me = s.me ∧ (probeArrives frame s).qm = s.qm ∧
    (probeArrives frame s).ppu = s.ppu ∧ (probeArrives frame s).cc = s.cc ∧ (probeArrives frame s).mdu = s.mdu ∧
    (probeArrives frame s).fu = s.fu ∧ (probeArrives frame s).du = s.du ∧ (probeArrives frame s).clock = s.clock ∧
    (probeArrives frame s).out = s.out ∧ (probeArrives frame s).free = s.free := by
  unfold probeArrives
  split <;> simp

@[simp] theorem endProbe_frame (s : State) :
    (endProbe s).pending = s.pending ∧ (endProbe s).ls = s.ls ∧ (endProbe s).lbu = s.lbu ∧ (endProbe s).me = s.me ∧
    (endProbe s).qm = s.qm ∧ (endProbe s).ppu = s.ppu ∧ (endProbe s).cc = s.cc ∧ (endProbe s).mdu = s.mdu ∧
    (endProbe s).fu = s.fu ∧ (endProbe s).du = s.du ∧ (endProbe s).clock = s.clock ∧ (endProbe s).out = s.out ∧
    (endProbe s).free = s.free := by
  unfold endProbe
  split <;> simp

@[simp] theorem pushReply_frame (msg : Bytes) (s : State) :
    (pushReply msg s).pending = s.pending ∧ (pushReply msg s).bf = s.bf ∧ (pushReply msg s).ls = s.ls ∧
    (pushReply msg s).lbu = s.lbu ∧ (pushReply msg s).me = s.me ∧ (pushReply msg s).ppu = s.ppu ∧
    (pushReply msg s).cc = s.cc ∧ (pushReply msg s).mdu = s.mdu ∧ (pushReply msg s).fu = s.fu ∧
    (pushReply msg s).du = s.du ∧ (pushReply msg s).tr = s.tr ∧ (pushReply msg s).counters = s.counters ∧
    (pushReply msg s).clock = s.clock ∧ (pushReply msg s).out = s.out ∧ (pushReply msg s).free = s.free := by
  simp [pushReply]

@[simp] theorem sendResult_frame (t : PortTest) (o : TestOutcome) (time : Nat) (s : State) :
    (sendResult t o time s).pending = s.pending ∧ (sendResult t o time s).bf = s.bf ∧
    (sendResult t o time s).ls = s.ls ∧ (sendResult t o time s).lbu = s.lbu ∧ (sendResult t o time s).me = s.me ∧
    (sendResult t o time s).ppu = s.ppu ∧ (sendResult t o time s).cc = s.cc ∧ (sendResult t o time s).mdu = s.mdu ∧
    (sendResult t o time s).fu = s.fu ∧ (sendResult t o time s).du = s.du ∧ (sendResult t o time s).tr = s.tr ∧
    (sendResult t o time s).clock = s.clock ∧ (sendResult t o time s).out = s.out ∧
    (sendResult t o time s).free = s.free := by
  unfold sendResult
  simp only []
  (repeat' split) <;> simp

@[simp] theorem setTest_frame (t : Option PortTest) (s : State) :
    (setTest t s).pending = s.pending ∧ (setTest t s).bf = s.bf ∧ (setTest t s).ls = s.ls ∧
    (setTest t s).lbu = s.lbu ∧ (setTest t s).me = s.me ∧ (setTest t s).qm = s.qm ∧ (setTest t s).ppu = s.ppu ∧
    (setTest t s).cc = s.cc ∧ (setTest t s).mdu = s.mdu ∧ (setTest t s).fu = s.fu ∧ (setTest t s).du = s.du ∧
    (setTest t s).counters = s.counters ∧ (setTest t s).clock = s.clock ∧ (setTest t s).out = s.out ∧
    (setTest t s).free = s.free := by
  simp [setTest]

@[simp] theorem startTest_frame (t : PortTest) (s : State) :
    (startTest t s).pending = s.pending ∧ (startTest t s).bf = s.bf ∧ (startTest t s).ls = s.ls ∧
    (startTest t s).lbu = s.lbu ∧ (startTest t s).me = s.me ∧ (startTest t s).qm = s.qm ∧ (startTest t s).cc = s.cc ∧
    (startTest t s).fu = s.fu ∧ (startTest t s).du = s.du ∧ (startTest t s).clock = s.clock ∧
    (startTest t s).out = s.out ∧ (startTest t s).free = s.free := by
  simp [startTest]

@[simp] theorem testAnswer_frame (p : Port) (s : State) :
    (testAnswer p s).pending = s.pending ∧ (testAnswer p s).bf = s.bf ∧ (testAnswer p s).ls = s.ls ∧
    (testAnswer p s).lbu = s.lbu ∧ (testAnswer p s).me = s.me ∧ (testAnswer p s).cc = s.cc ∧
    (testAnswer p s).fu = s.fu ∧ (testAnswer p s).du = s.du ∧ (testAnswer p s).clock = s.clock ∧
    (testAnswer p s).out = s.out ∧ (testAnswer p s).free = s.free := by
  unfold testAnswer
  (repeat' split) <;> simp

@[simp] theorem testExpiry_frame (s : State) :
    (testExpiry s).pending = s.pending ∧ (testExpiry s).bf = s.bf ∧ (testExpiry s).ls = s.ls ∧
    (testExpiry s).lbu = s.lbu ∧ (testExpiry s).me = s.me ∧ (testExpiry s).cc = s.cc ∧ (testExpiry s).fu = s.fu ∧
    (testExpiry s).du = s.du ∧ (testExpiry s).clock = s.clock ∧ (testExpiry s).out = s.out ∧
    (testExpiry s).free = s.free := by
  unfold testExpiry
  (repeat' split) <;> simp

@[simp] theorem testOnHook_frame (p : Port) (s : State) :
    (testOnHook p s).pending = s.pending ∧ (testOnHook p s).bf = s.bf ∧ (testOnHook p s).ls = s.ls ∧
    (testOnHook p s).lbu = s.lbu ∧ (testOnHook p s).me = s.me ∧ (testOnHook p s).qm = s.qm ∧
    (testOnHook p s).cc = s.cc ∧ (testOnHook p s).fu = s.fu ∧ (testOnHook p s).du = s.du ∧
    (testOnHook p s).counters = s.counters ∧ (testOnHook p s).clock = s.clock ∧ (testOnHook p s).out = s.out ∧
    (testOnHook p s).free = s.free := by
  unfold testOnHook
  (repeat' split) <;> simp

@[simp] theorem testPowerLimited_frame (p : Port) (s : State) :
    (testPowerLimited p s).pending = s.pending ∧ (testPowerLimited p s).bf = s.bf ∧
    (testPowerLimited p s).ls = s.ls ∧ (testPowerLimited p s).lbu = s.lbu ∧ (testPowerLimited p s).me = s.me ∧
    (testPowerLimited p s).cc = s.cc ∧ (testPowerLimited p s).fu = s.fu ∧ (testPowerLimited p s).du = s.du ∧
    (testPowerLimited p s).clock = s.clock ∧ (testPowerLimited p s).out = s.out := by
  unfold testPowerLimited
  (repeat' split) <;> simp

@[simp] theorem batteryLow_frame (detail : Nat) (s : State) :
    (batteryLow detail s).pending = s.pending ∧ (batteryLow detail s).bf = s.bf ∧ (batteryLow detail s).ls = s.ls ∧
    (batteryLow detail s).ppu = s.ppu ∧ (batteryLow detail s).cc = s.cc ∧ (batteryLow detail s).mdu = s.mdu ∧
    (batteryLow detail s).du = s.du ∧ (batteryLow detail s).tr = s.tr ∧ (batteryLow detail s).clock = s.clock ∧
    (batteryLow detail s).out = s.out ∧ (batteryLow detail s).free = s.free := by
  simp [batteryLow]

@[simp] theorem mainsLost_frame (detail : Nat) (s : State) :
    (mainsLost detail s).pending = s.pending ∧ (mainsLost detail s).bf = s.bf ∧ (mainsLost detail s).ls = s.ls ∧
    (mainsLost detail s).lbu = s.lbu ∧ (mainsLost detail s).ppu = s.ppu ∧ (mainsLost detail s).cc = s.cc ∧
    (mainsLost detail s).mdu = s.mdu ∧ (mainsLost detail s).du = s.du ∧ (mainsLost detail s).tr = s.tr ∧
    (mainsLost detail s).clock = s.clock ∧ (mainsLost detail s).out = s.out ∧ (mainsLost detail s).free = s.free := by
  simp [mainsLost]

@[simp] theorem powerConditions_frame (old new : PowerState) (s : State) :
    (powerConditions old new s).pending = s.pending ∧ (powerConditions old new s).bf = s.bf ∧
    (powerConditions old new s).ls = s.ls ∧ (powerConditions old new s).ppu = s.ppu ∧
    (powerConditions old new s).cc = s.cc ∧ (powerConditions old new s).mdu = s.mdu ∧
    (powerConditions old new s).du = s.du ∧ (powerConditions old new s).tr = s.tr ∧
    (powerConditions old new s).clock = s.clock ∧ (powerConditions old new s).out = s.out ∧
    (powerConditions old new s).free = s.free := by
  unfold powerConditions
  split <;> simp

@[simp] theorem shedBulk_frame (s : State) :
    (shedBulk s).pending = s.pending ∧ (shedBulk s).ls = s.ls ∧ (shedBulk s).lbu = s.lbu ∧ (shedBulk s).ppu = s.ppu ∧
    (shedBulk s).cc = s.cc ∧ (shedBulk s).mdu = s.mdu ∧ (shedBulk s).du = s.du ∧ (shedBulk s).tr = s.tr ∧
    (shedBulk s).clock = s.clock ∧ (shedBulk s).out = s.out ∧ (shedBulk s).free = s.free := by
  simp [shedBulk]

@[simp] theorem limitRinger_frame (s : State) :
    (limitRinger s).pending = s.pending ∧ (limitRinger s).du = s.du ∧ (limitRinger s).clock = s.clock := by
  unfold limitRinger
  (repeat' split) <;> simp

/-! What the debounced inputs leave of the Fault Unit, field by field. -/

@[simp] theorem takeInputs_records (mains low : Bool) (u : FaultUnit) : (takeInputs mains low u).records = u.records := rfl
@[simp] theorem takeInputs_exchList (mains low : Bool) (u : FaultUnit) : (takeInputs mains low u).exchList = u.exchList := rfl
@[simp] theorem takeInputs_locList (mains low : Bool) (u : FaultUnit) : (takeInputs mains low u).locList = u.locList := rfl
@[simp] theorem takeInputs_uptime (mains low : Bool) (u : FaultUnit) : (takeInputs mains low u).uptime = u.uptime := rfl
@[simp] theorem takeInputs_tick (mains low : Bool) (u : FaultUnit) : (takeInputs mains low u).tick = u.tick := rfl
@[simp] theorem takeInputs_power (mains low : Bool) (u : FaultUnit) : (takeInputs mains low u).power = u.power := rfl
@[simp] theorem takeInputs_since (mains low : Bool) (u : FaultUnit) : (takeInputs mains low u).since = u.since := rfl
@[simp] theorem takeInputs_gaspSent (mains low : Bool) (u : FaultUnit) : (takeInputs mains low u).gaspSent = u.gaspSent := rfl
@[simp] theorem takeInputs_mains (mains low : Bool) (u : FaultUnit) : (takeInputs mains low u).mains = mains := rfl
@[simp] theorem takeInputs_batteryLow (mains low : Bool) (u : FaultUnit) : (takeInputs mains low u).batteryLow = low := rfl

@[simp] theorem powerChange_frame (mains low : Bool) (s : State) :
    (powerChange mains low s).pending = s.pending ∧ (powerChange mains low s).du = s.du ∧
    (powerChange mains low s).clock = s.clock := by
  unfold powerChange
  simp only []
  (repeat' split) <;> simp

@[simp] theorem classify_frame (p : Port) (b : Nat) (s : State) :
    (classify p b s).pending = s.pending ∧ (classify p b s).bf = s.bf ∧ (classify p b s).ls = s.ls ∧
    (classify p b s).lbu = s.lbu ∧ (classify p b s).me = s.me ∧ (classify p b s).qm = s.qm ∧
    (classify p b s).mdu = s.mdu ∧ (classify p b s).fu = s.fu ∧ (classify p b s).du = s.du ∧
    (classify p b s).tr = s.tr ∧ (classify p b s).clock = s.clock ∧ (classify p b s).out = s.out ∧
    (classify p b s).free = s.free := by
  unfold classify
  simp only []
  (repeat' split) <;> simp

@[simp] theorem takeChange_frame (p : Port) (closed : Bool) (s : State) :
    (takeChange p closed s).pending = s.pending ∧ (takeChange p closed s).bf = s.bf ∧
    (takeChange p closed s).ls = s.ls ∧ (takeChange p closed s).lbu = s.lbu ∧ (takeChange p closed s).me = s.me ∧
    (takeChange p closed s).qm = s.qm ∧ (takeChange p closed s).mdu = s.mdu ∧ (takeChange p closed s).fu = s.fu ∧
    (takeChange p closed s).du = s.du ∧ (takeChange p closed s).tr = s.tr ∧ (takeChange p closed s).clock = s.clock ∧
    (takeChange p closed s).out = s.out ∧ (takeChange p closed s).free = s.free := by
  simp [takeChange]

@[simp] theorem closingTaken_frame (p : Port) (s : State) :
    (closingTaken p s).pending = s.pending ∧ (closingTaken p s).bf = s.bf ∧ (closingTaken p s).ls = s.ls ∧
    (closingTaken p s).lbu = s.lbu ∧ (closingTaken p s).du = s.du ∧ (closingTaken p s).clock = s.clock ∧
    (closingTaken p s).out = s.out ∧ (closingTaken p s).free = s.free := by
  unfold closingTaken
  split <;> simp

@[simp] theorem loopChange_frame (p : Port) (s : State) :
    (loopChange p s).pending = s.pending ∧ (loopChange p s).bf = s.bf ∧ (loopChange p s).ls = s.ls ∧
    (loopChange p s).lbu = s.lbu ∧ (loopChange p s).du = s.du ∧ (loopChange p s).clock = s.clock ∧
    (loopChange p s).out = s.out ∧ (loopChange p s).free = s.free := by
  unfold loopChange
  split <;> simp

@[simp] theorem ringTrip_frame (p : Port) (s : State) :
    (ringTrip p s).pending = s.pending ∧ (ringTrip p s).bf = s.bf ∧ (ringTrip p s).ls = s.ls ∧
    (ringTrip p s).lbu = s.lbu ∧ (ringTrip p s).du = s.du ∧ (ringTrip p s).clock = s.clock ∧
    (ringTrip p s).out = s.out ∧ (ringTrip p s).free = s.free := by
  unfold ringTrip
  split <;> simp

@[simp] theorem onHookTaken_frame (p : Port) (s : State) :
    (onHookTaken p s).pending = s.pending ∧ (onHookTaken p s).du = s.du ∧ (onHookTaken p s).clock = s.clock ∧
    (onHookTaken p s).free = s.free := by
  unfold onHookTaken
  split <;> simp

@[simp] theorem onHookFires_frame (p : Port) (s : State) :
    (onHookFires p s).pending = s.pending ∧ (onHookFires p s).du = s.du ∧ (onHookFires p s).clock = s.clock ∧
    (onHookFires p s).free = s.free := by
  simp [onHookFires]

@[simp] theorem digitTaken_frame (p : Port) (pulses : Nat) (s : State) :
    (digitTaken p pulses s).pending = s.pending ∧ (digitTaken p pulses s).bf = s.bf ∧
    (digitTaken p pulses s).ls = s.ls ∧ (digitTaken p pulses s).lbu = s.lbu ∧ (digitTaken p pulses s).me = s.me ∧
    (digitTaken p pulses s).qm = s.qm ∧ (digitTaken p pulses s).ppu = s.ppu ∧ (digitTaken p pulses s).mdu = s.mdu ∧
    (digitTaken p pulses s).fu = s.fu ∧ (digitTaken p pulses s).du = s.du ∧ (digitTaken p pulses s).tr = s.tr ∧
    (digitTaken p pulses s).clock = s.clock ∧ (digitTaken p pulses s).out = s.out ∧
    (digitTaken p pulses s).free = s.free := by
  unfold digitTaken
  (repeat' split) <;> simp

@[simp] theorem interdigitFires_frame (p : Port) (s : State) :
    (interdigitFires p s).pending = s.pending ∧ (interdigitFires p s).bf = s.bf ∧ (interdigitFires p s).ls = s.ls ∧
    (interdigitFires p s).lbu = s.lbu ∧ (interdigitFires p s).me = s.me ∧ (interdigitFires p s).qm = s.qm ∧
    (interdigitFires p s).mdu = s.mdu ∧ (interdigitFires p s).fu = s.fu ∧ (interdigitFires p s).du = s.du ∧
    (interdigitFires p s).tr = s.tr ∧ (interdigitFires p s).clock = s.clock ∧ (interdigitFires p s).out = s.out ∧
    (interdigitFires p s).free = s.free := by
  simp [interdigitFires]

@[simp] theorem parkExpires_frame (p : Port) (s : State) :
    (parkExpires p s).pending = s.pending ∧ (parkExpires p s).bf = s.bf ∧ (parkExpires p s).ls = s.ls ∧
    (parkExpires p s).lbu = s.lbu ∧ (parkExpires p s).cc = s.cc ∧ (parkExpires p s).du = s.du ∧
    (parkExpires p s).tr = s.tr ∧ (parkExpires p s).clock = s.clock ∧ (parkExpires p s).out = s.out ∧
    (parkExpires p s).free = s.free := by
  unfold parkExpires
  split <;> simp

@[simp] theorem toDisabled_frame (p : Port) (s : State) :
    (toDisabled p s).pending = s.pending ∧ (toDisabled p s).bf = s.bf ∧ (toDisabled p s).ls = s.ls ∧
    (toDisabled p s).lbu = s.lbu ∧ (toDisabled p s).me = s.me ∧ (toDisabled p s).qm = s.qm ∧
    (toDisabled p s).cc = s.cc ∧ (toDisabled p s).fu = s.fu ∧ (toDisabled p s).du = s.du ∧
    (toDisabled p s).tr = s.tr ∧ (toDisabled p s).counters = s.counters ∧ (toDisabled p s).clock = s.clock ∧
    (toDisabled p s).out = s.out ∧ (toDisabled p s).free = s.free := by
  simp [toDisabled]

@[simp] theorem disablePort_frame (p : Port) (s : State) :
    (disablePort p s).pending = s.pending ∧ (disablePort p s).du = s.du ∧ (disablePort p s).tr = s.tr ∧
    (disablePort p s).clock = s.clock ∧ (disablePort p s).free = s.free := by
  unfold disablePort
  split <;> simp

@[simp] theorem enablePort_frame (p : Port) (s : State) :
    (enablePort p s).pending = s.pending ∧ (enablePort p s).bf = s.bf ∧ (enablePort p s).ls = s.ls ∧
    (enablePort p s).lbu = s.lbu ∧ (enablePort p s).du = s.du ∧ (enablePort p s).tr = s.tr ∧
    (enablePort p s).clock = s.clock ∧ (enablePort p s).out = s.out ∧ (enablePort p s).free = s.free := by
  unfold enablePort
  split <;> simp

@[simp] theorem releasePortAct_frame (p : Port) (s : State) :
    (releasePortAct p s).pending = s.pending ∧ (releasePortAct p s).du = s.du ∧ (releasePortAct p s).tr = s.tr ∧
    (releasePortAct p s).clock = s.clock ∧ (releasePortAct p s).free = s.free := by
  unfold releasePortAct
  split <;> simp

@[simp] theorem stray_frame (s : State) :
    (stray s).pending = s.pending ∧ (stray s).bf = s.bf ∧ (stray s).ls = s.ls ∧ (stray s).lbu = s.lbu ∧
    (stray s).me = s.me ∧ (stray s).qm = s.qm ∧ (stray s).ppu = s.ppu ∧ (stray s).cc = s.cc ∧ (stray s).mdu = s.mdu ∧
    (stray s).fu = s.fu ∧ (stray s).du = s.du ∧ (stray s).tr = s.tr ∧ (stray s).clock = s.clock ∧
    (stray s).out = s.out ∧ (stray s).free = s.free := by
  simp [stray]

@[simp] theorem enterTraining_frame (s : State) :
    (enterTraining s).pending = s.pending ∧ (enterTraining s).bf = s.bf ∧ (enterTraining s).lbu = s.lbu ∧
    (enterTraining s).ppu = s.ppu ∧ (enterTraining s).du = s.du ∧ (enterTraining s).tr = s.tr ∧
    (enterTraining s).clock = s.clock ∧ (enterTraining s).out = s.out ∧ (enterTraining s).free = s.free := by
  unfold enterTraining
  split <;> simp

@[simp] theorem startLine_frame (s : State) :
    (startLine s).pending = s.pending ∧ (startLine s).bf = s.bf ∧ (startLine s).lbu = s.lbu ∧
    (startLine s).ppu = s.ppu ∧ (startLine s).cc = s.cc ∧ (startLine s).mdu = s.mdu ∧ (startLine s).du = s.du ∧
    (startLine s).tr = s.tr ∧ (startLine s).clock = s.clock ∧ (startLine s).free = s.free := by
  simp [startLine]

@[simp] theorem newRound_frame (s : State) :
    (newRound s).pending = s.pending ∧ (newRound s).bf = s.bf ∧ (newRound s).lbu = s.lbu ∧ (newRound s).ppu = s.ppu ∧
    (newRound s).cc = s.cc ∧ (newRound s).mdu = s.mdu ∧ (newRound s).du = s.du ∧ (newRound s).tr = s.tr ∧
    (newRound s).clock = s.clock ∧ (newRound s).free = s.free := by
  simp [newRound]

@[simp] theorem enterWaiting_frame (s : State) :
    (enterWaiting s).pending = s.pending ∧ (enterWaiting s).du = s.du ∧ (enterWaiting s).tr = s.tr ∧
    (enterWaiting s).clock = s.clock ∧ (enterWaiting s).free = s.free := by
  simp [enterWaiting]

@[simp] theorem trainingFailed_frame (halt : Bool) (s : State) :
    (trainingFailed halt s).pending = s.pending ∧ (trainingFailed halt s).du = s.du ∧
    (trainingFailed halt s).tr = s.tr ∧ (trainingFailed halt s).clock = s.clock ∧
    (trainingFailed halt s).free = s.free := by
  unfold trainingFailed
  split <;> simp

@[simp] theorem startCarrying_frame (s : State) :
    (startCarrying s).pending = s.pending ∧ (startCarrying s).lbu = s.lbu ∧ (startCarrying s).me = s.me ∧
    (startCarrying s).qm = s.qm ∧ (startCarrying s).ppu = s.ppu ∧ (startCarrying s).cc = s.cc ∧
    (startCarrying s).mdu = s.mdu ∧ (startCarrying s).du = s.du ∧ (startCarrying s).tr = s.tr ∧
    (startCarrying s).counters = s.counters ∧ (startCarrying s).clock = s.clock ∧ (startCarrying s).out = s.out ∧
    (startCarrying s).free = s.free := by
  simp [startCarrying]

@[simp] theorem enterCarrying_frame (rate : Nat) (margin : Int) (s : State) :
    (enterCarrying rate margin s).pending = s.pending ∧ (enterCarrying rate margin s).du = s.du ∧
    (enterCarrying rate margin s).tr = s.tr ∧ (enterCarrying rate margin s).clock = s.clock ∧
    (enterCarrying rate margin s).free = s.free := by
  simp [enterCarrying]

@[simp] theorem trainedTaken_frame (rate : Nat) (margin : Int) (s : State) :
    (trainedTaken rate margin s).pending = s.pending ∧ (trainedTaken rate margin s).du = s.du ∧
    (trainedTaken rate margin s).tr = s.tr ∧ (trainedTaken rate margin s).clock = s.clock ∧
    (trainedTaken rate margin s).free = s.free := by
  unfold trainedTaken
  simp only []
  (repeat' split) <;> simp

@[simp] theorem rideFails_frame (s : State) :
    (rideFails s).pending = s.pending ∧ (rideFails s).bf = s.bf ∧ (rideFails s).lbu = s.lbu ∧
    (rideFails s).ppu = s.ppu ∧ (rideFails s).du = s.du ∧ (rideFails s).tr = s.tr ∧ (rideFails s).clock = s.clock ∧
    (rideFails s).free = s.free := by
  simp [rideFails]

@[simp] theorem startRide_frame (s : State) :
    (startRide s).pending = s.pending ∧ (startRide s).ppu = s.ppu ∧ (startRide s).du = s.du ∧
    (startRide s).tr = s.tr ∧ (startRide s).clock = s.clock ∧ (startRide s).free = s.free := by
  unfold startRide
  simp only []
  (repeat' split) <;> simp

@[simp] theorem endRide_frame (s : State) :
    (endRide s).pending = s.pending ∧ (endRide s).du = s.du ∧ (endRide s).tr = s.tr ∧ (endRide s).clock = s.clock ∧
    (endRide s).free = s.free := by
  simp [endRide]

@[simp] theorem holdExpires_frame (s : State) :
    (holdExpires s).pending = s.pending ∧ (holdExpires s).du = s.du ∧ (holdExpires s).tr = s.tr ∧
    (holdExpires s).clock = s.clock ∧ (holdExpires s).out = s.out ∧ (holdExpires s).free = s.free := by
  simp [holdExpires]

@[simp] theorem stepDownTo_frame (i : Fin 8) (s : State) :
    (stepDownTo i s).pending = s.pending ∧ (stepDownTo i s).ppu = s.ppu ∧ (stepDownTo i s).du = s.du ∧
    (stepDownTo i s).tr = s.tr ∧ (stepDownTo i s).clock = s.clock ∧ (stepDownTo i s).free = s.free := by
  simp [stepDownTo]

@[simp] theorem askStepDown_frame (s : State) :
    (askStepDown s).pending = s.pending ∧ (askStepDown s).ppu = s.ppu ∧ (askStepDown s).du = s.du ∧
    (askStepDown s).tr = s.tr ∧ (askStepDown s).clock = s.clock ∧ (askStepDown s).free = s.free := by
  unfold askStepDown
  split <;> simp

@[simp] theorem evalSevere_frame (s : State) :
    (evalSevere s).pending = s.pending ∧ (evalSevere s).ppu = s.ppu ∧ (evalSevere s).du = s.du ∧
    (evalSevere s).tr = s.tr ∧ (evalSevere s).clock = s.clock ∧ (evalSevere s).free = s.free := by
  unfold evalSevere
  simp only []
  (repeat' split) <;> simp

@[simp] theorem evalStepUp_frame (s : State) :
    (evalStepUp s).pending = s.pending ∧ (evalStepUp s).ppu = s.ppu ∧ (evalStepUp s).cc = s.cc ∧
    (evalStepUp s).mdu = s.mdu ∧ (evalStepUp s).du = s.du ∧ (evalStepUp s).tr = s.tr ∧
    (evalStepUp s).clock = s.clock ∧ (evalStepUp s).free = s.free := by
  unfold evalStepUp
  (repeat' split) <;> simp

@[simp] theorem gradeSecond_frame (s : State) :
    (gradeSecond s).pending = s.pending ∧ (gradeSecond s).ppu = s.ppu ∧ (gradeSecond s).du = s.du ∧
    (gradeSecond s).tr = s.tr ∧ (gradeSecond s).clock = s.clock ∧ (gradeSecond s).free = s.free := by
  unfold gradeSecond
  split <;> simp

@[simp] theorem marginTaken_frame (margin : Int) (s : State) :
    (marginTaken margin s).pending = s.pending ∧ (marginTaken margin s).ppu = s.ppu ∧
    (marginTaken margin s).du = s.du ∧ (marginTaken margin s).tr = s.tr ∧ (marginTaken margin s).clock = s.clock ∧
    (marginTaken margin s).free = s.free := by
  unfold marginTaken
  simp only []
  (repeat' split) <;> simp

@[simp] theorem stopLine_frame (s : State) :
    (stopLine s).pending = s.pending ∧ (stopLine s).du = s.du ∧ (stopLine s).clock = s.clock ∧
    (stopLine s).free = s.free := by
  simp [stopLine]

@[simp] theorem retrainFromUp_frame (s : State) :
    (retrainFromUp s).pending = s.pending ∧ (retrainFromUp s).ppu = s.ppu ∧ (retrainFromUp s).du = s.du ∧
    (retrainFromUp s).tr = s.tr ∧ (retrainFromUp s).clock = s.clock ∧ (retrainFromUp s).free = s.free := by
  simp [retrainFromUp]

@[simp] theorem retrain_frame (s : State) :
    (retrain s).pending = s.pending ∧ (retrain s).ppu = s.ppu ∧ (retrain s).du = s.du ∧ (retrain s).tr = s.tr ∧
    (retrain s).clock = s.clock ∧ (retrain s).free = s.free := by
  unfold retrain
  split <;> simp

@[simp] theorem startLoopback_frame (c : LoopChannel) (s : State) :
    (startLoopback c s).pending = s.pending ∧ (startLoopback c s).lbu = s.lbu ∧ (startLoopback c s).ppu = s.ppu ∧
    (startLoopback c s).cc = s.cc ∧ (startLoopback c s).mdu = s.mdu ∧ (startLoopback c s).du = s.du ∧
    (startLoopback c s).tr = s.tr ∧ (startLoopback c s).clock = s.clock ∧ (startLoopback c s).out = s.out ∧
    (startLoopback c s).free = s.free := by
  unfold startLoopback
  split <;> simp

@[simp] theorem loopbackExpires_frame (s : State) :
    (loopbackExpires s).pending = s.pending ∧ (loopbackExpires s).lbu = s.lbu ∧ (loopbackExpires s).me = s.me ∧
    (loopbackExpires s).qm = s.qm ∧ (loopbackExpires s).ppu = s.ppu ∧ (loopbackExpires s).cc = s.cc ∧
    (loopbackExpires s).mdu = s.mdu ∧ (loopbackExpires s).fu = s.fu ∧ (loopbackExpires s).du = s.du ∧
    (loopbackExpires s).tr = s.tr ∧ (loopbackExpires s).clock = s.clock ∧ (loopbackExpires s).out = s.out ∧
    (loopbackExpires s).free = s.free := by
  unfold loopbackExpires
  split <;> simp

@[simp] theorem countHit_frame (found : Option (Fin 32)) (s : State) :
    (countHit found s).pending = s.pending ∧ (countHit found s).bf = s.bf ∧ (countHit found s).ls = s.ls ∧
    (countHit found s).lbu = s.lbu ∧ (countHit found s).qm = s.qm ∧ (countHit found s).ppu = s.ppu ∧
    (countHit found s).cc = s.cc ∧ (countHit found s).mdu = s.mdu ∧ (countHit found s).fu = s.fu ∧
    (countHit found s).du = s.du ∧ (countHit found s).tr = s.tr ∧ (countHit found s).counters = s.counters ∧
    (countHit found s).clock = s.clock ∧ (countHit found s).out = s.out ∧ (countHit found s).free = s.free := by
  unfold countHit
  split <;> simp

@[simp] theorem offerPriority_frame (f : Bytes) (s : State) :
    (offerPriority f s).pending = s.pending ∧ (offerPriority f s).bf = s.bf ∧ (offerPriority f s).ls = s.ls ∧
    (offerPriority f s).lbu = s.lbu ∧ (offerPriority f s).ppu = s.ppu ∧ (offerPriority f s).cc = s.cc ∧
    (offerPriority f s).mdu = s.mdu ∧ (offerPriority f s).du = s.du ∧ (offerPriority f s).tr = s.tr ∧
    (offerPriority f s).clock = s.clock ∧ (offerPriority f s).out = s.out ∧ (offerPriority f s).free = s.free := by
  unfold offerPriority
  split <;> simp

@[simp] theorem offerBulk_frame (f : Bytes) (s : State) :
    (offerBulk f s).pending = s.pending ∧ (offerBulk f s).bf = s.bf ∧ (offerBulk f s).ls = s.ls ∧
    (offerBulk f s).lbu = s.lbu ∧ (offerBulk f s).ppu = s.ppu ∧ (offerBulk f s).cc = s.cc ∧
    (offerBulk f s).mdu = s.mdu ∧ (offerBulk f s).du = s.du ∧ (offerBulk f s).tr = s.tr ∧
    (offerBulk f s).clock = s.clock ∧ (offerBulk f s).out = s.out ∧ (offerBulk f s).free = s.free := by
  unfold offerBulk
  (repeat' split) <;> simp

@[simp] theorem classUpstream_frame (c : FrameClass) (f : Bytes) (s : State) :
    (classUpstream c f s).pending = s.pending ∧ (classUpstream c f s).bf = s.bf ∧ (classUpstream c f s).ls = s.ls ∧
    (classUpstream c f s).lbu = s.lbu ∧ (classUpstream c f s).ppu = s.ppu ∧ (classUpstream c f s).cc = s.cc ∧
    (classUpstream c f s).mdu = s.mdu ∧ (classUpstream c f s).du = s.du ∧ (classUpstream c f s).tr = s.tr ∧
    (classUpstream c f s).clock = s.clock ∧ (classUpstream c f s).out = s.out ∧
    (classUpstream c f s).free = s.free := by
  unfold classUpstream
  split <;> simp

@[simp] theorem upstream_frame (f : Bytes) (s : State) :
    (upstream f s).pending = s.pending ∧ (upstream f s).bf = s.bf ∧ (upstream f s).ls = s.ls ∧
    (upstream f s).lbu = s.lbu ∧ (upstream f s).ppu = s.ppu ∧ (upstream f s).cc = s.cc ∧ (upstream f s).mdu = s.mdu ∧
    (upstream f s).du = s.du ∧ (upstream f s).tr = s.tr ∧ (upstream f s).clock = s.clock ∧
    (upstream f s).out = s.out ∧ (upstream f s).free = s.free := by
  unfold upstream
  simp only []
  (repeat' split) <;> simp

@[simp] theorem quietRules_frame (found : Option (Fin 32)) (f : Bytes) (s : State) :
    (quietRules found f s).pending = s.pending ∧ (quietRules found f s).bf = s.bf ∧
    (quietRules found f s).ls = s.ls ∧ (quietRules found f s).lbu = s.lbu ∧ (quietRules found f s).ppu = s.ppu ∧
    (quietRules found f s).cc = s.cc ∧ (quietRules found f s).mdu = s.mdu ∧ (quietRules found f s).fu = s.fu ∧
    (quietRules found f s).du = s.du ∧ (quietRules found f s).tr = s.tr ∧ (quietRules found f s).clock = s.clock ∧
    (quietRules found f s).out = s.out ∧ (quietRules found f s).free = s.free := by
  unfold quietRules
  simp only []
  (repeat' split) <;> simp

@[simp] theorem downstream_frame (f : Bytes) (s : State) :
    (downstream f s).pending = s.pending ∧ (downstream f s).bf = s.bf ∧ (downstream f s).ls = s.ls ∧
    (downstream f s).lbu = s.lbu ∧ (downstream f s).ppu = s.ppu ∧ (downstream f s).cc = s.cc ∧
    (downstream f s).mdu = s.mdu ∧ (downstream f s).fu = s.fu ∧ (downstream f s).du = s.du ∧
    (downstream f s).tr = s.tr ∧ (downstream f s).clock = s.clock ∧ (downstream f s).out = s.out ∧
    (downstream f s).free = s.free := by
  unfold downstream
  simp only []
  (repeat' split) <;> simp

@[simp] theorem itemSent_frame (s : State) :
    (itemSent s).pending = s.pending ∧ (itemSent s).bf = s.bf ∧ (itemSent s).ls = s.ls ∧ (itemSent s).lbu = s.lbu ∧
    (itemSent s).me = s.me ∧ (itemSent s).ppu = s.ppu ∧ (itemSent s).cc = s.cc ∧ (itemSent s).mdu = s.mdu ∧
    (itemSent s).du = s.du ∧ (itemSent s).tr = s.tr ∧ (itemSent s).clock = s.clock ∧ (itemSent s).free = s.free := by
  unfold itemSent
  (repeat' split) <;> simp

@[simp] theorem homeUp_frame (s : State) :
    (homeUp s).pending = s.pending ∧ (homeUp s).bf = s.bf ∧ (homeUp s).ls = s.ls ∧ (homeUp s).lbu = s.lbu ∧
    (homeUp s).me = s.me ∧ (homeUp s).ppu = s.ppu ∧ (homeUp s).cc = s.cc ∧ (homeUp s).mdu = s.mdu ∧
    (homeUp s).du = s.du ∧ (homeUp s).tr = s.tr ∧ (homeUp s).clock = s.clock ∧ (homeUp s).out = s.out ∧
    (homeUp s).free = s.free := by
  simp [homeUp]

/-- Counting the items that a home link going down loses. -/
theorem lostItems_frame (l : List FifoItem) (s : State) :
    ∀ t, t = l.foldl (fun s i => bump (Ctr.lostLinkDown i.kind) s) s →
    t.pending = s.pending ∧ t.bf = s.bf ∧ t.ls = s.ls ∧ t.lbu = s.lbu ∧ t.me = s.me ∧ t.qm = s.qm ∧
    t.ppu = s.ppu ∧ t.cc = s.cc ∧ t.mdu = s.mdu ∧ t.fu = s.fu ∧ t.du = s.du ∧ t.tr = s.tr ∧ t.clock = s.clock ∧
    t.out = s.out ∧ t.free = s.free := by
  induction l generalizing s with
  | nil => intro t h; subst h; simp
  | cons i l ih =>
    intro t h
    have := ih (bump (Ctr.lostLinkDown i.kind) s) t h
    simpa using this

@[simp] theorem homeDown_frame (s : State) :
    (homeDown s).pending = s.pending ∧ (homeDown s).bf = s.bf ∧ (homeDown s).ls = s.ls ∧ (homeDown s).lbu = s.lbu ∧
    (homeDown s).me = s.me ∧ (homeDown s).ppu = s.ppu ∧ (homeDown s).cc = s.cc ∧ (homeDown s).mdu = s.mdu ∧
    (homeDown s).fu = s.fu ∧ (homeDown s).du = s.du ∧ (homeDown s).tr = s.tr ∧ (homeDown s).clock = s.clock ∧
    (homeDown s).out = s.out ∧ (homeDown s).free = s.free := by
  obtain ⟨h1, h2, h3, h4, h5, h6, h7, h8, h9, h10, h11, h12, h13, h14, h15⟩ :=
    lostItems_frame s.qm.fifo (onQm (fun q => { q with homeUp := false, fifo := [] }) s) _ rfl
  unfold homeDown
  simp_all

@[simp] theorem powerUp_frame (s : State) :
    (powerUp s).pending = s.pending ∧ (powerUp s).free = s.free := by
  simp [powerUp]

@[simp] theorem resetBlocks_frame (a : Authority) (s : State) :
    (resetBlocks a s).pending = s.pending ∧ (resetBlocks a s).clock = s.clock ∧ (resetBlocks a s).out = s.out ∧
    (resetBlocks a s).free = s.free := by
  simp [resetBlocks]

@[simp] theorem endAtReset_frame (s : State) :
    (endAtReset s).pending = s.pending ∧ (endAtReset s).bf = s.bf ∧ (endAtReset s).ls = s.ls ∧
    (endAtReset s).lbu = s.lbu ∧ (endAtReset s).me = s.me ∧ (endAtReset s).qm = s.qm ∧ (endAtReset s).ppu = s.ppu ∧
    (endAtReset s).cc = s.cc ∧ (endAtReset s).mdu = s.mdu ∧ (endAtReset s).du = s.du ∧ (endAtReset s).tr = s.tr ∧
    (endAtReset s).counters = s.counters ∧ (endAtReset s).clock = s.clock ∧ (endAtReset s).out = s.out ∧
    (endAtReset s).free = s.free := by
  simp [endAtReset]

@[simp] theorem directedReset_frame (a : Authority) (s : State) :
    (directedReset a s).pending = s.pending ∧ (directedReset a s).clock = s.clock ∧
    (directedReset a s).free = s.free := by
  simp [directedReset]

end Sys2Proof.Machine
end

