-- ==== Sys2Proof/Laws/FramesC.lean ====
section
/-! SUPPORT. Frames: the pieces of state that each operation from Machine/Directives.lean to Machine/Events.lean leaves alone. One lemma per operation. -/

namespace Sys2Proof.Machine

@[simp] theorem doneWith_frame (body : Bytes) (s : State) :
    (doneWith body s).state.pending = s.pending ∧ (doneWith body s).state.bf = s.bf ∧
    (doneWith body s).state.ls = s.ls ∧ (doneWith body s).state.lbu = s.lbu ∧ (doneWith body s).state.me = s.me ∧
    (doneWith body s).state.qm = s.qm ∧ (doneWith body s).state.ppu = s.ppu ∧ (doneWith body s).state.cc = s.cc ∧
    (doneWith body s).state.mdu = s.mdu ∧ (doneWith body s).state.fu = s.fu ∧ (doneWith body s).state.du = s.du ∧
    (doneWith body s).state.tr = s.tr ∧ (doneWith body s).state.counters = s.counters ∧
    (doneWith body s).state.clock = s.clock ∧ (doneWith body s).state.out = s.out ∧
    (doneWith body s).state.free = s.free := by
  simp [doneWith]

@[simp] theorem refuse_frame (status : Status) (s : State) :
    (refuse status s).state.pending = s.pending ∧ (refuse status s).state.bf = s.bf ∧
    (refuse status s).state.ls = s.ls ∧ (refuse status s).state.lbu = s.lbu ∧ (refuse status s).state.me = s.me ∧
    (refuse status s).state.qm = s.qm ∧ (refuse status s).state.ppu = s.ppu ∧ (refuse status s).state.cc = s.cc ∧
    (refuse status s).state.mdu = s.mdu ∧ (refuse status s).state.fu = s.fu ∧ (refuse status s).state.du = s.du ∧
    (refuse status s).state.tr = s.tr ∧ (refuse status s).state.counters = s.counters ∧
    (refuse status s).state.clock = s.clock ∧ (refuse status s).state.out = s.out ∧
    (refuse status s).state.free = s.free := by
  simp [refuse]

@[simp] theorem sendReply_frame (a : Authority) (msg : Bytes) (s : State) :
    (sendReply a msg s).pending = s.pending ∧ (sendReply a msg s).bf = s.bf ∧ (sendReply a msg s).ls = s.ls ∧
    (sendReply a msg s).lbu = s.lbu ∧ (sendReply a msg s).me = s.me ∧ (sendReply a msg s).ppu = s.ppu ∧
    (sendReply a msg s).cc = s.cc ∧ (sendReply a msg s).mdu = s.mdu ∧ (sendReply a msg s).fu = s.fu ∧
    (sendReply a msg s).du = s.du ∧ (sendReply a msg s).tr = s.tr ∧ (sendReply a msg s).clock = s.clock ∧
    (sendReply a msg s).out = s.out ∧ (sendReply a msg s).free = s.free := by
  unfold sendReply
  (repeat' split) <;> simp

@[simp] theorem answerWith_frame (sender : Sender) (codeByte : Byte) (tag : Half) (r : Answer) :
    (answerWith sender codeByte tag r).pending = r.state.pending ∧
    (answerWith sender codeByte tag r).bf = r.state.bf ∧ (answerWith sender codeByte tag r).ls = r.state.ls ∧
    (answerWith sender codeByte tag r).lbu = r.state.lbu ∧ (answerWith sender codeByte tag r).me = r.state.me ∧
    (answerWith sender codeByte tag r).ppu = r.state.ppu ∧ (answerWith sender codeByte tag r).cc = r.state.cc ∧
    (answerWith sender codeByte tag r).mdu = r.state.mdu ∧ (answerWith sender codeByte tag r).fu = r.state.fu ∧
    (answerWith sender codeByte tag r).du = r.state.du ∧ (answerWith sender codeByte tag r).tr = r.state.tr ∧
    (answerWith sender codeByte tag r).clock = r.state.clock ∧ (answerWith sender codeByte tag r).out = r.state.out ∧
    (answerWith sender codeByte tag r).free = r.state.free := by
  simp [answerWith]

@[simp] theorem refuseOwner_frame (sender : Sender) (code : Nat) (tag : Half) (table : Nat) (s : State) :
    (refuseOwner sender code tag table s).pending = s.pending ∧ (refuseOwner sender code tag table s).bf = s.bf ∧
    (refuseOwner sender code tag table s).ls = s.ls ∧ (refuseOwner sender code tag table s).lbu = s.lbu ∧
    (refuseOwner sender code tag table s).ppu = s.ppu ∧ (refuseOwner sender code tag table s).cc = s.cc ∧
    (refuseOwner sender code tag table s).mdu = s.mdu ∧ (refuseOwner sender code tag table s).du = s.du ∧
    (refuseOwner sender code tag table s).tr = s.tr ∧ (refuseOwner sender code tag table s).clock = s.clock ∧
    (refuseOwner sender code tag table s).out = s.out ∧ (refuseOwner sender code tag table s).free = s.free := by
  simp [refuseOwner]

@[simp] theorem readTableAct_frame (table first count : Byte) (s : State) :
    (readTableAct table first count s).state.pending = s.pending ∧
    (readTableAct table first count s).state.bf = s.bf ∧ (readTableAct table first count s).state.ls = s.ls ∧
    (readTableAct table first count s).state.lbu = s.lbu ∧ (readTableAct table first count s).state.me = s.me ∧
    (readTableAct table first count s).state.qm = s.qm ∧ (readTableAct table first count s).state.ppu = s.ppu ∧
    (readTableAct table first count s).state.cc = s.cc ∧ (readTableAct table first count s).state.mdu = s.mdu ∧
    (readTableAct table first count s).state.fu = s.fu ∧ (readTableAct table first count s).state.du = s.du ∧
    (readTableAct table first count s).state.tr = s.tr ∧
    (readTableAct table first count s).state.counters = s.counters ∧
    (readTableAct table first count s).state.clock = s.clock ∧ (readTableAct table first count s).state.out = s.out ∧
    (readTableAct table first count s).state.free = s.free := by
  unfold readTableAct
  simp only []
  (repeat' split) <;> simp

@[simp] theorem countClamp_frame (differs : Bool) (s : State) :
    (countClamp differs s).pending = s.pending ∧ (countClamp differs s).bf = s.bf ∧
    (countClamp differs s).ls = s.ls ∧ (countClamp differs s).lbu = s.lbu ∧ (countClamp differs s).me = s.me ∧
    (countClamp differs s).qm = s.qm ∧ (countClamp differs s).ppu = s.ppu ∧ (countClamp differs s).cc = s.cc ∧
    (countClamp differs s).mdu = s.mdu ∧ (countClamp differs s).fu = s.fu ∧ (countClamp differs s).du = s.du ∧
    (countClamp differs s).tr = s.tr ∧ (countClamp differs s).clock = s.clock ∧ (countClamp differs s).out = s.out ∧
    (countClamp differs s).free = s.free := by
  simp [countClamp]

@[simp] theorem writeProfileAct_frame (index : Byte) (e : ProfileImage) (s : State) :
    (writeProfileAct index e s).state.pending = s.pending ∧ (writeProfileAct index e s).state.bf = s.bf ∧
    (writeProfileAct index e s).state.lbu = s.lbu ∧ (writeProfileAct index e s).state.me = s.me ∧
    (writeProfileAct index e s).state.qm = s.qm ∧ (writeProfileAct index e s).state.ppu = s.ppu ∧
    (writeProfileAct index e s).state.cc = s.cc ∧ (writeProfileAct index e s).state.mdu = s.mdu ∧
    (writeProfileAct index e s).state.fu = s.fu ∧ (writeProfileAct index e s).state.du = s.du ∧
    (writeProfileAct index e s).state.tr = s.tr ∧ (writeProfileAct index e s).state.clock = s.clock ∧
    (writeProfileAct index e s).state.out = s.out ∧ (writeProfileAct index e s).state.free = s.free := by
  unfold writeProfileAct
  simp only []
  (repeat' split) <;> simp

@[simp] theorem writeCadenceAct_frame (index : Byte) (durations : List Half) (rep : Byte) (s : State) :
    (writeCadenceAct index durations rep s).state.pending = s.pending ∧
    (writeCadenceAct index durations rep s).state.bf = s.bf ∧
    (writeCadenceAct index durations rep s).state.ls = s.ls ∧
    (writeCadenceAct index durations rep s).state.lbu = s.lbu ∧
    (writeCadenceAct index durations rep s).state.me = s.me ∧
    (writeCadenceAct index durations rep s).state.qm = s.qm ∧
    (writeCadenceAct index durations rep s).state.cc = s.cc ∧
    (writeCadenceAct index durations rep s).state.mdu = s.mdu ∧
    (writeCadenceAct index durations rep s).state.fu = s.fu ∧
    (writeCadenceAct index durations rep s).state.du = s.du ∧
    (writeCadenceAct index durations rep s).state.tr = s.tr ∧
    (writeCadenceAct index durations rep s).state.clock = s.clock ∧
    (writeCadenceAct index durations rep s).state.out = s.out ∧
    (writeCadenceAct index durations rep s).state.free = s.free := by
  unfold writeCadenceAct
  (repeat' split) <;> simp

@[simp] theorem writeMatchAct_frame (index : Byte) (e : MatchImage) (s : State) :
    (writeMatchAct index e s).state.pending = s.pending ∧ (writeMatchAct index e s).state.bf = s.bf ∧
    (writeMatchAct index e s).state.ls = s.ls ∧ (writeMatchAct index e s).state.lbu = s.lbu ∧
    (writeMatchAct index e s).state.qm = s.qm ∧ (writeMatchAct index e s).state.ppu = s.ppu ∧
    (writeMatchAct index e s).state.cc = s.cc ∧ (writeMatchAct index e s).state.mdu = s.mdu ∧
    (writeMatchAct index e s).state.fu = s.fu ∧ (writeMatchAct index e s).state.du = s.du ∧
    (writeMatchAct index e s).state.tr = s.tr ∧ (writeMatchAct index e s).state.clock = s.clock ∧
    (writeMatchAct index e s).state.out = s.out ∧ (writeMatchAct index e s).state.free = s.free := by
  unfold writeMatchAct
  (repeat' split) <;> simp

@[simp] theorem writeAnswerAct_frame (index valid : Byte) (hw : Mac) (ip : Ip) (s : State) :
    (writeAnswerAct index valid hw ip s).state.pending = s.pending ∧
    (writeAnswerAct index valid hw ip s).state.bf = s.bf ∧ (writeAnswerAct index valid hw ip s).state.ls = s.ls ∧
    (writeAnswerAct index valid hw ip s).state.lbu = s.lbu ∧ (writeAnswerAct index valid hw ip s).state.qm = s.qm ∧
    (writeAnswerAct index valid hw ip s).state.ppu = s.ppu ∧ (writeAnswerAct index valid hw ip s).state.cc = s.cc ∧
    (writeAnswerAct index valid hw ip s).state.mdu = s.mdu ∧ (writeAnswerAct index valid hw ip s).state.fu = s.fu ∧
    (writeAnswerAct index valid hw ip s).state.du = s.du ∧ (writeAnswerAct index valid hw ip s).state.tr = s.tr ∧
    (writeAnswerAct index valid hw ip s).state.counters = s.counters ∧
    (writeAnswerAct index valid hw ip s).state.clock = s.clock ∧
    (writeAnswerAct index valid hw ip s).state.out = s.out ∧
    (writeAnswerAct index valid hw ip s).state.free = s.free := by
  unfold writeAnswerAct
  (repeat' split) <;> simp

@[simp] theorem removeItem_frame (a : Authority) (k : FaultKind) (s : State) :
    (removeItem a k s).pending = s.pending ∧ (removeItem a k s).ls = s.ls ∧ (removeItem a k s).lbu = s.lbu ∧
    (removeItem a k s).me = s.me ∧ (removeItem a k s).qm = s.qm ∧ (removeItem a k s).ppu = s.ppu ∧
    (removeItem a k s).cc = s.cc ∧ (removeItem a k s).mdu = s.mdu ∧ (removeItem a k s).du = s.du ∧
    (removeItem a k s).tr = s.tr ∧ (removeItem a k s).clock = s.clock ∧ (removeItem a k s).out = s.out ∧
    (removeItem a k s).free = s.free := by
  unfold removeItem
  split <;> simp

@[simp] theorem writeFaultAct_frame (a : Authority) (index level : Byte) (s : State) :
    (writeFaultAct a index level s).state.pending = s.pending ∧ (writeFaultAct a index level s).state.ls = s.ls ∧
    (writeFaultAct a index level s).state.lbu = s.lbu ∧ (writeFaultAct a index level s).state.me = s.me ∧
    (writeFaultAct a index level s).state.qm = s.qm ∧ (writeFaultAct a index level s).state.ppu = s.ppu ∧
    (writeFaultAct a index level s).state.cc = s.cc ∧ (writeFaultAct a index level s).state.mdu = s.mdu ∧
    (writeFaultAct a index level s).state.du = s.du ∧ (writeFaultAct a index level s).state.tr = s.tr ∧
    (writeFaultAct a index level s).state.clock = s.clock ∧ (writeFaultAct a index level s).state.out = s.out ∧
    (writeFaultAct a index level s).state.free = s.free := by
  unfold writeFaultAct
  split <;> simp

@[simp] theorem readParamAct_frame (ident : Byte) (s : State) :
    (readParamAct ident s).state.pending = s.pending ∧ (readParamAct ident s).state.bf = s.bf ∧
    (readParamAct ident s).state.ls = s.ls ∧ (readParamAct ident s).state.lbu = s.lbu ∧
    (readParamAct ident s).state.me = s.me ∧ (readParamAct ident s).state.qm = s.qm ∧
    (readParamAct ident s).state.ppu = s.ppu ∧ (readParamAct ident s).state.cc = s.cc ∧
    (readParamAct ident s).state.mdu = s.mdu ∧ (readParamAct ident s).state.fu = s.fu ∧
    (readParamAct ident s).state.du = s.du ∧ (readParamAct ident s).state.tr = s.tr ∧
    (readParamAct ident s).state.counters = s.counters ∧ (readParamAct ident s).state.clock = s.clock ∧
    (readParamAct ident s).state.out = s.out ∧ (readParamAct ident s).state.free = s.free := by
  unfold readParamAct
  split <;> simp

@[simp] theorem storeParam_frame (p : Param) (v : Nat) (s : State) :
    (storeParam p v s).pending = s.pending ∧ (storeParam p v s).bf = s.bf ∧ (storeParam p v s).ls = s.ls ∧
    (storeParam p v s).me = s.me ∧ (storeParam p v s).qm = s.qm ∧ (storeParam p v s).ppu = s.ppu ∧
    (storeParam p v s).cc = s.cc ∧ (storeParam p v s).mdu = s.mdu ∧ (storeParam p v s).fu = s.fu ∧
    (storeParam p v s).tr = s.tr ∧ (storeParam p v s).counters = s.counters ∧ (storeParam p v s).clock = s.clock ∧
    (storeParam p v s).out = s.out ∧ (storeParam p v s).free = s.free := by
  simp [storeParam]

@[simp] theorem writeParamAct_frame (ident : Byte) (value : BitVec 48) (s : State) :
    (writeParamAct ident value s).state.pending = s.pending ∧ (writeParamAct ident value s).state.bf = s.bf ∧
    (writeParamAct ident value s).state.ls = s.ls ∧ (writeParamAct ident value s).state.me = s.me ∧
    (writeParamAct ident value s).state.qm = s.qm ∧ (writeParamAct ident value s).state.ppu = s.ppu ∧
    (writeParamAct ident value s).state.cc = s.cc ∧ (writeParamAct ident value s).state.mdu = s.mdu ∧
    (writeParamAct ident value s).state.fu = s.fu ∧ (writeParamAct ident value s).state.tr = s.tr ∧
    (writeParamAct ident value s).state.clock = s.clock ∧ (writeParamAct ident value s).state.out = s.out ∧
    (writeParamAct ident value s).state.free = s.free := by
  unfold writeParamAct
  simp only []
  (repeat' split) <;> simp

@[simp] theorem clearKind_frame (a : Authority) (counts : Bool) (k : FaultKind) (s : State) :
    (clearKind a counts k s).pending = s.pending ∧ (clearKind a counts k s).bf = s.bf ∧
    (clearKind a counts k s).ls = s.ls ∧ (clearKind a counts k s).lbu = s.lbu ∧ (clearKind a counts k s).me = s.me ∧
    (clearKind a counts k s).qm = s.qm ∧ (clearKind a counts k s).ppu = s.ppu ∧ (clearKind a counts k s).cc = s.cc ∧
    (clearKind a counts k s).mdu = s.mdu ∧ (clearKind a counts k s).du = s.du ∧ (clearKind a counts k s).tr = s.tr ∧
    (clearKind a counts k s).counters = s.counters ∧ (clearKind a counts k s).clock = s.clock ∧
    (clearKind a counts k s).out = s.out ∧ (clearKind a counts k s).free = s.free := by
  unfold clearKind
  split <;> simp

@[simp] theorem clearFaultAct_frame (a : Authority) (kind flag : Byte) (s : State) :
    (clearFaultAct a kind flag s).state.pending = s.pending ∧ (clearFaultAct a kind flag s).state.bf = s.bf ∧
    (clearFaultAct a kind flag s).state.ls = s.ls ∧ (clearFaultAct a kind flag s).state.lbu = s.lbu ∧
    (clearFaultAct a kind flag s).state.me = s.me ∧ (clearFaultAct a kind flag s).state.qm = s.qm ∧
    (clearFaultAct a kind flag s).state.ppu = s.ppu ∧ (clearFaultAct a kind flag s).state.cc = s.cc ∧
    (clearFaultAct a kind flag s).state.mdu = s.mdu ∧ (clearFaultAct a kind flag s).state.du = s.du ∧
    (clearFaultAct a kind flag s).state.tr = s.tr ∧ (clearFaultAct a kind flag s).state.counters = s.counters ∧
    (clearFaultAct a kind flag s).state.clock = s.clock ∧ (clearFaultAct a kind flag s).state.out = s.out ∧
    (clearFaultAct a kind flag s).state.free = s.free := by
  unfold clearFaultAct
  (repeat' split) <;> simp [FaultKind.all]

@[simp] theorem startAct_frame (s : State) :
    (startAct s).state.pending = s.pending ∧ (startAct s).state.bf = s.bf ∧ (startAct s).state.lbu = s.lbu ∧
    (startAct s).state.ppu = s.ppu ∧ (startAct s).state.cc = s.cc ∧ (startAct s).state.mdu = s.mdu ∧
    (startAct s).state.du = s.du ∧ (startAct s).state.tr = s.tr ∧ (startAct s).state.clock = s.clock ∧
    (startAct s).state.free = s.free := by
  unfold startAct
  split <;> simp

@[simp] theorem retrainAct_frame (s : State) :
    (retrainAct s).state.pending = s.pending ∧ (retrainAct s).state.ppu = s.ppu ∧ (retrainAct s).state.du = s.du ∧
    (retrainAct s).state.tr = s.tr ∧ (retrainAct s).state.clock = s.clock ∧ (retrainAct s).state.free = s.free := by
  unfold retrainAct
  split <;> simp

@[simp] theorem stepDownAct_frame (s : State) :
    (stepDownAct s).state.pending = s.pending ∧ (stepDownAct s).state.ppu = s.ppu ∧ (stepDownAct s).state.du = s.du ∧
    (stepDownAct s).state.tr = s.tr ∧ (stepDownAct s).state.clock = s.clock ∧
    (stepDownAct s).state.free = s.free := by
  unfold stepDownAct
  (repeat' split) <;> simp

@[simp] theorem stepUpAct_frame (s : State) :
    (stepUpAct s).state.pending = s.pending ∧ (stepUpAct s).state.ppu = s.ppu ∧ (stepUpAct s).state.cc = s.cc ∧
    (stepUpAct s).state.mdu = s.mdu ∧ (stepUpAct s).state.du = s.du ∧ (stepUpAct s).state.tr = s.tr ∧
    (stepUpAct s).state.clock = s.clock ∧ (stepUpAct s).state.free = s.free := by
  unfold stepUpAct
  (repeat' split) <;> simp

@[simp] theorem loopOnAct_frame (channel : Byte) (s : State) :
    (loopOnAct channel s).state.pending = s.pending ∧ (loopOnAct channel s).state.lbu = s.lbu ∧
    (loopOnAct channel s).state.ppu = s.ppu ∧ (loopOnAct channel s).state.cc = s.cc ∧
    (loopOnAct channel s).state.mdu = s.mdu ∧ (loopOnAct channel s).state.du = s.du ∧
    (loopOnAct channel s).state.tr = s.tr ∧ (loopOnAct channel s).state.clock = s.clock ∧
    (loopOnAct channel s).state.out = s.out ∧ (loopOnAct channel s).state.free = s.free := by
  unfold loopOnAct
  (repeat' split) <;> simp

@[simp] theorem lineActionAct_frame (action channel : Byte) (s : State) :
    (lineActionAct action channel s).state.pending = s.pending ∧ (lineActionAct action channel s).state.du = s.du ∧
    (lineActionAct action channel s).state.clock = s.clock ∧
    (lineActionAct action channel s).state.free = s.free := by
  unfold lineActionAct
  split <;> simp

@[simp] theorem testAct_frame (kind : TestKind) (a : Authority) (tag : Half) (p : Port) (cadence seconds : Byte) (s : State) :
    (testAct kind a tag p cadence seconds s).state.pending = s.pending ∧
    (testAct kind a tag p cadence seconds s).state.bf = s.bf ∧
    (testAct kind a tag p cadence seconds s).state.ls = s.ls ∧
    (testAct kind a tag p cadence seconds s).state.lbu = s.lbu ∧
    (testAct kind a tag p cadence seconds s).state.me = s.me ∧
    (testAct kind a tag p cadence seconds s).state.qm = s.qm ∧
    (testAct kind a tag p cadence seconds s).state.cc = s.cc ∧
    (testAct kind a tag p cadence seconds s).state.fu = s.fu ∧
    (testAct kind a tag p cadence seconds s).state.du = s.du ∧
    (testAct kind a tag p cadence seconds s).state.clock = s.clock ∧
    (testAct kind a tag p cadence seconds s).state.out = s.out ∧
    (testAct kind a tag p cadence seconds s).state.free = s.free := by
  unfold testAct
  (repeat' split) <;> simp

@[simp] theorem releaseAct_frame (p : Port) (s : State) :
    (releaseAct p s).state.pending = s.pending ∧ (releaseAct p s).state.du = s.du ∧
    (releaseAct p s).state.tr = s.tr ∧ (releaseAct p s).state.clock = s.clock ∧
    (releaseAct p s).state.free = s.free := by
  unfold releaseAct
  split <;> simp

@[simp] theorem disableAct_frame (p : Port) (s : State) :
    (disableAct p s).state.pending = s.pending ∧ (disableAct p s).state.du = s.du ∧
    (disableAct p s).state.tr = s.tr ∧ (disableAct p s).state.clock = s.clock ∧
    (disableAct p s).state.free = s.free := by
  unfold disableAct
  split <;> simp

@[simp] theorem portActionAct_frame (a : Authority) (tag : Half) (kind port cadence seconds : Byte) (s : State) :
    (portActionAct a tag kind port cadence seconds s).state.pending = s.pending ∧
    (portActionAct a tag kind port cadence seconds s).state.du = s.du ∧
    (portActionAct a tag kind port cadence seconds s).state.clock = s.clock ∧
    (portActionAct a tag kind port cadence seconds s).state.free = s.free := by
  unfold portActionAct
  (repeat' split) <;> simp

@[simp] theorem quietEnterAct_frame (s : State) :
    (quietEnterAct s).state.pending = s.pending ∧ (quietEnterAct s).state.bf = s.bf ∧
    (quietEnterAct s).state.ls = s.ls ∧ (quietEnterAct s).state.lbu = s.lbu ∧ (quietEnterAct s).state.qm = s.qm ∧
    (quietEnterAct s).state.ppu = s.ppu ∧ (quietEnterAct s).state.cc = s.cc ∧ (quietEnterAct s).state.mdu = s.mdu ∧
    (quietEnterAct s).state.fu = s.fu ∧ (quietEnterAct s).state.du = s.du ∧ (quietEnterAct s).state.tr = s.tr ∧
    (quietEnterAct s).state.clock = s.clock ∧ (quietEnterAct s).state.out = s.out ∧
    (quietEnterAct s).state.free = s.free := by
  unfold quietEnterAct
  (repeat' split) <;> simp

@[simp] theorem quietLeaveAct_frame (hitClear : Byte) (s : State) :
    (quietLeaveAct hitClear s).state.pending = s.pending ∧ (quietLeaveAct hitClear s).state.bf = s.bf ∧
    (quietLeaveAct hitClear s).state.ls = s.ls ∧ (quietLeaveAct hitClear s).state.lbu = s.lbu ∧
    (quietLeaveAct hitClear s).state.ppu = s.ppu ∧ (quietLeaveAct hitClear s).state.cc = s.cc ∧
    (quietLeaveAct hitClear s).state.mdu = s.mdu ∧ (quietLeaveAct hitClear s).state.du = s.du ∧
    (quietLeaveAct hitClear s).state.tr = s.tr ∧ (quietLeaveAct hitClear s).state.clock = s.clock ∧
    (quietLeaveAct hitClear s).state.out = s.out ∧ (quietLeaveAct hitClear s).state.free = s.free := by
  unfold quietLeaveAct
  split <;> simp

@[simp] theorem quietAct_frame (kind hitClear : Byte) (s : State) :
    (quietAct kind hitClear s).state.pending = s.pending ∧ (quietAct kind hitClear s).state.bf = s.bf ∧
    (quietAct kind hitClear s).state.ls = s.ls ∧ (quietAct kind hitClear s).state.lbu = s.lbu ∧
    (quietAct kind hitClear s).state.ppu = s.ppu ∧ (quietAct kind hitClear s).state.cc = s.cc ∧
    (quietAct kind hitClear s).state.mdu = s.mdu ∧ (quietAct kind hitClear s).state.du = s.du ∧
    (quietAct kind hitClear s).state.tr = s.tr ∧ (quietAct kind hitClear s).state.clock = s.clock ∧
    (quietAct kind hitClear s).state.out = s.out ∧ (quietAct kind hitClear s).state.free = s.free := by
  unfold quietAct
  (repeat' split) <;> simp

@[simp] theorem act_frame (sender : Sender) (tag : Half) (r : Request) (s : State) :
    (act sender tag r s).state.pending = s.pending ∧ (act sender tag r s).state.clock = s.clock ∧
    (act sender tag r s).state.free = s.free := by
  unfold act
  split <;> simp

@[simp] theorem takeRequest_frame (sender : Sender) (tag : Half) (r : Request) (s : State) :
    (takeRequest sender tag r s).pending = s.pending ∧ (takeRequest sender tag r s).clock = s.clock ∧
    (takeRequest sender tag r s).free = s.free := by
  unfold takeRequest
  split <;> simp

@[simp] theorem takeBody_frame (sender : Sender) (code : Nat) (tag : Half) (body : Bytes) (s : State) :
    (takeBody sender code tag body s).pending = s.pending ∧ (takeBody sender code tag body s).clock = s.clock ∧
    (takeBody sender code tag body s).free = s.free := by
  unfold takeBody
  (repeat' split) <;> simp

@[simp] theorem takeMessage_frame (sender : Sender) (m : Bytes) (s : State) :
    (takeMessage sender m s).pending = s.pending ∧ (takeMessage sender m s).clock = s.clock ∧
    (takeMessage sender m s).free = s.free := by
  unfold takeMessage
  split
  · simp
  · simp only []
    (repeat' split) <;> simp

@[simp] theorem receiveDirective_frame (sender : Sender) (take : State → State) (s : State)
    (h : ∀ u, (take u).pending = u.pending ∧ (take u).clock = u.clock ∧ (take u).free = u.free) :
    (receiveDirective sender take s).pending = s.pending ∧ (receiveDirective sender take s).clock = s.clock ∧
    (receiveDirective sender take s).free = s.free := by
  unfold receiveDirective
  split
  · simp [h]
  · simp only []
    split <;> simp [h]

@[simp] theorem directive_frame (sender : Sender) (tag : Half) (r : Request) (s : State) :
    (directive sender tag r s).pending = s.pending ∧ (directive sender tag r s).clock = s.clock ∧
    (directive sender tag r s).free = s.free := by
  simp [directive]

@[simp] theorem deliverVoice_frame (n : Slot) (f : Bytes) (s : State) :
    (deliverVoice n f s).pending = s.pending ∧ (deliverVoice n f s).du = s.du ∧ (deliverVoice n f s).tr = s.tr ∧
    (deliverVoice n f s).clock = s.clock ∧ (deliverVoice n f s).free = s.free := by
  unfold deliverVoice
  (repeat' split) <;> simp

@[simp] theorem deliver_frame (c : Chan) (f : Bytes) (s : State) :
    (deliver c f s).pending = s.pending ∧ (deliver c f s).clock = s.clock ∧ (deliver c f s).free = s.free := by
  unfold deliver
  simp only []
  (repeat' split) <;> simp

@[simp] theorem setAsm_frame (c : Chan) (a : Option Collecting) (s : State) :
    (setAsm c a s).pending = s.pending ∧ (setAsm c a s).ls = s.ls ∧ (setAsm c a s).lbu = s.lbu ∧
    (setAsm c a s).me = s.me ∧ (setAsm c a s).qm = s.qm ∧ (setAsm c a s).ppu = s.ppu ∧ (setAsm c a s).cc = s.cc ∧
    (setAsm c a s).mdu = s.mdu ∧ (setAsm c a s).fu = s.fu ∧ (setAsm c a s).du = s.du ∧ (setAsm c a s).tr = s.tr ∧
    (setAsm c a s).counters = s.counters ∧ (setAsm c a s).clock = s.clock ∧ (setAsm c a s).out = s.out ∧
    (setAsm c a s).free = s.free := by
  simp [setAsm]

@[simp] theorem oversizeBlock_frame (c : Chan) (s : State) :
    (oversizeBlock c s).pending = s.pending ∧ (oversizeBlock c s).bf = s.bf ∧ (oversizeBlock c s).ls = s.ls ∧
    (oversizeBlock c s).lbu = s.lbu ∧ (oversizeBlock c s).ppu = s.ppu ∧ (oversizeBlock c s).cc = s.cc ∧
    (oversizeBlock c s).mdu = s.mdu ∧ (oversizeBlock c s).du = s.du ∧ (oversizeBlock c s).tr = s.tr ∧
    (oversizeBlock c s).clock = s.clock ∧ (oversizeBlock c s).out = s.out ∧ (oversizeBlock c s).free = s.free := by
  simp [oversizeBlock]

@[simp] theorem orphan_frame (s : State) :
    (orphan s).pending = s.pending ∧ (orphan s).bf = s.bf ∧ (orphan s).ls = s.ls ∧ (orphan s).lbu = s.lbu ∧
    (orphan s).me = s.me ∧ (orphan s).qm = s.qm ∧ (orphan s).ppu = s.ppu ∧ (orphan s).cc = s.cc ∧
    (orphan s).mdu = s.mdu ∧ (orphan s).fu = s.fu ∧ (orphan s).du = s.du ∧ (orphan s).tr = s.tr ∧
    (orphan s).clock = s.clock ∧ (orphan s).out = s.out ∧ (orphan s).free = s.free := by
  simp [orphan]

@[simp] theorem extend_frame (b : LineBlock) (data : Bytes) (take : Bytes → State → State) (s : State)
    (h : ∀ f u, (take f u).pending = u.pending ∧ (take f u).clock = u.clock ∧ (take f u).free = u.free) :
    (extend b data take s).pending = s.pending ∧ (extend b data take s).clock = s.clock ∧
    (extend b data take s).free = s.free := by
  unfold extend
  (repeat' split) <;> simp [h]

@[simp] theorem reassemble_frame (b : LineBlock) (s : State) :
    (reassemble b s).pending = s.pending ∧ (reassemble b s).clock = s.clock ∧ (reassemble b s).free = s.free := by
  unfold reassemble
  simp only []
  (repeat' split) <;> simp

@[simp] theorem badBlock_frame (s : State) :
    (badBlock s).pending = s.pending ∧ (badBlock s).bf = s.bf ∧ (badBlock s).lbu = s.lbu ∧ (badBlock s).me = s.me ∧
    (badBlock s).qm = s.qm ∧ (badBlock s).ppu = s.ppu ∧ (badBlock s).cc = s.cc ∧ (badBlock s).mdu = s.mdu ∧
    (badBlock s).fu = s.fu ∧ (badBlock s).du = s.du ∧ (badBlock s).tr = s.tr ∧ (badBlock s).clock = s.clock ∧
    (badBlock s).out = s.out ∧ (badBlock s).free = s.free := by
  simp [badBlock]

@[simp] theorem checkSequence_frame (b : LineBlock) (s : State) :
    (checkSequence b s).pending = s.pending ∧ (checkSequence b s).lbu = s.lbu ∧ (checkSequence b s).ppu = s.ppu ∧
    (checkSequence b s).cc = s.cc ∧ (checkSequence b s).mdu = s.mdu ∧ (checkSequence b s).du = s.du ∧
    (checkSequence b s).tr = s.tr ∧ (checkSequence b s).clock = s.clock ∧ (checkSequence b s).out = s.out ∧
    (checkSequence b s).free = s.free := by
  simp [checkSequence]

@[simp] theorem takeBlock_frame (b : LineBlock) (s : State) :
    (takeBlock b s).pending = s.pending ∧ (takeBlock b s).clock = s.clock ∧ (takeBlock b s).free = s.free := by
  unfold takeBlock
  (repeat' split) <;> simp

@[simp] theorem goodBlock_frame (b : LineBlock) (s : State) :
    (goodBlock b s).pending = s.pending ∧ (goodBlock b s).clock = s.clock ∧ (goodBlock b s).free = s.free := by
  unfold goodBlock
  (repeat' split) <;> simp

@[simp] theorem blockArrives_frame (bytes : Bytes) (s : State) :
    (blockArrives bytes s).pending = s.pending ∧ (blockArrives bytes s).clock = s.clock ∧
    (blockArrives bytes s).free = s.free := by
  unfold blockArrives
  (repeat' split) <;> simp

@[simp] theorem homeFrameTaken_frame (f : Bytes) (s : State) :
    (homeFrameTaken f s).pending = s.pending ∧ (homeFrameTaken f s).clock = s.clock ∧
    (homeFrameTaken f s).free = s.free := by
  unfold homeFrameTaken
  simp only []
  split <;> simp

@[simp] theorem homeFrameArrives_frame (frame : Bytes) (s : State) :
    (homeFrameArrives frame s).pending = s.pending ∧ (homeFrameArrives frame s).clock = s.clock ∧
    (homeFrameArrives frame s).free = s.free := by
  unfold homeFrameArrives
  simp only []
  (repeat' split) <;> simp

theorem nextOn_frame (c : Chan) (head : State → Option (Source × Bytes)) (s t : State)
    (h : nextOn c head s = some t) :
    t.pending = s.pending ∧ t.ls = s.ls ∧ t.lbu = s.lbu ∧ t.me = s.me ∧ t.ppu = s.ppu ∧ t.mdu = s.mdu ∧ t.du = s.du ∧
    t.clock = s.clock ∧ t.free = s.free := by
  unfold nextOn at h
  split at h
  · simp only [Option.some.injEq] at h
    subst h
    simp
  · split at h
    · simp only [Option.some.injEq] at h
      subst h
      simp
    · simp at h

/-- A reading of the state that a claim and the counters leave alone is left alone by serving the claim. -/
theorem serve_keeps {α : Type} (g : State → α) (claim : Claim) (ctr : Counter)
    (hb : ∀ u, g (bump ctr u) = g u) (hc : ∀ u v, claim u = some v → g v = g u) (n : Nat) (s : State) :
    g (serve claim ctr n s).1 = g s := by
  induction n generalizing s with
  | zero => rfl
  | succ n ih =>
    unfold serve
    split
    · rfl
    · rename_i v hv
      simp only []
      rw [ih, hb, hc _ _ hv]

/-- The same for one step of the grant order. -/
theorem stepOf_keeps {α : Type} (g : State → α) (claim : Claim) (ctr : Counter) (limit : Nat) (p : State × Nat)
    (hb : ∀ u, g (bump ctr u) = g u) (hc : ∀ u v, claim u = some v → g v = g u) :
    g (stepOf claim ctr limit p).1 = g p.1 := serve_keeps g claim ctr hb hc _ _

@[simp] theorem emitGasp_frame (i : PendingItem) (s : State) :
    (emitGasp i s).pending = s.pending ∧ (emitGasp i s).ls = s.ls ∧ (emitGasp i s).me = s.me ∧
    (emitGasp i s).qm = s.qm ∧ (emitGasp i s).ppu = s.ppu ∧ (emitGasp i s).cc = s.cc ∧ (emitGasp i s).mdu = s.mdu ∧
    (emitGasp i s).du = s.du ∧ (emitGasp i s).tr = s.tr ∧ (emitGasp i s).clock = s.clock ∧
    (emitGasp i s).free = s.free := by
  simp [emitGasp]

theorem urgentClaim_frame (s t : State) (h : urgentClaim s = some t) :
    t.pending = s.pending ∧ t.ls = s.ls ∧ t.me = s.me ∧ t.qm = s.qm ∧ t.ppu = s.ppu ∧ t.cc = s.cc ∧ t.mdu = s.mdu ∧
    t.du = s.du ∧ t.tr = s.tr ∧ t.clock = s.clock ∧ t.free = s.free := by
  unfold urgentClaim at h
  split at h
  · split at h
    · simp only [Option.some.injEq] at h
      subst h
      simp
    · simp at h
  · simp at h

@[simp] theorem clearDue_frame (n : Slot) (s : State) :
    (clearDue n s).pending = s.pending ∧ (clearDue n s).bf = s.bf ∧ (clearDue n s).ls = s.ls ∧
    (clearDue n s).lbu = s.lbu ∧ (clearDue n s).me = s.me ∧ (clearDue n s).qm = s.qm ∧ (clearDue n s).ppu = s.ppu ∧
    (clearDue n s).cc = s.cc ∧ (clearDue n s).fu = s.fu ∧ (clearDue n s).du = s.du ∧ (clearDue n s).tr = s.tr ∧
    (clearDue n s).counters = s.counters ∧ (clearDue n s).clock = s.clock ∧ (clearDue n s).out = s.out ∧
    (clearDue n s).free = s.free := by
  simp [clearDue]

@[simp] theorem continueFrame_frame (c : Chan) (n : Nat) (s : State) :
    (continueFrame c n s).pending = s.pending ∧ (continueFrame c n s).ls = s.ls ∧ (continueFrame c n s).lbu = s.lbu ∧
    (continueFrame c n s).me = s.me ∧ (continueFrame c n s).ppu = s.ppu ∧ (continueFrame c n s).mdu = s.mdu ∧
    (continueFrame c n s).du = s.du ∧ (continueFrame c n s).clock = s.clock ∧
    (continueFrame c n s).free = s.free := by
  induction n generalizing s with
  | zero => simp [continueFrame]
  | succ n ih =>
    unfold continueFrame
    split <;> simp [ih]

@[simp] theorem emitVoice_frame (n : Slot) (f : Bytes) (s : State) :
    (emitVoice n f s).pending = s.pending ∧ (emitVoice n f s).ls = s.ls ∧ (emitVoice n f s).lbu = s.lbu ∧
    (emitVoice n f s).me = s.me ∧ (emitVoice n f s).ppu = s.ppu ∧ (emitVoice n f s).mdu = s.mdu ∧
    (emitVoice n f s).du = s.du ∧ (emitVoice n f s).clock = s.clock ∧ (emitVoice n f s).free = s.free := by
  simp [emitVoice]

@[simp] theorem voiceStep_frame (n : Slot) (p : State × Nat) :
    (voiceStep n p).1.pending = p.1.pending ∧ (voiceStep n p).1.ls = p.1.ls ∧ (voiceStep n p).1.lbu = p.1.lbu ∧
    (voiceStep n p).1.me = p.1.me ∧ (voiceStep n p).1.ppu = p.1.ppu ∧ (voiceStep n p).1.du = p.1.du ∧
    (voiceStep n p).1.clock = p.1.clock ∧ (voiceStep n p).1.free = p.1.free := by
  unfold voiceStep
  simp only []
  (repeat' split) <;> simp

@[simp] theorem dueStale_frame (n : Slot) (s : State) :
    (dueStale n s).pending = s.pending ∧ (dueStale n s).bf = s.bf ∧ (dueStale n s).ls = s.ls ∧
    (dueStale n s).lbu = s.lbu ∧ (dueStale n s).me = s.me ∧ (dueStale n s).qm = s.qm ∧ (dueStale n s).ppu = s.ppu ∧
    (dueStale n s).cc = s.cc ∧ (dueStale n s).fu = s.fu ∧ (dueStale n s).du = s.du ∧ (dueStale n s).tr = s.tr ∧
    (dueStale n s).clock = s.clock ∧ (dueStale n s).out = s.out ∧ (dueStale n s).free = s.free := by
  unfold dueStale
  split <;> simp

theorem operationsClaim_frame (s t : State) (h : operationsClaim s = some t) :
    t.pending = s.pending ∧ t.ls = s.ls ∧ t.lbu = s.lbu ∧ t.me = s.me ∧ t.ppu = s.ppu ∧ t.mdu = s.mdu ∧ t.du = s.du ∧
    t.clock = s.clock ∧ t.free = s.free := by
  exact nextOn_frame _ _ _ _ h

theorem signalServed_frame (n : Slot) (s t : State) (h : signalServed n s = some t) :
    t.pending = s.pending ∧ t.ls = s.ls ∧ t.me = s.me ∧ t.ppu = s.ppu ∧ t.mdu = s.mdu ∧ t.du = s.du ∧
    t.clock = s.clock ∧ t.free = s.free := by
  unfold signalServed at h
  split at h
  · simp at h
  · simp only [Option.map_eq_some_iff] at h
    obtain ⟨u, hu, rfl⟩ := h
    simp [nextOn_frame _ _ _ _ hu]

theorem controlClaim_frame (s t : State) (h : controlClaim s = some t) :
    t.pending = s.pending ∧ t.ls = s.ls ∧ t.me = s.me ∧ t.ppu = s.ppu ∧ t.mdu = s.mdu ∧ t.du = s.du ∧
    t.clock = s.clock ∧ t.free = s.free := by
  unfold controlClaim at h
  split at h
  · rename_i u hu
    cases h
    simp [signalServed_frame _ _ _ hu]
  · split at h
    · rename_i u hu
      cases h
      simp [signalServed_frame _ _ _ hu]
    · simp [operationsClaim_frame _ _ h]

theorem testClaim_frame (s t : State) (h : testClaim s = some t) :
    t.pending = s.pending ∧ t.ls = s.ls ∧ t.lbu = s.lbu ∧ t.me = s.me ∧ t.ppu = s.ppu ∧ t.mdu = s.mdu ∧ t.du = s.du ∧
    t.clock = s.clock ∧ t.free = s.free := by
  unfold testClaim at h
  split at h
  · simp [sendLooped_frame _ _ _ h]
  · simp [nextOn_frame _ _ _ _ h]

theorem bulkClaim_frame (s t : State) (h : bulkClaim s = some t) :
    t.pending = s.pending ∧ t.ls = s.ls ∧ t.lbu = s.lbu ∧ t.me = s.me ∧ t.ppu = s.ppu ∧ t.mdu = s.mdu ∧ t.du = s.du ∧
    t.clock = s.clock ∧ t.free = s.free := by
  unfold bulkClaim at h
  split at h
  · simp [sendLooped_frame _ _ _ h]
  · simp [nextOn_frame _ _ _ _ h]

theorem priorityClaim_frame (s t : State) (h : priorityClaim s = some t) :
    t.pending = s.pending ∧ t.ls = s.ls ∧ t.lbu = s.lbu ∧ t.me = s.me ∧ t.ppu = s.ppu ∧ t.mdu = s.mdu ∧ t.du = s.du ∧
    t.clock = s.clock ∧ t.free = s.free := by
  exact nextOn_frame _ _ _ _ h

@[simp] theorem fillRest_frame (n : Nat) (s : State) :
    (fillRest n s).pending = s.pending ∧ (fillRest n s).bf = s.bf ∧ (fillRest n s).ls = s.ls ∧
    (fillRest n s).lbu = s.lbu ∧ (fillRest n s).me = s.me ∧ (fillRest n s).qm = s.qm ∧ (fillRest n s).ppu = s.ppu ∧
    (fillRest n s).cc = s.cc ∧ (fillRest n s).mdu = s.mdu ∧ (fillRest n s).fu = s.fu ∧ (fillRest n s).du = s.du ∧
    (fillRest n s).tr = s.tr ∧ (fillRest n s).clock = s.clock ∧ (fillRest n s).free = s.free := by
  induction n generalizing s with
  | zero => simp [fillRest]
  | succ n ih => simp [fillRest, ih]

/-- What no step of the grant order touches: the queue of commands, the Line Supervisor, the Match Engine, the Phone
Port Unit, the Directive Unit, the clock. -/
def grantRest (s : State) : List Instr × Supervisor × MatchEngine × PhoneUnit × DirectiveUnit × Clock × Nat :=
  (s.pending, s.ls, s.me, s.ppu, s.du, s.clock, s.free)

theorem stepOf_rest (claim : Claim) (ctr : Counter) (limit : Nat) (p : State × Nat)
    (hc : ∀ u v, claim u = some v → grantRest v = grantRest u) :
    grantRest (stepOf claim ctr limit p).1 = grantRest p.1 :=
  stepOf_keeps grantRest claim ctr limit p (fun _ => rfl) hc

theorem urgentClaim_rest (u v : State) (h : urgentClaim u = some v) : grantRest v = grantRest u := by
  simp [grantRest, urgentClaim_frame _ _ h]

theorem controlClaim_rest (u v : State) (h : controlClaim u = some v) : grantRest v = grantRest u := by
  simp [grantRest, controlClaim_frame _ _ h]

theorem testClaim_rest (u v : State) (h : testClaim u = some v) : grantRest v = grantRest u := by
  simp [grantRest, testClaim_frame _ _ h]

theorem bulkClaim_rest (u v : State) (h : bulkClaim u = some v) : grantRest v = grantRest u := by
  simp [grantRest, bulkClaim_frame _ _ h]

theorem priorityClaim_rest (u v : State) (h : priorityClaim u = some v) : grantRest v = grantRest u := by
  simp [grantRest, priorityClaim_frame _ _ h]

theorem operationsClaim_rest (u v : State) (h : operationsClaim u = some v) : grantRest v = grantRest u := by
  simp [grantRest, operationsClaim_frame _ _ h]

theorem voiceStep_rest (n : Slot) (p : State × Nat) : grantRest (voiceStep n p).1 = grantRest p.1 := by
  simp [grantRest]

theorem grantSteps_rest (k : Nat) (s : State) : grantRest (grantSteps k s) = grantRest s := by
  have hf : ∀ n u, grantRest (fillRest n u) = grantRest u := fun n u => by simp [grantRest]
  unfold grantSteps
  simp only []
  rw [hf, stepOf_rest _ _ _ _ operationsClaim_rest, stepOf_rest _ _ _ _ bulkClaim_rest,
    stepOf_rest _ _ _ _ priorityClaim_rest, stepOf_rest _ _ _ _ bulkClaim_rest, stepOf_rest _ _ _ _ testClaim_rest,
    stepOf_rest _ _ _ _ controlClaim_rest, voiceStep_rest, voiceStep_rest, stepOf_rest _ _ _ _ urgentClaim_rest]

@[simp] theorem grantSteps_frame (k : Nat) (s : State) :
    (grantSteps k s).pending = s.pending ∧ (grantSteps k s).ls = s.ls ∧ (grantSteps k s).me = s.me ∧
    (grantSteps k s).ppu = s.ppu ∧ (grantSteps k s).du = s.du ∧ (grantSteps k s).clock = s.clock ∧
    (grantSteps k s).free = s.free := by
  simpa [grantRest] using grantSteps_rest k s

@[simp] theorem grantPeriod_frame (s : State) :
    (grantPeriod s).pending = s.pending ∧ (grantPeriod s).ls = s.ls ∧ (grantPeriod s).me = s.me ∧
    (grantPeriod s).ppu = s.ppu ∧ (grantPeriod s).du = s.du ∧ (grantPeriod s).clock = s.clock ∧
    (grantPeriod s).free = s.free := by
  simp [grantPeriod]

@[simp] theorem periodStart_frame (s : State) :
    (periodStart s).pending = s.pending ∧ (periodStart s).ls = s.ls ∧ (periodStart s).me = s.me ∧
    (periodStart s).ppu = s.ppu ∧ (periodStart s).du = s.du ∧ (periodStart s).free = s.free := by
  unfold periodStart
  split <;> simp

@[simp] theorem trainedEvent_frame (rate : Nat) (margin : Int) (s : State) :
    (trainedEvent rate margin s).pending = s.pending ∧ (trainedEvent rate margin s).du = s.du ∧
    (trainedEvent rate margin s).tr = s.tr ∧ (trainedEvent rate margin s).clock = s.clock ∧
    (trainedEvent rate margin s).free = s.free := by
  unfold trainedEvent
  split <;> simp

@[simp] theorem noTrainEvent_frame (s : State) :
    (noTrainEvent s).pending = s.pending ∧ (noTrainEvent s).du = s.du ∧ (noTrainEvent s).tr = s.tr ∧
    (noTrainEvent s).clock = s.clock ∧ (noTrainEvent s).free = s.free := by
  unfold noTrainEvent
  split <;> simp

@[simp] theorem syncLostEvent_frame (s : State) :
    (syncLostEvent s).pending = s.pending ∧ (syncLostEvent s).ppu = s.ppu ∧ (syncLostEvent s).du = s.du ∧
    (syncLostEvent s).tr = s.tr ∧ (syncLostEvent s).clock = s.clock ∧ (syncLostEvent s).free = s.free := by
  unfold syncLostEvent
  split <;> simp

@[simp] theorem syncBackEvent_frame (s : State) :
    (syncBackEvent s).pending = s.pending ∧ (syncBackEvent s).du = s.du ∧ (syncBackEvent s).tr = s.tr ∧
    (syncBackEvent s).clock = s.clock ∧ (syncBackEvent s).free = s.free := by
  unfold syncBackEvent
  split <;> simp

@[simp] theorem marginEvent_frame (margin : Int) (s : State) :
    (marginEvent margin s).pending = s.pending ∧ (marginEvent margin s).ppu = s.ppu ∧
    (marginEvent margin s).du = s.du ∧ (marginEvent margin s).tr = s.tr ∧ (marginEvent margin s).clock = s.clock ∧
    (marginEvent margin s).free = s.free := by
  unfold marginEvent
  split <;> simp

@[simp] theorem silentEvent_frame (s : State) :
    (silentEvent s).pending = s.pending ∧ (silentEvent s).ppu = s.ppu ∧ (silentEvent s).du = s.du ∧
    (silentEvent s).tr = s.tr ∧ (silentEvent s).clock = s.clock ∧ (silentEvent s).free = s.free := by
  unfold silentEvent
  split <;> simp

@[simp] theorem trainTimerEvent_frame (s : State) :
    (trainTimerEvent s).pending = s.pending ∧ (trainTimerEvent s).du = s.du ∧ (trainTimerEvent s).tr = s.tr ∧
    (trainTimerEvent s).clock = s.clock ∧ (trainTimerEvent s).free = s.free := by
  unfold trainTimerEvent
  split <;> simp

@[simp] theorem rideTimerEvent_frame (s : State) :
    (rideTimerEvent s).pending = s.pending ∧ (rideTimerEvent s).bf = s.bf ∧ (rideTimerEvent s).lbu = s.lbu ∧
    (rideTimerEvent s).ppu = s.ppu ∧ (rideTimerEvent s).du = s.du ∧ (rideTimerEvent s).tr = s.tr ∧
    (rideTimerEvent s).clock = s.clock ∧ (rideTimerEvent s).free = s.free := by
  unfold rideTimerEvent
  split <;> simp

@[simp] theorem holdTimerEvent_frame (s : State) :
    (holdTimerEvent s).pending = s.pending ∧ (holdTimerEvent s).du = s.du ∧ (holdTimerEvent s).tr = s.tr ∧
    (holdTimerEvent s).clock = s.clock ∧ (holdTimerEvent s).out = s.out ∧ (holdTimerEvent s).free = s.free := by
  unfold holdTimerEvent
  split <;> simp

@[simp] theorem backoffEvent_frame (s : State) :
    (backoffEvent s).pending = s.pending ∧ (backoffEvent s).bf = s.bf ∧ (backoffEvent s).lbu = s.lbu ∧
    (backoffEvent s).ppu = s.ppu ∧ (backoffEvent s).cc = s.cc ∧ (backoffEvent s).mdu = s.mdu ∧
    (backoffEvent s).du = s.du ∧ (backoffEvent s).tr = s.tr ∧ (backoffEvent s).clock = s.clock ∧
    (backoffEvent s).free = s.free := by
  unfold backoffEvent
  split <;> simp

@[simp] theorem alertEvent_frame (n : Slot) (s : State) :
    (alertEvent n s).pending = s.pending ∧ (alertEvent n s).du = s.du ∧ (alertEvent n s).tr = s.tr ∧
    (alertEvent n s).clock = s.clock ∧ (alertEvent n s).free = s.free := by
  unfold alertEvent
  split <;> simp

@[simp] theorem onHookEvent_frame (p : Port) (s : State) :
    (onHookEvent p s).pending = s.pending ∧ (onHookEvent p s).du = s.du ∧ (onHookEvent p s).clock = s.clock ∧
    (onHookEvent p s).free = s.free := by
  unfold onHookEvent
  split <;> simp

@[simp] theorem interdigitEvent_frame (p : Port) (s : State) :
    (interdigitEvent p s).pending = s.pending ∧ (interdigitEvent p s).bf = s.bf ∧ (interdigitEvent p s).ls = s.ls ∧
    (interdigitEvent p s).lbu = s.lbu ∧ (interdigitEvent p s).me = s.me ∧ (interdigitEvent p s).qm = s.qm ∧
    (interdigitEvent p s).mdu = s.mdu ∧ (interdigitEvent p s).fu = s.fu ∧ (interdigitEvent p s).du = s.du ∧
    (interdigitEvent p s).tr = s.tr ∧ (interdigitEvent p s).clock = s.clock ∧ (interdigitEvent p s).out = s.out ∧
    (interdigitEvent p s).free = s.free := by
  unfold interdigitEvent
  split <;> simp

/-- An event run only if it is due. -/
theorem ifDue_eq (due : State → Bool) (event : State → State) (s : State) :
    ifDue due event s = if due s then event s else s := rfl

@[simp] theorem ifDue_pending (due : State → Bool) (event : State → State) (s : State) :
    (ifDue due event s).pending = if due s then (event s).pending else s.pending := by unfold ifDue; split <;> rfl
@[simp] theorem ifDue_bf (due : State → Bool) (event : State → State) (s : State) :
    (ifDue due event s).bf = if due s then (event s).bf else s.bf := by unfold ifDue; split <;> rfl
@[simp] theorem ifDue_ls (due : State → Bool) (event : State → State) (s : State) :
    (ifDue due event s).ls = if due s then (event s).ls else s.ls := by unfold ifDue; split <;> rfl
@[simp] theorem ifDue_lbu (due : State → Bool) (event : State → State) (s : State) :
    (ifDue due event s).lbu = if due s then (event s).lbu else s.lbu := by unfold ifDue; split <;> rfl
@[simp] theorem ifDue_me (due : State → Bool) (event : State → State) (s : State) :
    (ifDue due event s).me = if due s then (event s).me else s.me := by unfold ifDue; split <;> rfl
@[simp] theorem ifDue_qm (due : State → Bool) (event : State → State) (s : State) :
    (ifDue due event s).qm = if due s then (event s).qm else s.qm := by unfold ifDue; split <;> rfl
@[simp] theorem ifDue_ppu (due : State → Bool) (event : State → State) (s : State) :
    (ifDue due event s).ppu = if due s then (event s).ppu else s.ppu := by unfold ifDue; split <;> rfl
@[simp] theorem ifDue_cc (due : State → Bool) (event : State → State) (s : State) :
    (ifDue due event s).cc = if due s then (event s).cc else s.cc := by unfold ifDue; split <;> rfl
@[simp] theorem ifDue_mdu (due : State → Bool) (event : State → State) (s : State) :
    (ifDue due event s).mdu = if due s then (event s).mdu else s.mdu := by unfold ifDue; split <;> rfl
@[simp] theorem ifDue_fu (due : State → Bool) (event : State → State) (s : State) :
    (ifDue due event s).fu = if due s then (event s).fu else s.fu := by unfold ifDue; split <;> rfl
@[simp] theorem ifDue_du (due : State → Bool) (event : State → State) (s : State) :
    (ifDue due event s).du = if due s then (event s).du else s.du := by unfold ifDue; split <;> rfl
@[simp] theorem ifDue_tr (due : State → Bool) (event : State → State) (s : State) :
    (ifDue due event s).tr = if due s then (event s).tr else s.tr := by unfold ifDue; split <;> rfl
@[simp] theorem ifDue_counters (due : State → Bool) (event : State → State) (s : State) :
    (ifDue due event s).counters = if due s then (event s).counters else s.counters := by unfold ifDue; split <;> rfl
@[simp] theorem ifDue_clock (due : State → Bool) (event : State → State) (s : State) :
    (ifDue due event s).clock = if due s then (event s).clock else s.clock := by unfold ifDue; split <;> rfl
@[simp] theorem ifDue_out (due : State → Bool) (event : State → State) (s : State) :
    (ifDue due event s).out = if due s then (event s).out else s.out := by unfold ifDue; split <;> rfl
@[simp] theorem ifDue_free (due : State → Bool) (event : State → State) (s : State) :
    (ifDue due event s).free = if due s then (event s).free else s.free := by unfold ifDue; split <;> rfl

@[simp] theorem closeFrames_frame (s : State) :
    (closeFrames s).pending = s.pending ∧ (closeFrames s).bf = s.bf ∧ (closeFrames s).ls = s.ls ∧
    (closeFrames s).lbu = s.lbu ∧ (closeFrames s).me = s.me ∧ (closeFrames s).qm = s.qm ∧
    (closeFrames s).ppu = s.ppu ∧ (closeFrames s).cc = s.cc ∧ (closeFrames s).fu = s.fu ∧ (closeFrames s).du = s.du ∧
    (closeFrames s).tr = s.tr ∧ (closeFrames s).clock = s.clock ∧ (closeFrames s).out = s.out ∧
    (closeFrames s).free = s.free := by
  simp [closeFrames]

@[simp] theorem uptimeSecond_frame (s : State) :
    (uptimeSecond s).pending = s.pending ∧ (uptimeSecond s).ppu = s.ppu ∧ (uptimeSecond s).du = s.du ∧
    (uptimeSecond s).tr = s.tr ∧ (uptimeSecond s).clock = s.clock ∧ (uptimeSecond s).free = s.free := by
  simp [uptimeSecond]

@[simp] theorem advance_frame (s : State) :
    (advance s).pending = s.pending ∧ (advance s).bf = s.bf ∧ (advance s).lbu = s.lbu ∧ (advance s).me = s.me ∧
    (advance s).qm = s.qm ∧ (advance s).mdu = s.mdu ∧ (advance s).fu = s.fu ∧ (advance s).du = s.du ∧
    (advance s).counters = s.counters ∧ (advance s).clock = s.clock ∧ (advance s).out = s.out ∧
    (advance s).free = s.free := by
  simp [advance]

@[simp] theorem timerEvents_frame (s : State) :
    (timerEvents s).pending = s.pending ∧ (timerEvents s).du = s.du ∧ (timerEvents s).clock = s.clock ∧
    (timerEvents s).free = s.free := by
  simp [timerEvents]

@[simp] theorem powerTick_frame (s : State) :
    (powerTick s).pending = s.pending ∧ (powerTick s).du = s.du ∧ (powerTick s).clock = s.clock := by
  simp [powerTick]

@[simp] theorem measureTick_frame (p : Port) (s : State) :
    (measureTick p s).pending = s.pending ∧ (measureTick p s).du = s.du ∧ (measureTick p s).clock = s.clock ∧
    (measureTick p s).free = s.free := by
  unfold measureTick
  simp only []
  (repeat' split) <;> simp

@[simp] theorem senseTick_frame (p : Port) (s : State) :
    (senseTick p s).pending = s.pending ∧ (senseTick p s).du = s.du ∧ (senseTick p s).clock = s.clock ∧
    (senseTick p s).free = s.free := by
  unfold senseTick
  simp only []
  (repeat' split) <;> simp

@[simp] theorem portTick_frame (p : Port) (s : State) :
    (portTick p s).pending = s.pending ∧ (portTick p s).du = s.du ∧ (portTick p s).clock = s.clock ∧
    (portTick p s).free = s.free := by
  simp [portTick]

@[simp] theorem periodTick_frame (s : State) :
    (periodTick s).pending = s.pending ∧ (periodTick s).ls = s.ls ∧ (periodTick s).me = s.me ∧
    (periodTick s).ppu = s.ppu ∧ (periodTick s).du = s.du ∧ (periodTick s).free = s.free := by
  unfold periodTick
  split <;> simp

@[simp] theorem secondTick_frame (s : State) :
    (secondTick s).pending = s.pending ∧ (secondTick s).ppu = s.ppu ∧ (secondTick s).du = s.du ∧
    (secondTick s).tr = s.tr ∧ (secondTick s).clock = s.clock ∧ (secondTick s).free = s.free := by
  unfold secondTick
  split <;> simp

@[simp] theorem tick_frame (s : State) :
    (tick s).pending = s.pending ∧ (tick s).du = s.du := by
  simp [tick]

end Sys2Proof.Machine
end

