-- ==== Sys2Proof/Laws/Ops.lean ====
section
/-! SUPPORT. Read after write for the named operations: tables, ports, slots, channels, records, parameters and
counters, each in one place. -/

namespace Sys2Proof.Machine

/-! ## Tables of a fixed size -/

@[simp] theorem vget_vset_same {α : Type} {n : Nat} (v : Vector α n) (i : Fin n) (x : α) :
    vget (vset v i x) i = x := by
  simp [vget, vset]

theorem vget_vset_other {α : Type} {n : Nat} (v : Vector α n) (i j : Fin n) (x : α) (h : i ≠ j) :
    vget (vset v i x) j = vget v j := by
  have : i.val ≠ j.val := fun e => h (Fin.ext e)
  simp [vget, vset, this]

theorem vget_vset {α : Type} {n : Nat} (v : Vector α n) (i j : Fin n) (x : α) :
    vget (vset v i x) j = if i = j then x else vget v j := by
  split
  · rename_i h
    subst h
    simp
  · rename_i h
    exact vget_vset_other v i j x h

@[simp] theorem vget_replicate {α : Type} {n : Nat} (x : α) (i : Fin n) : vget (Vector.replicate n x) i = x := by
  simp [vget]

@[simp] theorem vget_ofFn {α : Type} {n : Nat} (f : Fin n → α) (i : Fin n) : vget (Vector.ofFn f) i = f i := by
  simp [vget]

/-! ## Ports and slots -/

@[simp] theorem PerPort.get_set_same {α : Type} (t : PerPort α) (p : Port) (x : α) : (t.set p x).get p = x := by
  cases p <;> rfl

theorem PerPort.get_set {α : Type} (t : PerPort α) (p q : Port) (x : α) :
    (t.set p x).get q = if p = q then x else t.get q := by
  cases p <;> cases q <;> rfl

@[simp] theorem PerSlot.get_set_same {α : Type} (t : PerSlot α) (n : Slot) (x : α) : (t.set n x).get n = x := by
  cases n <;> rfl

theorem PerSlot.get_set {α : Type} (t : PerSlot α) (n m : Slot) (x : α) :
    (t.set n x).get m = if n = m then x else t.get m := by
  cases n <;> cases m <;> rfl

variable (s : State)

@[simp] theorem port_onPort_same (p : Port) (f : PortUnit → PortUnit) : (onPort p f s).port p = f (s.port p) := by
  simp [onPort, State.port]

theorem port_onPort (p q : Port) (f : PortUnit → PortUnit) :
    (onPort p f s).port q = if p = q then f (s.port p) else s.port q := by
  simp [onPort, State.port, PerPort.get_set]

@[simp] theorem call_onCall_same (n : Slot) (f : CallSlot → CallSlot) : (onCall n f s).call n = f (s.call n) := by
  simp [onCall, State.call]

theorem call_onCall (n m : Slot) (f : CallSlot → CallSlot) :
    (onCall n f s).call m = if n = m then f (s.call n) else s.call m := by
  simp [onCall, State.call, PerSlot.get_set]

@[simp] theorem media_onMedia_same (n : Slot) (f : MediaSlot → MediaSlot) :
    (onMedia n f s).media n = f (s.media n) := by
  simp [onMedia, State.media]

theorem media_onMedia (n m : Slot) (f : MediaSlot → MediaSlot) :
    (onMedia n f s).media m = if n = m then f (s.media n) else s.media m := by
  simp [onMedia, State.media, PerSlot.get_set]

@[simp] theorem mediaPort_onMediaPort_same (p : Port) (f : MediaPort → MediaPort) :
    (onMediaPort p f s).mediaPort p = f (s.mediaPort p) := by
  simp [onMediaPort, State.mediaPort]

theorem mediaPort_onMediaPort (p q : Port) (f : MediaPort → MediaPort) :
    (onMediaPort p f s).mediaPort q = if p = q then f (s.mediaPort p) else s.mediaPort q := by
  simp [onMediaPort, State.mediaPort, PerPort.get_set]

@[simp] theorem media_onMediaPort (p : Port) (n : Slot) (f : MediaPort → MediaPort) :
    (onMediaPort p f s).media n = s.media n := rfl

@[simp] theorem mediaPort_onMedia (p : Port) (n : Slot) (f : MediaSlot → MediaSlot) :
    (onMedia n f s).mediaPort p = s.mediaPort p := rfl

@[simp] theorem chan_onChan_same (c : Chan) (f : Channel → Channel) : (onChan c f s).chan c = f (s.chan c) := by
  simp [onChan, State.chan]

theorem chan_onChan (c d : Chan) (f : Channel → Channel) :
    (onChan c f s).chan d = if c = d then f (s.chan c) else s.chan d := by
  simp [onChan, State.chan, vget_vset]

@[simp] theorem onChan_loopStore (c : Chan) (f : Channel → Channel) :
    (onChan c f s).bf.loopStore = s.bf.loopStore := rfl

theorem FaultKind.index_inj (j k : FaultKind) : j.index = k.index ↔ j = k := by
  cases j <;> cases k <;> decide

@[simp] theorem fault_setRec_same (k : FaultKind) (r : FaultRecord) : (setRec k r s).fault k = r := by
  simp [setRec, State.fault]

theorem fault_setRec (k j : FaultKind) (r : FaultRecord) :
    (setRec k r s).fault j = if k = j then r else s.fault j := by
  simp [setRec, State.fault, vget_vset, FaultKind.index_inj]

@[simp] theorem setRec_lists (k : FaultKind) (r : FaultRecord) :
    (setRec k r s).fu.exchList = s.fu.exchList ∧ (setRec k r s).fu.locList = s.fu.locList := ⟨rfl, rfl⟩

theorem Param.index_inj (p q : Param) : p.index = q.index ↔ p = q := by
  constructor
  · intro h
    have hp : ∀ r : Param, Param.ofIdent (if r.index.val < 13 then r.index.val + 1 else r.index.val + 19) = some r := by
      intro r
      cases r <;> rfl
    have h1 := hp p
    have h2 := hp q
    rw [h] at h1
    exact Option.some.inj (h1.symm.trans h2)
  · intro h
    rw [h]

@[simp] theorem param_setParam_same (p : Param) (v : Nat) : (setParam p v s).param p = v := by
  simp [setParam, State.param]

theorem param_setParam (p q : Param) (v : Nat) : (setParam p v s).param q = if p = q then v else s.param q := by
  simp [setParam, State.param, vget_vset, Param.index_inj]

/-! ## Counters (R220) -/

theorem counter_bumpBy (c d : Counter) (k : Nat) :
    (bumpBy c k s).counter d = if c = d then satAdd Config.max32 (s.counter c) k else s.counter d := by
  simp [bumpBy, State.counter, vget_vset]

theorem counter_bump (c d : Counter) :
    (bump c s).counter d = if c = d then satAdd Config.max32 (s.counter c) 1 else s.counter d :=
  counter_bumpBy s c d 1

@[simp] theorem counter_bump_same (c : Counter) : (bump c s).counter c = satAdd Config.max32 (s.counter c) 1 := by
  simp [counter_bump]

/-- A saturating count never passes its limit. -/
theorem satAdd_le (max n k : Nat) : satAdd max n k ≤ max := Nat.min_le_right _ _

/-- A saturating count never falls, within its limit. -/
theorem le_satAdd (max n k : Nat) (h : n ≤ max) : n ≤ satAdd max n k := by
  unfold satAdd
  omega

/-- A clamped number lies in its range. -/
theorem clamp_range (lo hi n : Nat) (h : lo ≤ hi) : lo ≤ clamp lo hi n ∧ clamp lo hi n ≤ hi := by
  unfold clamp
  omega

theorem clampInt_range (lo hi n : Int) (h : lo ≤ hi) : lo ≤ clampInt lo hi n ∧ clampInt lo hi n ≤ hi := by
  unfold clampInt
  omega

/-- A number within its range is not changed by the clamp. -/
theorem clamp_of_range (lo hi n : Nat) (h1 : lo ≤ n) (h2 : n ≤ hi) : clamp lo hi n = n := by
  unfold clamp
  omega

/-- An update of another block leaves every counter, and the views of the other blocks follow their fields. -/
theorem counter_congr {s t : State} (h : t.counters = s.counters) (c : Counter) : t.counter c = s.counter c := by
  simp [State.counter, h]

theorem param_congr {s t : State} (h : t.du = s.du) (p : Param) : t.param p = s.param p := by
  simp [State.param, h]

theorem call_congr {s t : State} (h : t.cc = s.cc) (n : Slot) : t.call n = s.call n := by
  simp [State.call, h]

theorem port_congr {s t : State} (h : t.ppu = s.ppu) (p : Port) : t.port p = s.port p := by
  simp [State.port, h]

theorem fault_congr {s t : State} (h : t.fu = s.fu) (k : FaultKind) : t.fault k = s.fault k := by
  simp [State.fault, h]

theorem media_congr {s t : State} (h : t.mdu = s.mdu) (n : Slot) : t.media n = s.media n := by
  simp [State.media, h]

theorem chan_congr {s t : State} (h : t.bf = s.bf) (c : Chan) : t.chan c = s.chan c := by
  simp [State.chan, h]

end Sys2Proof.Machine
end

