-- ==== Sys2Proof/Laws/CallKeeps.lean ====
section
/-! SUPPORT. The relation "what the invariants of the Call Table and of the budget say of `s` they say of `t`", and the
updates that keep it. -/

namespace Sys2Proof.Machine

/-- The invariants R146 and R58 hold in `t` if they hold in `s`. -/
structure CallKeeps (s t : State) : Prop where
  calls : CallsOk s → CallsOk t
  budget : CallsOk s → BudgetOk s → BudgetOk t

theorem CallKeeps.refl (s : State) : CallKeeps s s := ⟨id, fun _ => id⟩

theorem CallKeeps.trans {s t u : State} (h : CallKeeps s t) (k : CallKeeps t u) : CallKeeps s u :=
  ⟨fun i => k.calls (h.calls i), fun c i => k.budget (h.calls c) (h.budget c i)⟩

/-- The bound of R58 as the model asks it is the bound as it is stated. -/
theorem boundHolds_iff (s : State) (d : Nat) :
    s.boundHolds d = true ↔ (1 ≤ s.reserved → s.reserved * s.lbu.size.voiceBlocks + 1 + d ≤ s.lbu.sustained) := by
  unfold State.boundHolds State.needed
  by_cases h : s.reserved = 0
  · simp [h]
  · have h1 : 1 ≤ s.reserved := by omega
    simp [h, h1]

theorem budgetOk_iff (s : State) : BudgetOk s ↔ (s.ls.link = .carrying → s.boundHolds s.lbu.floor = true) := by
  rw [BudgetOk, boundHolds_iff]

variable {s0 s : State}

theorem callKeeps_same {t : State} (h : CallKeeps s0 s) (h1 : t.ls = s.ls) (h2 : t.lbu = s.lbu) (h3 : t.cc = s.cc) :
    CallKeeps s0 t := by
  refine h.trans ⟨?_, ?_⟩
  · intro i n
    rw [call_congr h3]
    exact i n
  · unfold BudgetOk State.reserved State.nonFree State.call
    rw [h1, h2, h3]
    exact fun _ => id

theorem callKeeps_onLs {f : Supervisor → Supervisor} (h : CallKeeps s0 s)
    (hl : (f s.ls).link = s.ls.link ∨ (f s.ls).link ≠ .carrying) : CallKeeps s0 (onLs f s) := by
  refine h.trans ⟨id, ?_⟩
  intro _ i hc
  rcases hl with hl | hl
  · exact i (hl ▸ hc)
  · exact absurd hc hl

theorem callKeeps_onLbu {f : Budget → Budget} (h : CallKeeps s0 s) (h1 : (f s.lbu).rate = s.lbu.rate)
    (h2 : (f s.lbu).size = s.lbu.size) (h3 : (f s.lbu).eff = s.lbu.eff) (h4 : (f s.lbu).floor = s.lbu.floor) :
    CallKeeps s0 (onLbu f s) := by
  refine h.trans ⟨id, ?_⟩
  intro _ i hc hv
  have := i hc hv
  have hr : (onLbu f s).reserved = s.reserved := rfl
  simpa [Budget.sustained, Budget.bits, Budget.blockBits, h1, h2, h3, h4, hr] using this

/-- The effective floor replaced by one for which the bound holds. -/
theorem callKeeps_floor {d : Nat} {p : Option Nat} (h : CallKeeps s0 s) (hb : s.boundHolds d = true) :
    CallKeeps s0 (onLbu (fun b => { b with floor := d, pendingFloor := p }) s) := by
  refine h.trans ⟨id, ?_⟩
  intro _ _ _ hv
  exact (boundHolds_iff s d).1 hb hv

theorem nonFree_onCall (n m : Slot) (f : CallSlot → CallSlot) (hf : ((f (s.call n)).state = .free) ↔ (s.call n).state = .free) :
    (onCall n f s).nonFree m = s.nonFree m := by
  unfold State.nonFree
  rw [call_onCall]
  split
  · rename_i e
    subst e
    by_cases hs : (s.call n).state = .free
    · simp [hs, hf.2 hs]
    · have : ¬ (f (s.call n)).state = .free := fun e => hs (hf.1 e)
      rw [Bool.eq_iff_iff]
      simp [hs, this]
  · rfl

/-- A slot record replaced by one its state allows, in use if and only if it was. -/
theorem callKeeps_onCall {n : Slot} {f : CallSlot → CallSlot} (h : CallKeeps s0 s)
    (hs : ((f (s.call n)).state = .free) ↔ (s.call n).state = .free)
    (ho : (s.call n).Ok → (f (s.call n)).Ok) : CallKeeps s0 (onCall n f s) := by
  refine h.trans ⟨?_, ?_⟩
  · intro i m
    rw [call_onCall]
    split
    · exact ho (i n)
    · exact i m
  · intro _ i hc hv
    simp only [State.reserved, nonFree_onCall _ _ _ hs] at hv ⊢
    exact i hc hv

/-- A slot record replaced by one that differs in other fields than those of the invariants. -/
theorem callKeeps_slotRest {n : Slot} {f : CallSlot → CallSlot} (h : CallKeeps s0 s)
    (h1 : (f (s.call n)).state = (s.call n).state) (h2 : (f (s.call n)).attached = (s.call n).attached)
    (h3 : (f (s.call n)).held = (s.call n).held) (h4 : (f (s.call n)).ringSet = (s.call n).ringSet)
    (h5 : (f (s.call n)).alert = (s.call n).alert) (h6 : (f (s.call n)).cadence = (s.call n).cadence)
    (h7 : (f (s.call n)).group = (s.call n).group) : CallKeeps s0 (onCall n f s) := by
  refine callKeeps_onCall h (by rw [h1]) ?_
  rintro ⟨a, b, c⟩
  exact ⟨by rw [h1, h2, h3]; exact a, by rw [h1, h2]; exact b, by rw [h1, h4, h5, h6, h7]; exact c⟩

theorem callKeeps_onCc {f : CallController → CallController} (h : CallKeeps s0 s)
    (h1 : (f s.cc).slots = s.cc.slots) : CallKeeps s0 (onCc f s) := by
  refine h.trans ⟨?_, ?_⟩
  · intro i n
    simpa [State.call, h1] using i n
  · intro _ i hc hv
    simp only [State.reserved, State.nonFree, State.call, onCc_cc, h1] at hv ⊢
    exact i hc hv

/-- The reserved count after a slot's record is replaced. -/
theorem reserved_le_onCall (n : Slot) (f : CallSlot → CallSlot) (hf : (f (s.call n)).state = .free) :
    (onCall n f s).reserved ≤ s.reserved := by
  have h0 : ∀ m, (onCall n f s).nonFree m = if n = m then false else s.nonFree m := by
    intro m
    unfold State.nonFree
    rw [call_onCall]
    split <;> simp_all
  unfold State.reserved
  rw [h0, h0]
  cases n <;> simp

/-- A slot freed keeps the bound. -/
theorem callKeeps_freed {n : Slot} {f : CallSlot → CallSlot} (h : CallKeeps s0 s)
    (hf : (f (s.call n)).state = .free) (ho : (s.call n).Ok → (f (s.call n)).Ok) : CallKeeps s0 (onCall n f s) := by
  refine h.trans ⟨?_, ?_⟩
  · intro i m
    rw [call_onCall]
    split
    · exact ho (i n)
    · exact i m
  · intro _ i hc hv
    have hr := reserved_le_onCall (s := s) n f hf
    have := i hc (Nat.le_trans hv hr)
    have hm := Nat.mul_le_mul_right s.lbu.size.voiceBlocks hr
    show (onCall n f s).reserved * s.lbu.size.voiceBlocks + 1 + s.lbu.floor ≤ s.lbu.sustained
    omega

/-- Slot records replaced by ones their states allow, each in use if and only if it was. -/
theorem callKeeps_of {t : State} (h : CallKeeps s0 s) (h1 : t.ls = s.ls) (h2 : t.lbu = s.lbu)
    (hc : CallsOk s → ∀ m, (t.call m).Ok ∧ ((t.call m).state = .free ↔ (s.call m).state = .free)) :
    CallKeeps s0 t := by
  refine h.trans ⟨fun i m => (hc i m).1, ?_⟩
  intro c i
  have hn : ∀ m, t.nonFree m = s.nonFree m := by
    intro m
    have := (hc c m).2
    unfold State.nonFree
    rw [Bool.eq_iff_iff]
    simp [this]
  unfold BudgetOk State.reserved at *
  rw [h1, h2, hn, hn]
  exact i

theorem callKeeps_whenever {b : Bool} {f : State → State} (h : CallKeeps s0 s)
    (hf : ∀ u, CallKeeps s0 u → CallKeeps s0 (f u)) : CallKeeps s0 (whenever b f s) := by
  cases b
  · exact h
  · exact hf _ h

theorem callKeeps_ifDue {due : State → Bool} {event : State → State} (h : CallKeeps s0 s)
    (he : ∀ u, CallKeeps s0 u → CallKeeps s0 (event u)) : CallKeeps s0 (ifDue due event s) := by
  unfold ifDue
  split
  · exact he _ h
  · exact h

theorem callKeeps_onBf {f : Framer → Framer} (h : CallKeeps s0 s) : CallKeeps s0 (onBf f s) :=
  callKeeps_same h rfl rfl rfl

theorem callKeeps_onMe {f : MatchEngine → MatchEngine} (h : CallKeeps s0 s) : CallKeeps s0 (onMe f s) :=
  callKeeps_same h rfl rfl rfl

theorem callKeeps_onQm {f : QueueManager → QueueManager} (h : CallKeeps s0 s) : CallKeeps s0 (onQm f s) :=
  callKeeps_same h rfl rfl rfl

theorem callKeeps_onPpu {f : PhoneUnit → PhoneUnit} (h : CallKeeps s0 s) : CallKeeps s0 (onPpu f s) :=
  callKeeps_same h rfl rfl rfl

theorem callKeeps_onMdu {f : MediaUnit → MediaUnit} (h : CallKeeps s0 s) : CallKeeps s0 (onMdu f s) :=
  callKeeps_same h rfl rfl rfl

theorem callKeeps_onFu {f : FaultUnit → FaultUnit} (h : CallKeeps s0 s) : CallKeeps s0 (onFu f s) :=
  callKeeps_same h rfl rfl rfl

theorem callKeeps_onDu {f : DirectiveUnit → DirectiveUnit} (h : CallKeeps s0 s) : CallKeeps s0 (onDu f s) :=
  callKeeps_same h rfl rfl rfl

theorem callKeeps_onTr {f : TestResponder → TestResponder} (h : CallKeeps s0 s) : CallKeeps s0 (onTr f s) :=
  callKeeps_same h rfl rfl rfl

theorem callKeeps_onClock {f : Clock → Clock} (h : CallKeeps s0 s) : CallKeeps s0 (onClock f s) :=
  callKeeps_same h rfl rfl rfl

theorem callKeeps_onOut {f : Outputs → Outputs} (h : CallKeeps s0 s) : CallKeeps s0 (onOut f s) :=
  callKeeps_same h rfl rfl rfl

theorem callKeeps_onPort {p : Port} {f : PortUnit → PortUnit} (h : CallKeeps s0 s) : CallKeeps s0 (onPort p f s) :=
  callKeeps_same h rfl rfl rfl

theorem callKeeps_onMedia {n : Slot} {f : MediaSlot → MediaSlot} (h : CallKeeps s0 s) : CallKeeps s0 (onMedia n f s) :=
  callKeeps_same h rfl rfl rfl

theorem callKeeps_onMediaPort {p : Port} {f : MediaPort → MediaPort} (h : CallKeeps s0 s) : CallKeeps s0 (onMediaPort p f s) :=
  callKeeps_same h rfl rfl rfl

theorem callKeeps_onChan {c : Chan} {f : Channel → Channel} (h : CallKeeps s0 s) : CallKeeps s0 (onChan c f s) :=
  callKeeps_same h rfl rfl rfl

theorem callKeeps_bumpBy {c : Counter} {k : Nat} (h : CallKeeps s0 s) : CallKeeps s0 (bumpBy c k s) :=
  callKeeps_same h rfl rfl rfl

theorem callKeeps_bump {c : Counter} (h : CallKeeps s0 s) : CallKeeps s0 (bump c s) := callKeeps_bumpBy h

theorem callKeeps_foldl {α : Type} (l : List α) (f : State → α → State) (h : CallKeeps s0 s)
    (hf : ∀ u x, CallKeeps s0 u → CallKeeps s0 (f u x)) : CallKeeps s0 (l.foldl f s) := by
  induction l generalizing s with
  | nil => exact h
  | cons x l ih => exact ih (hf s x h)

end Sys2Proof.Machine
end

