-- ==== Sys2Proof/Laws/CallKeepsA.lean ====
section
/-! SUPPORT. Each operation of Machine/Ops.lean to Machine/Phone.lean keeps the invariants of Laws/CallKeeps.lean. One lemma per
operation. -/

namespace Sys2Proof.Machine

variable {s0 s : State}

theorem setRec_callKeeps (k : FaultKind) (r : FaultRecord) (h : CallKeeps s0 s) : CallKeeps s0 (setRec k r s) :=
  callKeeps_same h (by simp) (by simp) (by simp)

theorem setParam_callKeeps (p : Param) (v : Nat) (h : CallKeeps s0 s) : CallKeeps s0 (setParam p v s) :=
  callKeeps_same h (by simp) (by simp) (by simp)

theorem sendXcvr_callKeeps (m : XcvrMsg) (h : CallKeeps s0 s) : CallKeeps s0 (sendXcvr m s) :=
  callKeeps_same h (by simp) (by simp) (by simp)

theorem sendBlock_callKeeps (b : Bytes) (h : CallKeeps s0 s) : CallKeeps s0 (sendBlock b s) :=
  callKeeps_same h (by simp) (by simp) (by simp)

theorem sendHome_callKeeps (f : Bytes) (h : CallKeeps s0 s) : CallKeeps s0 (sendHome f s) :=
  callKeeps_same h (by simp) (by simp) (by simp)

theorem pushFifo_callKeeps (kind : FifoKind) (frame : Bytes) (h : CallKeeps s0 s) : CallKeeps s0 (pushFifo kind frame s) :=
  callKeeps_same h (by simp) (by simp) (by simp)

theorem offerFifo_callKeeps (kind : FifoKind) (frame : Bytes) (h : CallKeeps s0 s) : CallKeeps s0 (offerFifo kind frame s) :=
  callKeeps_same h (by simp) (by simp) (by simp)

theorem assertWake_callKeeps (h : CallKeeps s0 s) : CallKeeps s0 (assertWake s) :=
  callKeeps_same h (by simp) (by simp) (by simp)

theorem onList_callKeeps (a : Authority) (f : List PendingItem → List PendingItem) (h : CallKeeps s0 s) : CallKeeps s0 (onList a f s) :=
  callKeeps_same h (by simp) (by simp) (by simp)

theorem drainLocal_callKeeps (n : Nat) (h : CallKeeps s0 s) : CallKeeps s0 (drainLocal n s) :=
  callKeeps_same h (by simp) (by simp) (by simp)

theorem offerLocal_callKeeps (h : CallKeeps s0 s) : CallKeeps s0 (offerLocal s) :=
  callKeeps_same h (by simp) (by simp) (by simp)

theorem enterExch_callKeeps (k : FaultKind) (level : Nat) (h : CallKeeps s0 s) : CallKeeps s0 (enterExch k level s) :=
  callKeeps_same h (by simp) (by simp) (by simp)

theorem enterLoc_callKeeps (k : FaultKind) (level : Nat) (h : CallKeeps s0 s) : CallKeeps s0 (enterLoc k level s) :=
  callKeeps_same h (by simp) (by simp) (by simp)

theorem occurrence_callKeeps (k : FaultKind) (detail : Nat) (h : CallKeeps s0 s) : CallKeeps s0 (occurrence k detail s) :=
  callKeeps_same h (by simp) (by simp) (by simp)

theorem endCondition_callKeeps (k : FaultKind) (h : CallKeeps s0 s) : CallKeeps s0 (endCondition k s) :=
  callKeeps_same h (by simp) (by simp) (by simp)

theorem noticeDone_callKeeps (k : FaultKind) (carried : Nat) (h : CallKeeps s0 s) : CallKeeps s0 (noticeDone k carried s) :=
  callKeeps_same h (by simp) (by simp) (by simp)

theorem emitOn_callKeeps (c : Chan) (kind : BlockKind) (urgent : Bool) (used : Nat) (frameNo : Byte) (payload : Bytes) (h : CallKeeps s0 s) : CallKeeps s0 (emitOn c kind urgent used frameNo payload s) :=
  callKeeps_same h (by simp) (by simp) (by simp)

theorem emitFill_callKeeps (h : CallKeeps s0 s) : CallKeeps s0 (emitFill s) :=
  callKeeps_same h (by simp) (by simp) (by simp)

theorem frameLeft_callKeeps (c : Chan) (source : Source) (h : CallKeeps s0 s) :
    CallKeeps s0 (frameLeft c source s) := by
  have hb : CallKeeps s0 (bump (Ctr.framesSent c) s) := callKeeps_bump h
  unfold frameLeft
  cases source <;> dsimp only
  · exact callKeeps_slotRest hb rfl rfl rfl rfl rfl rfl rfl
  · exact callKeeps_slotRest hb rfl rfl rfl rfl rfl rfl rfl
  · exact callKeeps_onQm hb
  · exact callKeeps_onQm hb
  · exact callKeeps_onQm hb
  · exact noticeDone_callKeeps _ _ hb
  · exact callKeeps_onTr hb

theorem emitNext_callKeeps (c : Chan) (sd : Sending) (h : CallKeeps s0 s) : CallKeeps s0 (emitNext c sd s) := by
  unfold emitNext
  (repeat' split) <;> (repeat' first
    | with_reducible assumption | with_reducible apply callKeeps_onChan | with_reducible apply emitOn_callKeeps
    | with_reducible apply frameLeft_callKeeps)

theorem startFrame_callKeeps (c : Chan) (source : Source) (bytes : Bytes) (h : CallKeeps s0 s) : CallKeeps s0 (startFrame c source bytes s) := by
  unfold startFrame
  repeat' first
    | with_reducible assumption | with_reducible apply callKeeps_onChan | with_reducible apply emitNext_callKeeps

theorem dropSeg_callKeeps (c : Chan) (h : CallKeeps s0 s) : CallKeeps s0 (dropSeg c s) :=
  callKeeps_same h (by simp) (by simp) (by simp)

theorem cutShort_callKeeps (c : Chan) (removed : Source → Bool) (h : CallKeeps s0 s) : CallKeeps s0 (cutShort c removed s) :=
  callKeeps_same h (by simp) (by simp) (by simp)

theorem reportLoss_callKeeps (c : Chan) (cause : LossCause) (h : CallKeeps s0 s) : CallKeeps s0 (reportLoss c cause s) :=
  callKeeps_same h (by simp) (by simp) (by simp)

theorem abandon_callKeeps (c : Chan) (cause : LossCause) (h : CallKeeps s0 s) : CallKeeps s0 (abandon c cause s) :=
  callKeeps_same h (by simp) (by simp) (by simp)

theorem abandonAll_callKeeps (h : CallKeeps s0 s) : CallKeeps s0 (abandonAll s) :=
  callKeeps_same h (by simp) (by simp) (by simp)

theorem dropAllSegs_callKeeps (h : CallKeeps s0 s) : CallKeeps s0 (dropAllSegs s) :=
  callKeeps_same h (by simp) (by simp) (by simp)

theorem unsetExpected_callKeeps (h : CallKeeps s0 s) : CallKeeps s0 (unsetExpected s) :=
  callKeeps_same h (by simp) (by simp) (by simp)

theorem endLoopback_callKeeps (h : CallKeeps s0 s) : CallKeeps s0 (endLoopback s) := by
  unfold endLoopback
  (repeat' split) <;> (repeat' first
    | with_reducible assumption | with_reducible apply callKeeps_onLs | with_reducible apply callKeeps_onBf
    | with_reducible apply callKeeps_bumpBy | (refine Or.inl ?_; with_reducible rfl)
    | exact Or.inr (fun x => nomatch x))

theorem storeLooped_callKeeps (b : Looped) (h : CallKeeps s0 s) : CallKeeps s0 (storeLooped b s) :=
  callKeeps_same h (by simp) (by simp) (by simp)

theorem sendLooped_callKeeps (c : Chan) {t : State} (h : CallKeeps s0 s) (ht : sendLooped c s = some t) :
    CallKeeps s0 t := by
  have := sendLooped_frame _ _ _ ht
  exact callKeeps_same h (by simp [this]) (by simp [this]) (by simp [this])

theorem countAdmission_callKeeps (granted : Bool) (h : CallKeeps s0 s) : CallKeeps s0 (countAdmission granted s) :=
  callKeeps_same h (by simp) (by simp) (by simp)

theorem refuseAdmission_callKeeps (needs : Nat) (h : CallKeeps s0 s) : CallKeeps s0 (refuseAdmission needs s) :=
  callKeeps_same h (by simp) (by simp) (by simp)

theorem floorCheck_callKeeps (h : CallKeeps s0 s) : CallKeeps s0 (floorCheck s) := by
  unfold floorCheck
  split
  · split
    · rename_i hb
      simp only [Bool.and_eq_true] at hb
      exact callKeeps_floor h hb.2
    · exact h
  · exact h

theorem floorWritten_callKeeps (d : Nat) (h : CallKeeps s0 s) : CallKeeps s0 (floorWritten d s) := by
  unfold floorWritten
  split
  · split
    · rename_i hb
      exact callKeeps_floor h hb
    · exact callKeeps_onLbu h rfl rfl rfl rfl
  · exact callKeeps_onLbu h rfl rfl rfl rfl

theorem setMedia_callKeeps (n : Slot) (m : MediaState) (h : CallKeeps s0 s) : CallKeeps s0 (setMedia n m s) :=
  callKeeps_same h (by simp) (by simp) (by simp)

theorem followCall_callKeeps (n : Slot) (h : CallKeeps s0 s) : CallKeeps s0 (followCall n s) :=
  callKeeps_same h (by simp) (by simp) (by simp)

theorem addClip_callKeeps (h : CallKeeps s0 s) : CallKeeps s0 (addClip s) :=
  callKeeps_same h (by simp) (by simp) (by simp)

theorem saturated_callKeeps (v : Int) (h : CallKeeps s0 s) : CallKeeps s0 (saturated v s).1 :=
  callKeeps_same h (by simp) (by simp) (by simp)

theorem dcBlock_callKeeps (p : Port) (x : Int) (h : CallKeeps s0 s) : CallKeeps s0 (dcBlock p x s) :=
  callKeeps_same h (by simp) (by simp) (by simp)

theorem uplinkSample_callKeeps (n : Slot) (h : CallKeeps s0 s) : CallKeeps s0 (uplinkSample n s) :=
  callKeeps_same h (by simp) (by simp) (by simp)

theorem closeFrame_callKeeps (n : Slot) (h : CallKeeps s0 s) : CallKeeps s0 (closeFrame n s) :=
  callKeeps_same h (by simp) (by simp) (by simp)

theorem playArrival_callKeeps (n : Slot) (resume : Bool) (f : RingFrame) (h : CallKeeps s0 s) : CallKeeps s0 (playArrival n resume f s) :=
  callKeeps_same h (by simp) (by simp) (by simp)

theorem mediaArrives_callKeeps (n : Slot) (frame : Bytes) (h : CallKeeps s0 s) : CallKeeps s0 (mediaArrives n frame s) := by
  unfold mediaArrives
  (repeat' split) <;> (repeat' first
    | with_reducible assumption | with_reducible apply callKeeps_bump | with_reducible apply callKeeps_slotRest
    | with_reducible apply playArrival_callKeeps | with_reducible rfl)

theorem mediaPeriod_callKeeps (n : Slot) (h : CallKeeps s0 s) : CallKeeps s0 (mediaPeriod n s) :=
  callKeeps_same h (by simp) (by simp) (by simp)

theorem playTone_callKeeps (p : Port) (kind : ToneKind) (h : CallKeeps s0 s) : CallKeeps s0 (playTone p kind s).1 :=
  callKeeps_same h (by simp) (by simp) (by simp)

theorem playCall_callKeeps (p : Port) (n : Slot) (h : CallKeeps s0 s) : CallKeeps s0 (playCall p n s).1 :=
  callKeeps_same h (by simp) (by simp) (by simp)

theorem playEcho_callKeeps (p : Port) (t : PortTest) (h : CallKeeps s0 s) : CallKeeps s0 (playEcho p t s).1 :=
  callKeeps_same h (by simp) (by simp) (by simp)

theorem outputSample_callKeeps (p : Port) (h : CallKeeps s0 s) : CallKeeps s0 (outputSample p s).1 :=
  callKeeps_same h (by simp) (by simp) (by simp)

theorem giveSample_callKeeps (p : Port) (h : CallKeeps s0 s) : CallKeeps s0 (giveSample p s) :=
  callKeeps_same h (by simp) (by simp) (by simp)

theorem sampleInstant_callKeeps (a b : Int) (pins : Pins) (h : CallKeeps s0 s) : CallKeeps s0 (sampleInstant a b pins s) :=
  callKeeps_same h (by simp) (by simp) (by simp)

theorem keepThreshold_callKeeps (k : FaultKind) (count threshold : Nat) (h : CallKeeps s0 s) : CallKeeps s0 (keepThreshold k count threshold s) :=
  callKeeps_same h (by simp) (by simp) (by simp)

theorem mediaSecond_callKeeps (h : CallKeeps s0 s) : CallKeeps s0 (mediaSecond s) :=
  callKeeps_same h (by simp) (by simp) (by simp)

theorem sendHalt_callKeeps (h : CallKeeps s0 s) : CallKeeps s0 (sendHalt s) :=
  callKeeps_same h (by simp) (by simp) (by simp)

theorem sendTrain_callKeeps (i : Fin 8) (h : CallKeeps s0 s) : CallKeeps s0 (sendTrain i s) := by
  unfold sendTrain
  repeat' first
    | with_reducible assumption | with_reducible apply callKeeps_onLs | with_reducible apply callKeeps_bump
    | with_reducible apply sendXcvr_callKeeps | (refine Or.inl ?_; with_reducible rfl)
    | exact Or.inr (fun x => nomatch x)

theorem enterLink_callKeeps (new : LinkState) (h : CallKeeps s0 s) (hn : new ≠ .carrying) :
    CallKeeps s0 (enterLink new s) :=
  callKeeps_whenever (callKeeps_onLs h (.inr hn)) fun _ hu => occurrence_callKeeps _ _ hu

theorem dropClaim_callKeeps (h : CallKeeps s0 s) : CallKeeps s0 (dropClaim s) := by
  unfold dropClaim
  (repeat' split) <;> (repeat' first
    | with_reducible assumption | with_reducible apply callKeeps_onLbu | with_reducible apply callKeeps_bump
    | with_reducible rfl)

theorem leaveCarrying_callKeeps (h : CallKeeps s0 s) : CallKeeps s0 (leaveCarrying s) := by
  unfold leaveCarrying
  repeat' first
    | with_reducible assumption | with_reducible apply callKeeps_onLs | with_reducible apply endCondition_callKeeps
    | with_reducible apply abandonAll_callKeeps | with_reducible apply dropAllSegs_callKeeps
    | with_reducible apply endLoopback_callKeeps | with_reducible apply dropClaim_callKeeps
    | (refine Or.inl ?_; with_reducible rfl) | exact Or.inr (fun x => nomatch x)

theorem stepUpTo_callKeeps (i : Fin 8) (h : CallKeeps s0 s) : CallKeeps s0 (stepUpTo i s) := by
  unfold stepUpTo
  repeat' first
    | with_reducible assumption | with_reducible apply callKeeps_bump | with_reducible apply sendHalt_callKeeps
    | with_reducible apply sendTrain_callKeeps | with_reducible apply enterLink_callKeeps
    | with_reducible apply leaveCarrying_callKeeps | exact fun x => nomatch x

theorem lastSlotFree_callKeeps (h : CallKeeps s0 s) : CallKeeps s0 (lastSlotFree s) := by
  unfold lastSlotFree
  (repeat' split) <;> (repeat' first
    | with_reducible assumption | with_reducible apply callKeeps_onLs | with_reducible apply enterLink_callKeeps
    | with_reducible apply stepUpTo_callKeeps | (refine Or.inl ?_; with_reducible rfl)
    | exact Or.inr (fun x => nomatch x) | exact fun x => nomatch x)

theorem enterPort_callKeeps (p : Port) (new : PortState) (h : CallKeeps s0 s) : CallKeeps s0 (enterPort p new s) :=
  callKeeps_same h (by simp) (by simp) (by simp)

theorem quieten_callKeeps (p : Port) (h : CallKeeps s0 s) : CallKeeps s0 (quieten p s) :=
  callKeeps_same h (by simp) (by simp) (by simp)

theorem loadChannel_callKeeps (p : Port) (c : CadenceChannel) (h : CallKeeps s0 s) : CallKeeps s0 (loadChannel p c s) :=
  callKeeps_same h (by simp) (by simp) (by simp)

theorem stopChannel_callKeeps (p : Port) (h : CallKeeps s0 s) : CallKeeps s0 (stopChannel p s) :=
  callKeeps_same h (by simp) (by simp) (by simp)

theorem startRing_callKeeps (p : Port) (cad : Fin 8) (h : CallKeeps s0 s) : CallKeeps s0 (startRing p cad s) :=
  callKeeps_same h (by simp) (by simp) (by simp)

theorem toneSegment_callKeeps (p : Port) (k : ToneKind) (on : Bool) (h : CallKeeps s0 s) : CallKeeps s0 (toneSegment p k on s) :=
  callKeeps_same h (by simp) (by simp) (by simp)

theorem startTone_callKeeps (p : Port) (k : ToneKind) (h : CallKeeps s0 s) : CallKeeps s0 (startTone p k s) :=
  callKeeps_same h (by simp) (by simp) (by simp)

theorem startPark_callKeeps (p : Port) (h : CallKeeps s0 s) : CallKeeps s0 (startPark p s) :=
  callKeeps_same h (by simp) (by simp) (by simp)

theorem toReleased_callKeeps (p : Port) (h : CallKeeps s0 s) : CallKeeps s0 (toReleased p s) :=
  callKeeps_same h (by simp) (by simp) (by simp)

theorem toLocalTone_callKeeps (p : Port) (k : ToneKind) (h : CallKeeps s0 s) : CallKeeps s0 (toLocalTone p k s) :=
  callKeeps_same h (by simp) (by simp) (by simp)

theorem toIdle_callKeeps (p : Port) (h : CallKeeps s0 s) : CallKeeps s0 (toIdle p s) :=
  callKeeps_same h (by simp) (by simp) (by simp)

theorem toParked_callKeeps (p : Port) (h : CallKeeps s0 s) : CallKeeps s0 (toParked p s) :=
  callKeeps_same h (by simp) (by simp) (by simp)

theorem leftParked_callKeeps (h : CallKeeps s0 s) : CallKeeps s0 (leftParked s) :=
  callKeeps_same h (by simp) (by simp) (by simp)

theorem unpair_callKeeps (p : Port) (h : CallKeeps s0 s) : CallKeeps s0 (unpair p s) :=
  callKeeps_same h (by simp) (by simp) (by simp)

theorem endRinging_callKeeps (p : Port) (h : CallKeeps s0 s) : CallKeeps s0 (endRinging p s) :=
  callKeeps_same h (by simp) (by simp) (by simp)

theorem stopRinging_callKeeps (p : Port) (h : CallKeeps s0 s) : CallKeeps s0 (stopRinging p s) :=
  callKeeps_same h (by simp) (by simp) (by simp)

theorem ringOne_callKeeps (p : Port) (h : CallKeeps s0 s) : CallKeeps s0 (ringOne p s) :=
  callKeeps_same h (by simp) (by simp) (by simp)

theorem startRings_callKeeps (cad : Fin 8) (group : Bool) (rung : PortSet) (h : CallKeeps s0 s) : CallKeeps s0 (startRings cad group rung s) :=
  callKeeps_same h (by simp) (by simp) (by simp)

theorem ringPorts_callKeeps (ports : PortSet) (cad : Fin 8) (group : Bool) (h : CallKeeps s0 s) : CallKeeps s0 (ringPorts ports cad group s).1 :=
  callKeeps_same h (by simp) (by simp) (by simp)

theorem segmentEnd_callKeeps (p : Port) (h : CallKeeps s0 s) : CallKeeps s0 (segmentEnd p s) :=
  callKeeps_same h (by simp) (by simp) (by simp)

end Sys2Proof.Machine
end

