-- ==== Sys2Proof/Laws/CallKeepsB.lean ====
section
/-! SUPPORT. Each operation of Machine/Calls.lean to Machine/Resets.lean keeps the invariants of Laws/CallKeeps.lean. One lemma per
operation. -/

namespace Sys2Proof.Machine

variable {s0 s : State}

theorem queueSignal_callKeeps (n : Slot) (g : Signal) (h : CallKeeps s0 s) : CallKeeps s0 (queueSignal n g s) := by
  unfold queueSignal
  (repeat' split) <;> (repeat' first
    | with_reducible assumption | with_reducible apply callKeeps_bump | with_reducible apply callKeeps_slotRest
    | with_reducible rfl)

theorem frontSignal_callKeeps (n : Slot) (g : Signal) (h : CallKeeps s0 s) : CallKeeps s0 (frontSignal n g s) := by
  unfold frontSignal
  repeat' first
    | with_reducible assumption | intro u hu | with_reducible apply callKeeps_bump
    | with_reducible apply callKeeps_whenever | with_reducible apply callKeeps_slotRest | with_reducible rfl

theorem reserved_admit (n : Slot) (st : SlotState) (dir : CallDir) (s : State) (hst : st ≠ .free)
    (hf : (s.call n).state = .free) : (occupy n st dir s).reserved = s.reserved + 1 := by
  have h0 : ∀ m, (occupy n st dir s).nonFree m = if n = m then true else s.nonFree m := by
    intro m
    unfold State.nonFree occupy
    rw [call_onCall]
    split
    · simp [CallSlot.admitted, hst]
    · rfl
  have hn : s.nonFree n = false := by simp [State.nonFree, hf]
  unfold State.reserved
  rw [h0, h0]
  cases n <;> simp_all <;> omega

/-- An admission that is granted leaves the bound held, whatever it was before (R57, R58). -/
theorem occupy_budget (n : Slot) (st : SlotState) (dir : CallDir) (s : State) (hst : st ≠ .free)
    (hf : (s.call n).state = .free) (ha : s.admissible = true) : BudgetOk (occupy n st dir s) := by
  simp only [State.admissible, Bool.and_eq_true, decide_eq_true_eq, State.requestNeeds, State.needed] at ha
  intro _ _
  rw [reserved_admit n st dir s hst hf]
  have h2 := of_decide_eq_true ha.2
  exact h2

theorem occupy_callKeeps (n : Slot) (st : SlotState) (dir : CallDir) (h : CallKeeps s0 s) (hst : st ≠ .free)
    (hf : (s.call n).state = .free) (ha : s.admissible = true) : CallKeeps s0 (occupy n st dir s) := by
  refine h.trans ⟨?_, fun _ _ => occupy_budget n st dir s hst hf ha⟩
  intro i m
  unfold occupy
  rw [call_onCall]
  split
  · obtain ⟨a, b, c⟩ := i n
    refine ⟨fun e => absurd e hst, fun _ => (a hf).1, fun _ => ?_⟩
    exact c (by rw [hf]; exact fun e => nomatch e)
  · exact i m

/-- A slot's record freed (R146, R147). -/
theorem freed_ok (c : CallSlot) (cause : Cause) (held : Bool) : (c.freed cause held).Ok :=
  ⟨fun _ => ⟨rfl, rfl⟩, fun _ => rfl, fun _ => ⟨rfl, rfl, rfl, rfl⟩⟩

theorem freeSlot_callKeeps (n : Slot) (cause : Cause) (h : CallKeeps s0 s) : CallKeeps s0 (freeSlot n cause s) :=
  floorCheck_callKeeps (followCall_callKeeps _ (callKeeps_freed h rfl fun _ => freed_ok _ _ _))

theorem reportIfIdle_callKeeps (h : CallKeeps s0 s) : CallKeeps s0 (reportIfIdle s) := by
  unfold reportIfIdle
  (repeat' split) <;> (repeat' first
    | with_reducible assumption | with_reducible apply lastSlotFree_callKeeps)

/-- A port attached to a slot that is CONNECTED or ORIGINATING. -/
theorem attach_callKeeps (p : Port) (n : Slot) (h : CallKeeps s0 s) (h1 : (s.call n).state ≠ .free)
    (h2 : (s.call n).state ≠ .alerting) : CallKeeps s0 (attach p n s) := by
  refine enterPort_callKeeps _ _ (callKeeps_onCall h Iff.rfl ?_)
  rintro ⟨a, b, c⟩
  exact ⟨fun e => absurd e h1, fun e => absurd e h2, c⟩

theorem joinSlot_connected {n : Slot} (h : s.joinSlot = some n) : (s.call n).state = .connected := by
  unfold State.joinSlot at h
  split at h
  · split at h
    · rename_i hj
      cases h
      simp only [State.joinable, Bool.and_eq_true, beq_iff_eq] at hj
      exact hj.1
    · split at h
      · rename_i hj
        cases h
        simp only [State.joinable, Bool.and_eq_true, beq_iff_eq] at hj
        exact hj.1
      · cases h
  · cases h

theorem lowestFree_free {n : Slot} (h : s.lowestFree = some n) : (s.call n).state = .free := by
  unfold State.lowestFree at h
  split at h
  · rename_i hj
    cases h
    simpa [State.nonFree] using hj
  · split at h
    · rename_i hj
      cases h
      simpa [State.nonFree] using hj
    · cases h

theorem join_callKeeps (p : Port) (n : Slot) (h : CallKeeps s0 s) (hc : (s.call n).state = .connected) :
    CallKeeps s0 (join p n s) :=
  callKeeps_bump (attach_callKeeps p n h (by rw [hc]; exact fun x => nomatch x) (by rw [hc]; exact fun x => nomatch x))

theorem occupy_call (n : Slot) (st : SlotState) (dir : CallDir) (s : State) :
    ((occupy n st dir s).call n).state = st := by
  simp [occupy, CallSlot.admitted]

theorem originate_callKeeps (p : Port) (n : Slot) (h : CallKeeps s0 s) (hf : (s.call n).state = .free)
    (ha : s.admissible = true) : CallKeeps s0 (originate p n s) := by
  have hs := occupy_call n .originating .out s
  exact followCall_callKeeps _ (callKeeps_bump (queueSignal_callKeeps _ _ (attach_callKeeps p n
    (occupy_callKeeps n .originating .out h (fun x => nomatch x) hf ha) (by rw [hs]; exact fun x => nomatch x)
    (by rw [hs]; exact fun x => nomatch x))))

theorem refuseOff_callKeeps (p : Port) (h : CallKeeps s0 s) : CallKeeps s0 (refuseOff p s) :=
  callKeeps_same h (by simp) (by simp) (by simp)

theorem offHook_callKeeps (p : Port) (h : CallKeeps s0 s) : CallKeeps s0 (offHook p s) := by
  have hb : CallKeeps s0 (bump (Ctr.offHooks p) s) := callKeeps_bump h
  unfold offHook
  dsimp only
  split
  · rename_i n hn
    exact join_callKeeps p n hb (joinSlot_connected hn)
  · split
    · split
      · rename_i n hn
        split
        · rename_i ha
          exact originate_callKeeps p n hb (lowestFree_free hn) ha
        · exact refuseOff_callKeeps _ hb
      · exact refuseOff_callKeeps _ hb
    · exact toLocalTone_callKeeps _ _ hb

theorem takeIfLifted_callKeeps (p : Port) (h : CallKeeps s0 s) : CallKeeps s0 (takeIfLifted p s) := by
  unfold takeIfLifted
  (repeat' split) <;> (repeat' first
    | with_reducible assumption | with_reducible apply offHook_callKeeps)

theorem takeLifted_callKeeps (ports : PortSet) (h : CallKeeps s0 s) : CallKeeps s0 (takeLifted ports s) := by
  unfold takeLifted
  repeat' first
    | with_reducible assumption | intro u hu | with_reducible apply callKeeps_whenever
    | with_reducible apply takeIfLifted_callKeeps

theorem stopAll_callKeeps (ports : PortSet) (h : CallKeeps s0 s) : CallKeeps s0 (stopAll ports s) :=
  callKeeps_same h (by simp) (by simp) (by simp)

theorem releaseAll_callKeeps (ports : PortSet) (h : CallKeeps s0 s) : CallKeeps s0 (releaseAll ports s) :=
  callKeeps_same h (by simp) (by simp) (by simp)

theorem refuseAlert_callKeeps (n : Slot) (cause : Cause) (h : CallKeeps s0 s) : CallKeeps s0 (refuseAlert n cause s) := by
  unfold refuseAlert
  repeat' first
    | with_reducible assumption | with_reducible apply callKeeps_bump | with_reducible apply queueSignal_callKeeps

theorem ringPorts_call (ports : PortSet) (cad : Fin 8) (group : Bool) (s : State) (n : Slot) :
    (ringPorts ports cad group s).1.call n = s.call n := call_congr (by simp) n

theorem alertRings_callKeeps (n : Slot) (ports : PortSet) (cad : Fin 8) (group : Bool) (h : CallKeeps s0 s)
    (hf : (s.call n).state = .free) (ha : s.admissible = true) : CallKeeps s0 (alertRings n ports cad group s) := by
  have hs := occupy_call n .alerting .inward s
  have h1 : CallKeeps s0 (followCall n (onCall n (fun c => { c with cadence := cad.val, group := group })
      (occupy n .alerting .inward s))) := by
    refine followCall_callKeeps _ (callKeeps_onCall
      (occupy_callKeeps n .alerting .inward h (fun x => nomatch x) hf ha) Iff.rfl ?_)
    rintro ⟨a, b, c⟩
    exact ⟨fun e => absurd (hs.symm.trans e) (fun x => nomatch x), b, fun e => absurd hs e⟩
  unfold alertRings
  dsimp only
  split
  · exact reportIfIdle_callKeeps (refuseAlert_callKeeps _ _ (freeSlot_callKeeps _ _ (ringPorts_callKeeps _ _ _ h1)))
  · refine callKeeps_bump (callKeeps_onCall (ringPorts_callKeeps _ _ _ h1) Iff.rfl ?_)
    have hs2 : ((ringPorts ports cad group (followCall n (onCall n (fun c => { c with cadence := cad.val, group := group })
        (occupy n .alerting .inward s)))).1.call n).state = .alerting := by
      rw [ringPorts_call, call_congr (followCall_frame n _).2.2.2.2.2.2.2.1]
      simpa using hs
    rintro ⟨a, b, c⟩
    exact ⟨fun e => absurd (hs2.symm.trans e) (fun x => nomatch x), b, fun e => absurd hs2 e⟩

theorem alert_callKeeps (n : Slot) (cadence : Nat) (ports : PortSet) (group : Bool) (h : CallKeeps s0 s)
    (hf : (s.call n).state = .free) : CallKeeps s0 (alert n cadence ports group s) := by
  unfold alert
  split
  · exact refuseAlert_callKeeps _ _ h
  · split
    · exact refuseAlert_callKeeps _ _ h
    · split
      · rename_i ha
        exact alertRings_callKeeps _ _ _ _ h hf ha
      · exact refuseAdmission_callKeeps _ (refuseAlert_callKeeps _ _ (countAdmission_callKeeps _ h))

theorem queueSignal_call (n m : Slot) (g : Signal) (s : State) :
    ∃ l, (queueSignal n g s).call m = { s.call m with signals := l } := by
  unfold queueSignal
  split
  · rw [call_onCall]
    split
    · rename_i e
      subst e
      exact ⟨_, rfl⟩
    · exact ⟨_, rfl⟩
  · exact ⟨_, rfl⟩

theorem ringSlotOf_has {p : Port} {n : Slot} (h : s.ringSlotOf p = some n) : (s.call n).ringSet.has p = true := by
  unfold State.ringSlotOf at h
  split at h
  · cases h
    assumption
  · split at h
    · cases h
      assumption
    · cases h

/-- A slot whose ring set holds a port is ALERTING. -/
theorem ringSlot_alerting {p : Port} {n : Slot} (h : s.ringSlotOf p = some n) (i : CallsOk s) :
    (s.call n).state = .alerting := by
  by_contra hs
  have hr := ((i n).ringing hs).1
  have hh := ringSlotOf_has h
  rw [hr] at hh
  cases p <;> cases hh

theorem answer_callKeeps (p : Port) (h : CallKeeps s0 s) : CallKeeps s0 (answer p s) := by
  unfold answer
  split
  · exact h
  · rename_i n hn
    refine takeLifted_callKeeps _ (callKeeps_bump (followCall_callKeeps _ (callKeeps_of h (by simp) (by simp) ?_)))
    intro i m
    have ha := ringSlot_alerting hn i
    rw [call_onCall]
    split
    · rename_i e
      subst e
      refine ⟨⟨fun e => absurd (show SlotState.connected = .free from e) (by decide),
        fun e => absurd (show SlotState.connected = .alerting from e) (by decide), fun _ => ?_⟩, by simp [ha]⟩
      obtain ⟨l, hl⟩ := queueSignal_call n n (.answer p) (unpair p (stopAll ((s.call n).ringSet.put p false)
        (attach p n (onCall n (fun c => { c with alert := none, ringSet := noPorts, cadence := 0, group := false })
        (bump (Ctr.answers p) (stopChannel p s))))))
      rw [hl, call_congr (unpair_frame p _).2.2.2.2.2.2.1, call_congr (stopAll_frame _ _).2.2.2.2.2.2.1]
      simp only [attach]
      rw [call_congr (enterPort_frame _ _ _).2.2.2.2.2.2.1, call_onCall_same, call_onCall_same]
      exact ⟨rfl, rfl, rfl, rfl⟩
    · rename_i hne
      obtain ⟨l, hl⟩ := queueSignal_call n m (.answer p) (unpair p (stopAll ((s.call n).ringSet.put p false)
        (attach p n (onCall n (fun c => { c with alert := none, ringSet := noPorts, cadence := 0, group := false })
        (bump (Ctr.answers p) (stopChannel p s))))))
      rw [hl, call_congr (unpair_frame p _).2.2.2.2.2.2.1, call_congr (stopAll_frame _ _).2.2.2.2.2.2.1]
      simp only [attach]
      rw [call_congr (enterPort_frame _ _ _).2.2.2.2.2.2.1, call_onCall, if_neg hne, call_onCall, if_neg hne]
      have hs : (bump (Ctr.answers p) (stopChannel p s)).call m = s.call m := call_congr (by simp) m
      rw [hs]
      exact ⟨⟨(i m).free, (i m).alerting, (i m).ringing⟩, Iff.rfl⟩

theorem noPorts_put (p : Port) : noPorts.put p false = noPorts := by cases p <;> rfl

theorem leaveRingSet_callKeeps (p : Port) (cause : Cause) (h : CallKeeps s0 s) :
    CallKeeps s0 (leaveRingSet p cause s) := by
  unfold leaveRingSet
  split
  · exact h
  · rename_i n hn
    dsimp only
    have h1 : CallKeeps s0 (onCall n (fun c => { c with ringSet := (s.call n).ringSet.put p false }) s) := by
      refine callKeeps_onCall h Iff.rfl ?_
      rintro ⟨a, b, c⟩
      refine ⟨a, b, fun e => ?_⟩
      obtain ⟨c1, c2⟩ := c e
      exact ⟨by rw [c1]; exact noPorts_put p, c2⟩
    split
    · exact reportIfIdle_callKeeps (queueSignal_callKeeps _ _ (freeSlot_callKeeps _ _ h1))
    · exact h1

theorem alertLimit_callKeeps (n : Slot) (h : CallKeeps s0 s) : CallKeeps s0 (alertLimit n s) := by
  unfold alertLimit
  repeat' first
    | with_reducible assumption | with_reducible apply callKeeps_bump | with_reducible apply queueSignal_callKeeps
    | with_reducible apply freeSlot_callKeeps | with_reducible apply reportIfIdle_callKeeps
    | with_reducible apply takeLifted_callKeeps | with_reducible apply stopAll_callKeeps

theorem cancel_callKeeps (n : Slot) (h : CallKeeps s0 s) : CallKeeps s0 (cancel n s) := by
  unfold cancel
  repeat' first
    | with_reducible assumption | with_reducible apply freeSlot_callKeeps
    | with_reducible apply reportIfIdle_callKeeps | with_reducible apply takeLifted_callKeeps
    | with_reducible apply stopAll_callKeeps

/-- A CONNECT on an ORIGINATING slot. -/
theorem connect_callKeeps (n : Slot) (h : CallKeeps s0 s) (hs : (s.call n).state = .originating) :
    CallKeeps s0 (connect n s) := by
  refine followCall_callKeeps _ (callKeeps_onCall h (by simp [hs]) ?_)
  rintro ⟨a, b, c⟩
  exact ⟨fun e => absurd (show SlotState.connected = .free from e) (by decide),
    fun e => absurd (show SlotState.connected = .alerting from e) (by decide),
    fun _ => c (by rw [hs]; exact fun x => nomatch x)⟩

theorem release_callKeeps (n : Slot) (code : Nat) (h : CallKeeps s0 s) : CallKeeps s0 (release n code s) := by
  unfold release
  repeat' first
    | with_reducible assumption | with_reducible apply freeSlot_callKeeps
    | with_reducible apply reportIfIdle_callKeeps | with_reducible apply takeLifted_callKeeps
    | with_reducible apply stopAll_callKeeps | with_reducible apply releaseAll_callKeeps

theorem ignoreSignal_callKeeps (h : CallKeeps s0 s) : CallKeeps s0 (ignoreSignal s) :=
  callKeeps_same h (by simp) (by simp) (by simp)

theorem signalArrives_callKeeps (n : Slot) (frame : Bytes) (h : CallKeeps s0 s) : CallKeeps s0 (signalArrives n frame s) := by
  unfold signalArrives
  dsimp only
  (repeat' split) <;> (repeat' first
    | with_reducible assumption | with_reducible apply callKeeps_bump | with_reducible apply refuseAlert_callKeeps
    | with_reducible apply alert_callKeeps | with_reducible apply cancel_callKeeps
    | with_reducible apply connect_callKeeps | with_reducible apply release_callKeeps
    | with_reducible apply ignoreSignal_callKeeps)

theorem fromPort_callKeeps (p : Port) (g : Signal) (h : CallKeeps s0 s) : CallKeeps s0 (fromPort p g s) := by
  unfold fromPort
  (repeat' split) <;> (repeat' first
    | with_reducible assumption | with_reducible apply queueSignal_callKeeps)

theorem detach_callKeeps (p : Port) (h : CallKeeps s0 s) : CallKeeps s0 (detach p s) := by
  unfold detach
  split
  · exact h
  · rename_i n hn
    dsimp only
    have h1 : CallKeeps s0 (onCall n (fun c => { c with attached := (s.call n).attached.put p false }) s) := by
      refine callKeeps_onCall h Iff.rfl ?_
      rintro ⟨a, b, c⟩
      refine ⟨fun e => ?_, fun e => ?_, c⟩
      · obtain ⟨a1, a2⟩ := a e
        exact ⟨by rw [a1]; exact noPorts_put p, a2⟩
      · rw [b e]
        exact noPorts_put p
    split
    · exact reportIfIdle_callKeeps (queueSignal_callKeeps _ _ (freeSlot_callKeeps _ _ h1))
    · exact h1

theorem holdSlot_callKeeps (n : Slot) (h : CallKeeps s0 s) : CallKeeps s0 (holdSlot n s) := by
  unfold holdSlot
  split
  · rename_i hn
    refine followCall_callKeeps _ (callKeeps_onCall h Iff.rfl ?_)
    rintro ⟨a, b, c⟩
    refine ⟨fun e => ?_, b, c⟩
    simp [State.nonFree] at hn
    exact absurd e hn
  · exact h

theorem holdSlots_callKeeps (h : CallKeeps s0 s) : CallKeeps s0 (holdSlots s) := by
  unfold holdSlots
  repeat' first
    | with_reducible assumption | with_reducible apply holdSlot_callKeeps

theorem cutSlot_callKeeps (n : Slot) (h : CallKeeps s0 s) : CallKeeps s0 (cutSlot n s) := by
  unfold cutSlot
  repeat' first
    | with_reducible assumption | with_reducible apply callKeeps_bump | with_reducible apply occurrence_callKeeps
    | with_reducible apply queueSignal_callKeeps | with_reducible apply freeSlot_callKeeps
    | with_reducible apply reportIfIdle_callKeeps | with_reducible apply takeLifted_callKeeps
    | with_reducible apply stopAll_callKeeps | with_reducible apply releaseAll_callKeeps

/-- The bound holds, or at most `k` slots are in use. -/
def BoundOr (k : Nat) (s : State) : Prop := BudgetOk s ∨ s.reserved ≤ k

theorem reserved_congr {t : State} (h : t.cc = s.cc) : t.reserved = s.reserved := by
  unfold State.reserved State.nonFree State.call
  rw [h]

theorem BoundOr.step {k : Nat} {t : State} (hi : CallsOk s) (h : BoundOr k s) (hk : CallKeeps s t)
    (hr : t.reserved = s.reserved) : BoundOr k t := by
  rcases h with h | h
  · exact .inl (hk.budget hi h)
  · exact .inr (by rw [hr]; exact h)

theorem reserved_onCall_same (n : Slot) (f : CallSlot → CallSlot)
    (hf : (f (s.call n)).state = .free ↔ (s.call n).state = .free) : (onCall n f s).reserved = s.reserved := by
  unfold State.reserved
  rw [nonFree_onCall _ _ _ hf, nonFree_onCall _ _ _ hf]

theorem reserved_queueSignal (n : Slot) (g : Signal) (s : State) : (queueSignal n g s).reserved = s.reserved := by
  unfold queueSignal
  split
  · exact reserved_onCall_same _ _ Iff.rfl
  · rfl

theorem originate_from_admit (p : Port) (n : Slot) (s : State) :
    CallKeeps (occupy n .originating .out s) (originate p n s) := by
  have hs := occupy_call n .originating .out s
  exact followCall_callKeeps _ (callKeeps_bump (queueSignal_callKeeps _ _ (attach_callKeeps p n (CallKeeps.refl _)
    (by rw [hs]; exact fun x => nomatch x) (by rw [hs]; exact fun x => nomatch x))))

theorem offHook_boundOr {k : Nat} (p : Port) (hi : CallsOk s) (h : BoundOr k s) : BoundOr k (offHook p s) := by
  have hb : BoundOr k (bump (Ctr.offHooks p) s) := h.step hi (callKeeps_bump (CallKeeps.refl s)) rfl
  have hib : CallsOk (bump (Ctr.offHooks p) s) := hi
  unfold offHook
  dsimp only
  split
  · rename_i n hn
    refine hb.step hib (join_callKeeps p n (CallKeeps.refl _) (joinSlot_connected hn)) ?_
    unfold join attach
    rw [reserved_congr (bump_cc _ _), reserved_congr (enterPort_frame _ _ _).2.2.2.2.2.2.1]
    exact reserved_onCall_same _ _ Iff.rfl
  · split
    · split
      · rename_i n hn
        split
        · rename_i ha
          have hf := lowestFree_free hn
          refine .inl ((originate_from_admit p n _).budget ?_ (occupy_budget n .originating .out _ (fun x => nomatch x) hf ha))
          exact (occupy_callKeeps n .originating .out (CallKeeps.refl _) (fun x => nomatch x) hf ha).calls hib
        · exact hb.step hib (refuseOff_callKeeps _ (CallKeeps.refl _)) (reserved_congr (by simp))
      · exact hb.step hib (refuseOff_callKeeps _ (CallKeeps.refl _)) (reserved_congr (by simp))
    · exact hb.step hib (toLocalTone_callKeeps _ _ (CallKeeps.refl _)) (reserved_congr (by simp))

theorem takeIfLifted_boundOr {k : Nat} (p : Port) (hi : CallsOk s) (h : BoundOr k s) :
    BoundOr k (takeIfLifted p s) := by
  unfold takeIfLifted
  split
  · exact offHook_boundOr p hi h
  · exact h

theorem takeLifted_boundOr {k : Nat} (ports : PortSet) (hi : CallsOk s) (h : BoundOr k s) :
    BoundOr k (takeLifted ports s) := by
  unfold takeLifted
  have h1 : BoundOr k (whenever ports.a (takeIfLifted .a) s) := by
    cases ports.a
    · exact h
    · exact takeIfLifted_boundOr .a hi h
  have hi1 : CallsOk (whenever ports.a (takeIfLifted .a) s) := by
    cases ports.a
    · exact hi
    · exact (takeIfLifted_callKeeps .a (CallKeeps.refl s)).calls hi
  cases ports.b
  · exact h1
  · exact takeIfLifted_boundOr .b hi1 h1

theorem reserved_freeSlot (n : Slot) (cause : Cause) (s : State) (hn : s.nonFree n = true) :
    (freeSlot n cause s).reserved + 1 = s.reserved := by
  unfold freeSlot
  rw [reserved_congr (floorCheck_frame _).2.2.2.2.2.2.1, reserved_congr (followCall_frame _ _).2.2.2.2.2.2.2.1]
  have h0 : ∀ m, State.nonFree (onCall n (fun c => c.freed cause s.ls.link.isHold) s) m =
      if n = m then false else s.nonFree m := by
    intro m
    unfold State.nonFree
    rw [call_onCall]
    split
    · simp [CallSlot.freed]
    · rfl
  unfold State.reserved
  rw [h0, h0]
  cases n <;> simp_all <;> omega

theorem signalled_callKeeps (k : FaultKind) (d : Nat) (c : Counter) (n : Slot) (g : Signal) (s : State) :
    CallKeeps s (reportIfIdle (bump c (occurrence k d (queueSignal n g s)))) :=
  reportIfIdle_callKeeps (callKeeps_bump (occurrence_callKeeps k d (queueSignal_callKeeps n g (CallKeeps.refl s))))

theorem reserved_signalled (k : FaultKind) (d : Nat) (c : Counter) (n : Slot) (g : Signal) (s : State) :
    (reportIfIdle (bump c (occurrence k d (queueSignal n g s)))).reserved = s.reserved := by
  have h : (reportIfIdle (bump c (occurrence k d (queueSignal n g s)))).cc = (queueSignal n g s).cc := by simp
  rw [reserved_congr h, reserved_queueSignal]

/-- A slot cut leaves one slot fewer in use, or the bound held by an admission that followed (R60). -/
theorem cutSlot_boundOr {k : Nat} (n : Slot) (hi : CallsOk s) (hn : s.nonFree n = true) (hk : s.reserved ≤ k + 1) :
    BoundOr k (cutSlot n s) := by
  unfold cutSlot
  have hcc : (stopAll (s.call n).ringSet (releaseAll (s.call n).attached s)).cc = s.cc := by simp
  have hn1 : (stopAll (s.call n).ringSet (releaseAll (s.call n).attached s)).nonFree n = true := by
    unfold State.nonFree
    rw [call_congr hcc]
    exact hn
  have hr := reserved_freeSlot n .budget _ hn1
  rw [reserved_congr hcc] at hr
  have k1 : CallKeeps s (freeSlot n .budget (stopAll (s.call n).ringSet (releaseAll (s.call n).attached s))) :=
    freeSlot_callKeeps _ _ (stopAll_callKeeps _ (releaseAll_callKeeps _ (CallKeeps.refl s)))
  have b1 : BoundOr k (freeSlot n .budget (stopAll (s.call n).ringSet (releaseAll (s.call n).attached s))) :=
    .inr (by omega)
  exact takeLifted_boundOr _ ((signalled_callKeeps ..).calls (k1.calls hi))
    (b1.step (k1.calls hi) (signalled_callKeeps ..) (reserved_signalled ..))

theorem preemptOnce_callKeeps (h : CallKeeps s0 s) : CallKeeps s0 (preemptOnce s) := by
  unfold preemptOnce
  split
  · exact h
  · exact cutSlot_callKeeps _ h

theorem lastAdmitted_nonFree (h : 1 ≤ s.reserved) : s.nonFree s.lastAdmitted = true := by
  unfold State.reserved at h
  unfold State.lastAdmitted
  cases h0 : s.nonFree .zero <;> cases h1 : s.nonFree .one <;> simp_all
  split <;> simp [h0, h1]

theorem preemptOnce_boundOr {k : Nat} (hi : CallsOk s) (hk : s.reserved ≤ k + 1) : BoundOr k (preemptOnce s) := by
  unfold preemptOnce
  split
  · rename_i hb
    exact .inl ((budgetOk_iff s).2 fun _ => hb)
  · rename_i hb
    have hv : 1 ≤ s.reserved := by
      by_contra hv
      exact hb ((boundHolds_iff s _).2 fun e => absurd e hv)
    exact cutSlot_boundOr _ hi (lastAdmitted_nonFree hv) hk

theorem preempt_callKeeps (h : CallKeeps s0 s) : CallKeeps s0 (preempt s) :=
  preemptOnce_callKeeps (preemptOnce_callKeeps h)

theorem reserved_le (s : State) : s.reserved ≤ 2 := by
  unfold State.reserved
  cases s.nonFree .zero <;> cases s.nonFree .one <;> decide

/-- After the preemption check the bound holds, whatever it was before (R60). -/
theorem preempt_budget (hi : CallsOk s) : BudgetOk (preempt s) := by
  have h1 : BoundOr 1 (preemptOnce s) := preemptOnce_boundOr hi (reserved_le s)
  have hi1 : CallsOk (preemptOnce s) := (preemptOnce_callKeeps (CallKeeps.refl s)).calls hi
  rcases h1 with h1 | h1
  · exact (preemptOnce_callKeeps (CallKeeps.refl _)).budget hi1 h1
  · rcases preemptOnce_boundOr (k := 0) hi1 h1 with h2 | h2
    · exact h2
    · intro _ hv
      have : (preemptOnce (preemptOnce s)).reserved = (preempt s).reserved := rfl
      omega

theorem refreshSlot_callKeeps (n : Slot) (h : CallKeeps s0 s) : CallKeeps s0 (refreshSlot n s) := by
  unfold refreshSlot
  (repeat' split) <;> (repeat' first
    | with_reducible assumption | with_reducible apply callKeeps_bump | with_reducible apply frontSignal_callKeeps)

theorem endHold_callKeeps (n : Slot) (h : CallKeeps s0 s) : CallKeeps s0 (endHold n s) := by
  refine followCall_callKeeps _ (callKeeps_onCall h Iff.rfl ?_)
  rintro ⟨a, b, c⟩
  exact ⟨fun e => ⟨(a e).1, rfl⟩, b, c⟩

theorem lineReturns_callKeeps (h : CallKeeps s0 s) : CallKeeps s0 (lineReturns s) :=
  endHold_callKeeps _ (endHold_callKeeps _ (refreshSlot_callKeeps _ (refreshSlot_callKeeps _ (preempt_callKeeps h))))

/-- After the line's return the bound holds (R60, R162). -/
theorem lineReturns_budget (hi : CallsOk s) : BudgetOk (lineReturns s) :=
  (endHold_callKeeps .one (endHold_callKeeps .zero (refreshSlot_callKeeps .one (refreshSlot_callKeeps .zero
    (CallKeeps.refl _))))).budget ((preempt_callKeeps (CallKeeps.refl s)).calls hi) (preempt_budget hi)

theorem callsOk_congr {t : State} (h : t.cc = s.cc) (hi : CallsOk s) : CallsOk t := by
  intro n
  rw [call_congr h]
  exact hi n

/-- The line's return from a state whose Call Table is that of `s`. -/
theorem lineReturns_of {t : State} (h : CallKeeps s0 s) (hc : t.cc = s.cc) : CallKeeps s0 (lineReturns t) :=
  h.trans ⟨fun i => (lineReturns_callKeeps (CallKeeps.refl t)).calls (callsOk_congr hc i),
    fun i _ => lineReturns_budget (callsOk_congr hc i)⟩

theorem dropSlot_callKeeps (n : Slot) (h : CallKeeps s0 s) : CallKeeps s0 (dropSlot n s) := by
  unfold dropSlot
  (repeat' split) <;> (repeat' first
    | with_reducible assumption | with_reducible apply callKeeps_bumpBy | with_reducible apply callKeeps_bump
    | with_reducible apply callKeeps_slotRest | with_reducible apply occurrence_callKeeps
    | with_reducible apply cutShort_callKeeps | with_reducible apply freeSlot_callKeeps
    | with_reducible apply takeLifted_callKeeps | with_reducible apply stopAll_callKeeps
    | with_reducible apply releaseAll_callKeeps | with_reducible rfl)

theorem dropAll_callKeeps (h : CallKeeps s0 s) : CallKeeps s0 (dropAll s) := by
  unfold dropAll
  repeat' first
    | with_reducible assumption | with_reducible apply dropSlot_callKeeps

theorem probeArrives_callKeeps (frame : Bytes) (h : CallKeeps s0 s) : CallKeeps s0 (probeArrives frame s) :=
  callKeeps_same h (by simp) (by simp) (by simp)

theorem endProbe_callKeeps (h : CallKeeps s0 s) : CallKeeps s0 (endProbe s) :=
  callKeeps_same h (by simp) (by simp) (by simp)

theorem pushReply_callKeeps (msg : Bytes) (h : CallKeeps s0 s) : CallKeeps s0 (pushReply msg s) :=
  callKeeps_same h (by simp) (by simp) (by simp)

theorem sendResult_callKeeps (t : PortTest) (o : TestOutcome) (time : Nat) (h : CallKeeps s0 s) : CallKeeps s0 (sendResult t o time s) :=
  callKeeps_same h (by simp) (by simp) (by simp)

theorem setTest_callKeeps (t : Option PortTest) (h : CallKeeps s0 s) : CallKeeps s0 (setTest t s) :=
  callKeeps_same h (by simp) (by simp) (by simp)

theorem startTest_callKeeps (t : PortTest) (h : CallKeeps s0 s) : CallKeeps s0 (startTest t s) :=
  callKeeps_same h (by simp) (by simp) (by simp)

theorem testAnswer_callKeeps (p : Port) (h : CallKeeps s0 s) : CallKeeps s0 (testAnswer p s) :=
  callKeeps_same h (by simp) (by simp) (by simp)

theorem testExpiry_callKeeps (h : CallKeeps s0 s) : CallKeeps s0 (testExpiry s) :=
  callKeeps_same h (by simp) (by simp) (by simp)

theorem testOnHook_callKeeps (p : Port) (h : CallKeeps s0 s) : CallKeeps s0 (testOnHook p s) :=
  callKeeps_same h (by simp) (by simp) (by simp)

theorem testPowerLimited_callKeeps (p : Port) (h : CallKeeps s0 s) : CallKeeps s0 (testPowerLimited p s) :=
  callKeeps_same h (by simp) (by simp) (by simp)

theorem batteryLow_callKeeps (detail : Nat) (h : CallKeeps s0 s) : CallKeeps s0 (batteryLow detail s) := by
  unfold batteryLow
  repeat' first
    | with_reducible assumption | intro u hu | with_reducible apply callKeeps_onLbu
    | with_reducible apply callKeeps_onFu | with_reducible apply callKeeps_whenever
    | with_reducible apply occurrence_callKeeps | with_reducible rfl

theorem mainsLost_callKeeps (detail : Nat) (h : CallKeeps s0 s) : CallKeeps s0 (mainsLost detail s) :=
  callKeeps_same h (by simp) (by simp) (by simp)

theorem powerConditions_callKeeps (old new : PowerState) (h : CallKeeps s0 s) : CallKeeps s0 (powerConditions old new s) := by
  unfold powerConditions
  (repeat' split) <;> (repeat' first
    | with_reducible assumption | with_reducible apply endCondition_callKeeps
    | with_reducible apply batteryLow_callKeeps | with_reducible apply mainsLost_callKeeps)

theorem shedBulk_callKeeps (h : CallKeeps s0 s) : CallKeeps s0 (shedBulk s) :=
  callKeeps_same h (by simp) (by simp) (by simp)

theorem limitRinger_callKeeps (h : CallKeeps s0 s) : CallKeeps s0 (limitRinger s) := by
  unfold limitRinger
  (repeat' split) <;> (repeat' first
    | with_reducible assumption | with_reducible apply occurrence_callKeeps
    | with_reducible apply stopRinging_callKeeps | with_reducible apply takeIfLifted_callKeeps
    | with_reducible apply leaveRingSet_callKeeps | with_reducible apply testPowerLimited_callKeeps)

theorem powerChange_callKeeps (mains low : Bool) (h : CallKeeps s0 s) : CallKeeps s0 (powerChange mains low s) := by
  unfold powerChange
  dsimp only
  (repeat' split) <;> (repeat' first
    | with_reducible assumption | intro u hu | with_reducible apply callKeeps_onFu
    | with_reducible apply callKeeps_bump | with_reducible apply callKeeps_whenever
    | with_reducible apply powerConditions_callKeeps | with_reducible apply shedBulk_callKeeps
    | with_reducible apply limitRinger_callKeeps)

theorem classify_callKeeps (p : Port) (b : Nat) (h : CallKeeps s0 s) : CallKeeps s0 (classify p b s) := by
  unfold classify
  dsimp only
  (repeat' split) <;> (repeat' first
    | with_reducible assumption | intro u hu | with_reducible apply callKeeps_onPort
    | with_reducible apply callKeeps_bump | with_reducible apply callKeeps_whenever
    | with_reducible apply fromPort_callKeeps)

theorem takeChange_callKeeps (p : Port) (closed : Bool) (h : CallKeeps s0 s) : CallKeeps s0 (takeChange p closed s) := by
  unfold takeChange
  repeat' first
    | with_reducible assumption | intro u hu | with_reducible apply callKeeps_onPort
    | with_reducible apply callKeeps_whenever | with_reducible apply classify_callKeeps

theorem closingTaken_callKeeps (p : Port) (h : CallKeeps s0 s) : CallKeeps s0 (closingTaken p s) := by
  unfold closingTaken
  (repeat' split) <;> (repeat' first
    | with_reducible assumption | with_reducible apply offHook_callKeeps | with_reducible apply answer_callKeeps
    | with_reducible apply testAnswer_callKeeps)

theorem loopChange_callKeeps (p : Port) (h : CallKeeps s0 s) : CallKeeps s0 (loopChange p s) := by
  unfold loopChange
  (repeat' split) <;> (repeat' first
    | with_reducible assumption | intro u hu | with_reducible apply callKeeps_whenever
    | with_reducible apply takeChange_callKeeps | with_reducible apply closingTaken_callKeeps)

theorem ringTrip_callKeeps (p : Port) (h : CallKeeps s0 s) : CallKeeps s0 (ringTrip p s) := by
  unfold ringTrip
  (repeat' split) <;> (repeat' first
    | with_reducible assumption | with_reducible apply stopChannel_callKeeps
    | with_reducible apply takeChange_callKeeps | with_reducible apply closingTaken_callKeeps)

theorem onHookTaken_callKeeps (p : Port) (h : CallKeeps s0 s) : CallKeeps s0 (onHookTaken p s) := by
  unfold onHookTaken
  (repeat' split) <;> (repeat' first
    | with_reducible assumption | with_reducible apply toIdle_callKeeps | with_reducible apply leftParked_callKeeps
    | with_reducible apply detach_callKeeps | with_reducible apply testOnHook_callKeeps)

theorem onHookFires_callKeeps (p : Port) (h : CallKeeps s0 s) : CallKeeps s0 (onHookFires p s) := by
  unfold onHookFires
  repeat' first
    | with_reducible assumption | intro u hu | with_reducible apply callKeeps_onPort
    | with_reducible apply callKeeps_bump | with_reducible apply callKeeps_whenever
    | with_reducible apply onHookTaken_callKeeps

theorem digitTaken_callKeeps (p : Port) (pulses : Nat) (h : CallKeeps s0 s) : CallKeeps s0 (digitTaken p pulses s) := by
  unfold digitTaken
  (repeat' split) <;> (repeat' first
    | with_reducible assumption | with_reducible apply callKeeps_bump | with_reducible apply fromPort_callKeeps)

theorem interdigitFires_callKeeps (p : Port) (h : CallKeeps s0 s) : CallKeeps s0 (interdigitFires p s) := by
  unfold interdigitFires
  repeat' first
    | with_reducible assumption | with_reducible apply callKeeps_onPort | with_reducible apply digitTaken_callKeeps

theorem parkExpires_callKeeps (p : Port) (h : CallKeeps s0 s) : CallKeeps s0 (parkExpires p s) :=
  callKeeps_same h (by simp) (by simp) (by simp)

theorem toDisabled_callKeeps (p : Port) (h : CallKeeps s0 s) : CallKeeps s0 (toDisabled p s) :=
  callKeeps_same h (by simp) (by simp) (by simp)

theorem disablePort_callKeeps (p : Port) (h : CallKeeps s0 s) : CallKeeps s0 (disablePort p s) := by
  unfold disablePort
  (repeat' split) <;> (repeat' first
    | with_reducible assumption | with_reducible apply leftParked_callKeeps | with_reducible apply unpair_callKeeps
    | with_reducible apply leaveRingSet_callKeeps | with_reducible apply detach_callKeeps
    | with_reducible apply toDisabled_callKeeps)

theorem enablePort_callKeeps (p : Port) (h : CallKeeps s0 s) : CallKeeps s0 (enablePort p s) := by
  unfold enablePort
  (repeat' split) <;> (repeat' first
    | with_reducible assumption | with_reducible apply enterPort_callKeeps
    | with_reducible apply takeIfLifted_callKeeps)

theorem releasePortAct_callKeeps (p : Port) (h : CallKeeps s0 s) : CallKeeps s0 (releasePortAct p s) := by
  unfold releasePortAct
  (repeat' split) <;> (repeat' first
    | with_reducible assumption | with_reducible apply toReleased_callKeeps
    | with_reducible apply stopRinging_callKeeps | with_reducible apply takeIfLifted_callKeeps
    | with_reducible apply leaveRingSet_callKeeps | with_reducible apply detach_callKeeps)

theorem stray_callKeeps (h : CallKeeps s0 s) : CallKeeps s0 (stray s) :=
  callKeeps_same h (by simp) (by simp) (by simp)

theorem enterTraining_callKeeps (h : CallKeeps s0 s) : CallKeeps s0 (enterTraining s) := by
  unfold enterTraining
  (repeat' split) <;> (repeat' first
    | with_reducible assumption | with_reducible apply callKeeps_onLs | with_reducible apply enterLink_callKeeps
    | with_reducible apply holdSlots_callKeeps | (refine Or.inl ?_; with_reducible rfl)
    | exact Or.inr (fun x => nomatch x) | exact fun x => nomatch x)

theorem startLine_callKeeps (h : CallKeeps s0 s) : CallKeeps s0 (startLine s) := by
  unfold startLine
  repeat' first
    | with_reducible assumption | with_reducible apply callKeeps_onLs | with_reducible apply sendTrain_callKeeps
    | with_reducible apply enterLink_callKeeps | (refine Or.inl ?_; with_reducible rfl)
    | exact Or.inr (fun x => nomatch x) | exact fun x => nomatch x

theorem newRound_callKeeps (h : CallKeeps s0 s) : CallKeeps s0 (newRound s) := by
  unfold newRound
  repeat' first
    | with_reducible assumption | with_reducible apply callKeeps_onLs | with_reducible apply sendTrain_callKeeps
    | with_reducible apply enterLink_callKeeps | (refine Or.inl ?_; with_reducible rfl)
    | exact Or.inr (fun x => nomatch x) | exact fun x => nomatch x

theorem enterWaiting_callKeeps (h : CallKeeps s0 s) : CallKeeps s0 (enterWaiting s) := by
  unfold enterWaiting
  repeat' first
    | with_reducible assumption | with_reducible apply callKeeps_onLs | with_reducible apply callKeeps_bump
    | with_reducible apply occurrence_callKeeps | with_reducible apply sendHalt_callKeeps
    | with_reducible apply enterLink_callKeeps | with_reducible apply dropAll_callKeeps
    | (refine Or.inl ?_; with_reducible rfl) | exact Or.inr (fun x => nomatch x) | exact fun x => nomatch x

theorem trainingFailed_callKeeps (halt : Bool) (h : CallKeeps s0 s) : CallKeeps s0 (trainingFailed halt s) := by
  unfold trainingFailed
  (repeat' split) <;> (repeat' first
    | with_reducible assumption | intro u hu | with_reducible apply callKeeps_whenever
    | with_reducible apply sendHalt_callKeeps | with_reducible apply sendTrain_callKeeps
    | with_reducible apply enterWaiting_callKeeps)

theorem enterCarrying_callKeeps (rate : Nat) (margin : Int) (h : CallKeeps s0 s) :
    CallKeeps s0 (enterCarrying rate margin s) := lineReturns_of h (by simp)

theorem trainedTaken_callKeeps (rate : Nat) (margin : Int) (h : CallKeeps s0 s) : CallKeeps s0 (trainedTaken rate margin s) := by
  unfold trainedTaken
  dsimp only
  (repeat' split) <;> (repeat' first
    | with_reducible assumption | intro u hu | with_reducible apply callKeeps_bump
    | with_reducible apply callKeeps_whenever | with_reducible apply trainingFailed_callKeeps
    | with_reducible apply enterCarrying_callKeeps)

theorem rideFails_callKeeps (h : CallKeeps s0 s) : CallKeeps s0 (rideFails s) := by
  unfold rideFails
  repeat' first
    | with_reducible assumption | with_reducible apply callKeeps_onLs | with_reducible apply callKeeps_bump
    | with_reducible apply occurrence_callKeeps | with_reducible apply sendHalt_callKeeps
    | with_reducible apply sendTrain_callKeeps | with_reducible apply enterTraining_callKeeps
    | (refine Or.inl ?_; with_reducible rfl) | exact Or.inr (fun x => nomatch x)

theorem startRide_callKeeps (h : CallKeeps s0 s) : CallKeeps s0 (startRide s) := by
  unfold startRide
  dsimp only
  (repeat' split) <;> (repeat' first
    | with_reducible assumption | with_reducible apply callKeeps_onLs | with_reducible apply callKeeps_bump
    | with_reducible apply enterLink_callKeeps | with_reducible apply leaveCarrying_callKeeps
    | with_reducible apply holdSlots_callKeeps | with_reducible apply rideFails_callKeeps
    | (refine Or.inl ?_; with_reducible rfl) | exact Or.inr (fun x => nomatch x) | exact fun x => nomatch x)

theorem endRide_callKeeps (h : CallKeeps s0 s) : CallKeeps s0 (endRide s) := lineReturns_of h (by simp)

theorem holdExpires_callKeeps (h : CallKeeps s0 s) : CallKeeps s0 (holdExpires s) := by
  unfold holdExpires
  repeat' first
    | with_reducible assumption | with_reducible apply callKeeps_onLs | with_reducible apply callKeeps_bump
    | with_reducible apply enterLink_callKeeps | with_reducible apply dropAll_callKeeps
    | (refine Or.inl ?_; with_reducible rfl) | exact Or.inr (fun x => nomatch x) | exact fun x => nomatch x

theorem stepDownTo_callKeeps (i : Fin 8) (h : CallKeeps s0 s) : CallKeeps s0 (stepDownTo i s) := by
  unfold stepDownTo
  repeat' first
    | with_reducible assumption | with_reducible apply callKeeps_bump | with_reducible apply occurrence_callKeeps
    | with_reducible apply sendHalt_callKeeps | with_reducible apply sendTrain_callKeeps
    | with_reducible apply leaveCarrying_callKeeps | with_reducible apply enterTraining_callKeeps

theorem askStepDown_callKeeps (h : CallKeeps s0 s) : CallKeeps s0 (askStepDown s) := by
  unfold askStepDown
  (repeat' split) <;> (repeat' first
    | with_reducible assumption | with_reducible apply stepDownTo_callKeeps)

theorem evalSevere_callKeeps (h : CallKeeps s0 s) : CallKeeps s0 (evalSevere s) := by
  unfold evalSevere
  dsimp only
  (repeat' split) <;> (repeat' first
    | with_reducible assumption | with_reducible apply occurrence_callKeeps
    | with_reducible apply endCondition_callKeeps | with_reducible apply askStepDown_callKeeps)

theorem evalStepUp_callKeeps (h : CallKeeps s0 s) : CallKeeps s0 (evalStepUp s) := by
  unfold evalStepUp
  (repeat' split) <;> (repeat' first
    | with_reducible assumption | with_reducible apply callKeeps_onLs | with_reducible apply stepUpTo_callKeeps
    | (refine Or.inl ?_; with_reducible rfl) | exact Or.inr (fun x => nomatch x))

theorem gradeSecond_callKeeps (h : CallKeeps s0 s) : CallKeeps s0 (gradeSecond s) := by
  unfold gradeSecond
  split
  · exact evalStepUp_callKeeps (evalSevere_callKeeps (callKeeps_onLs h (.inl rfl)))
  · exact h

theorem marginTaken_callKeeps (margin : Int) (h : CallKeeps s0 s) : CallKeeps s0 (marginTaken margin s) := by
  unfold marginTaken
  dsimp only
  (repeat' split) <;> (repeat' first
    | with_reducible assumption | with_reducible apply callKeeps_onLs | with_reducible apply occurrence_callKeeps
    | with_reducible apply endCondition_callKeeps | with_reducible apply askStepDown_callKeeps
    | (refine Or.inl ?_; with_reducible rfl) | exact Or.inr (fun x => nomatch x))

theorem stopLine_callKeeps (h : CallKeeps s0 s) : CallKeeps s0 (stopLine s) := by
  unfold stopLine
  repeat' first
    | with_reducible assumption | intro u hu | with_reducible apply callKeeps_onLs
    | with_reducible apply callKeeps_whenever | with_reducible apply endCondition_callKeeps
    | with_reducible apply sendHalt_callKeeps | with_reducible apply enterLink_callKeeps
    | with_reducible apply leaveCarrying_callKeeps | with_reducible apply dropAll_callKeeps
    | with_reducible apply endProbe_callKeeps | (refine Or.inl ?_; with_reducible rfl)
    | exact Or.inr (fun x => nomatch x) | exact fun x => nomatch x

theorem retrainFromUp_callKeeps (h : CallKeeps s0 s) : CallKeeps s0 (retrainFromUp s) := by
  unfold retrainFromUp
  repeat' first
    | with_reducible assumption | intro u hu | with_reducible apply callKeeps_onLs
    | with_reducible apply callKeeps_whenever | with_reducible apply occurrence_callKeeps
    | with_reducible apply sendHalt_callKeeps | with_reducible apply sendTrain_callKeeps
    | with_reducible apply leaveCarrying_callKeeps | with_reducible apply enterTraining_callKeeps
    | (refine Or.inl ?_; with_reducible rfl) | exact Or.inr (fun x => nomatch x)

theorem retrain_callKeeps (h : CallKeeps s0 s) : CallKeeps s0 (retrain s) := by
  unfold retrain
  (repeat' split) <;> (repeat' first
    | with_reducible assumption | with_reducible apply sendHalt_callKeeps
    | with_reducible apply sendTrain_callKeeps | with_reducible apply newRound_callKeeps
    | with_reducible apply retrainFromUp_callKeeps)

theorem startLoopback_callKeeps (c : LoopChannel) (h : CallKeeps s0 s) : CallKeeps s0 (startLoopback c s) := by
  unfold startLoopback
  (repeat' split) <;> (repeat' first
    | with_reducible assumption | with_reducible apply callKeeps_onLs | with_reducible apply callKeeps_bump
    | with_reducible apply dropSeg_callKeeps | with_reducible apply abandon_callKeeps
    | (refine Or.inl ?_; with_reducible rfl) | exact Or.inr (fun x => nomatch x))

theorem loopbackExpires_callKeeps (h : CallKeeps s0 s) : CallKeeps s0 (loopbackExpires s) := by
  unfold loopbackExpires
  (repeat' split) <;> (repeat' first
    | with_reducible assumption | with_reducible apply callKeeps_bump | with_reducible apply endLoopback_callKeeps)

theorem countHit_callKeeps (found : Option (Fin 32)) (h : CallKeeps s0 s) : CallKeeps s0 (countHit found s) :=
  callKeeps_same h (by simp) (by simp) (by simp)

theorem offerPriority_callKeeps (f : Bytes) (h : CallKeeps s0 s) : CallKeeps s0 (offerPriority f s) :=
  callKeeps_same h (by simp) (by simp) (by simp)

theorem offerBulk_callKeeps (f : Bytes) (h : CallKeeps s0 s) : CallKeeps s0 (offerBulk f s) :=
  callKeeps_same h (by simp) (by simp) (by simp)

theorem classUpstream_callKeeps (c : FrameClass) (f : Bytes) (h : CallKeeps s0 s) : CallKeeps s0 (classUpstream c f s) :=
  callKeeps_same h (by simp) (by simp) (by simp)

theorem upstream_callKeeps (f : Bytes) (h : CallKeeps s0 s) : CallKeeps s0 (upstream f s) :=
  callKeeps_same h (by simp) (by simp) (by simp)

theorem quietRules_callKeeps (found : Option (Fin 32)) (f : Bytes) (h : CallKeeps s0 s) : CallKeeps s0 (quietRules found f s) :=
  callKeeps_same h (by simp) (by simp) (by simp)

theorem downstream_callKeeps (f : Bytes) (h : CallKeeps s0 s) : CallKeeps s0 (downstream f s) :=
  callKeeps_same h (by simp) (by simp) (by simp)

theorem itemSent_callKeeps (h : CallKeeps s0 s) : CallKeeps s0 (itemSent s) :=
  callKeeps_same h (by simp) (by simp) (by simp)

theorem homeUp_callKeeps (h : CallKeeps s0 s) : CallKeeps s0 (homeUp s) :=
  callKeeps_same h (by simp) (by simp) (by simp)

theorem homeDown_callKeeps (h : CallKeeps s0 s) : CallKeeps s0 (homeDown s) :=
  callKeeps_same h (by simp) (by simp) (by simp)

theorem resetBlocks_callKeeps (a : Authority) (h : CallKeeps s0 s) : CallKeeps s0 (resetBlocks a s) := by
  refine h.trans ⟨?_, fun _ _ e => nomatch e⟩
  intro _ n
  cases n <;> exact ⟨fun _ => ⟨rfl, rfl⟩, fun _ => rfl, fun _ => ⟨rfl, rfl, rfl, rfl⟩⟩

theorem endAtReset_callKeeps (h : CallKeeps s0 s) : CallKeeps s0 (endAtReset s) :=
  callKeeps_same h (by simp) (by simp) (by simp)

theorem directedReset_callKeeps (a : Authority) (h : CallKeeps s0 s) : CallKeeps s0 (directedReset a s) := by
  unfold directedReset
  repeat' first
    | with_reducible assumption | intro u hu | with_reducible apply callKeeps_whenever
    | with_reducible apply occurrence_callKeeps | with_reducible apply sendHalt_callKeeps
    | with_reducible apply startLine_callKeeps | with_reducible apply resetBlocks_callKeeps
    | with_reducible apply endAtReset_callKeeps

end Sys2Proof.Machine
end

