-- ==== Sys2Proof/Laws/CallKeepsC.lean ====
section
/-! SUPPORT. Each operation of Machine/Directives.lean to Machine/Events.lean keeps the invariants of Laws/CallKeeps.lean. One lemma per
operation. -/

namespace Sys2Proof.Machine

variable {s0 s : State}

theorem sendReply_callKeeps (a : Authority) (msg : Bytes) (h : CallKeeps s0 s) : CallKeeps s0 (sendReply a msg s) :=
  callKeeps_same h (by simp) (by simp) (by simp)

theorem answerWith_callKeeps (sender : Sender) (codeByte : Byte) (tag : Half) (r : Answer) (h : CallKeeps s0 r.state) :
    CallKeeps s0 (answerWith sender codeByte tag r) := sendReply_callKeeps _ _ (callKeeps_bump h)

theorem refuse_callKeeps (status : Status) (h : CallKeeps s0 s) : CallKeeps s0 (refuse status s).state := h

theorem doneWith_callKeeps (body : Bytes) (h : CallKeeps s0 s) : CallKeeps s0 (doneWith body s).state := h

theorem refuseOwner_callKeeps (sender : Sender) (code : Nat) (tag : Half) (table : Nat) (h : CallKeeps s0 s) : CallKeeps s0 (refuseOwner sender code tag table s) :=
  callKeeps_same h (by simp) (by simp) (by simp)

theorem readTableAct_callKeeps (table first count : Byte) (h : CallKeeps s0 s) : CallKeeps s0 (readTableAct table first count s).state :=
  callKeeps_same h (by simp) (by simp) (by simp)

theorem countClamp_callKeeps (differs : Bool) (h : CallKeeps s0 s) : CallKeeps s0 (countClamp differs s) :=
  callKeeps_same h (by simp) (by simp) (by simp)

theorem writeProfileAct_callKeeps (index : Byte) (e : ProfileImage) (h : CallKeeps s0 s) : CallKeeps s0 (writeProfileAct index e s).state := by
  unfold writeProfileAct
  split
  all_goals try dsimp only
  all_goals (repeat' split) <;> (repeat' first
    | with_reducible assumption | with_reducible apply callKeeps_onLs | with_reducible apply doneWith_callKeeps
    | with_reducible apply refuse_callKeeps | with_reducible apply countClamp_callKeeps
    | (refine Or.inl ?_; with_reducible rfl) | exact Or.inr (fun x => nomatch x))

theorem writeCadenceAct_callKeeps (index : Byte) (durations : List Half) (rep : Byte) (h : CallKeeps s0 s) : CallKeeps s0 (writeCadenceAct index durations rep s).state :=
  callKeeps_same h (by simp) (by simp) (by simp)

theorem writeMatchAct_callKeeps (index : Byte) (e : MatchImage) (h : CallKeeps s0 s) : CallKeeps s0 (writeMatchAct index e s).state :=
  callKeeps_same h (by simp) (by simp) (by simp)

theorem writeAnswerAct_callKeeps (index valid : Byte) (hw : Mac) (ip : Ip) (h : CallKeeps s0 s) : CallKeeps s0 (writeAnswerAct index valid hw ip s).state :=
  callKeeps_same h (by simp) (by simp) (by simp)

theorem removeItem_callKeeps (a : Authority) (k : FaultKind) (h : CallKeeps s0 s) : CallKeeps s0 (removeItem a k s) :=
  callKeeps_same h (by simp) (by simp) (by simp)

theorem writeFaultAct_callKeeps (a : Authority) (index level : Byte) (h : CallKeeps s0 s) : CallKeeps s0 (writeFaultAct a index level s).state :=
  callKeeps_same h (by simp) (by simp) (by simp)

theorem readParamAct_callKeeps (ident : Byte) (h : CallKeeps s0 s) : CallKeeps s0 (readParamAct ident s).state :=
  callKeeps_same h (by simp) (by simp) (by simp)

theorem storeParam_callKeeps (p : Param) (v : Nat) (h : CallKeeps s0 s) : CallKeeps s0 (storeParam p v s) := by
  unfold storeParam
  repeat' first
    | with_reducible assumption | intro u hu | with_reducible apply callKeeps_whenever
    | with_reducible apply setParam_callKeeps | with_reducible apply floorWritten_callKeeps

theorem writeParamAct_callKeeps (ident : Byte) (value : BitVec 48) (h : CallKeeps s0 s) : CallKeeps s0 (writeParamAct ident value s).state := by
  unfold writeParamAct
  split
  all_goals try dsimp only
  all_goals (repeat' split) <;> (repeat' first
    | with_reducible assumption | with_reducible apply doneWith_callKeeps | with_reducible apply refuse_callKeeps
    | with_reducible apply countClamp_callKeeps | with_reducible apply storeParam_callKeeps)

theorem clearKind_callKeeps (a : Authority) (counts : Bool) (k : FaultKind) (h : CallKeeps s0 s) : CallKeeps s0 (clearKind a counts k s) :=
  callKeeps_same h (by simp) (by simp) (by simp)

theorem clearFaultAct_callKeeps (a : Authority) (kind flag : Byte) (h : CallKeeps s0 s) : CallKeeps s0 (clearFaultAct a kind flag s).state :=
  callKeeps_same h (by simp) (by simp) (by simp)

theorem startAct_callKeeps (h : CallKeeps s0 s) : CallKeeps s0 (startAct s).state := by
  unfold startAct
  split
  all_goals try dsimp only
  all_goals (repeat' split) <;> (repeat' first
    | with_reducible assumption | with_reducible apply startLine_callKeeps
    | with_reducible apply newRound_callKeeps | with_reducible apply doneWith_callKeeps
    | with_reducible apply refuse_callKeeps)

theorem retrainAct_callKeeps (h : CallKeeps s0 s) : CallKeeps s0 (retrainAct s).state := by
  unfold retrainAct
  split
  all_goals try dsimp only
  all_goals (repeat' split) <;> (repeat' first
    | with_reducible assumption | with_reducible apply retrain_callKeeps | with_reducible apply doneWith_callKeeps
    | with_reducible apply refuse_callKeeps)

theorem stepDownAct_callKeeps (h : CallKeeps s0 s) : CallKeeps s0 (stepDownAct s).state := by
  unfold stepDownAct
  split
  all_goals try dsimp only
  all_goals (repeat' split) <;> (repeat' first
    | with_reducible assumption | with_reducible apply stepDownTo_callKeeps
    | with_reducible apply doneWith_callKeeps | with_reducible apply refuse_callKeeps)

theorem stepUpAct_callKeeps (h : CallKeeps s0 s) : CallKeeps s0 (stepUpAct s).state := by
  unfold stepUpAct
  split
  all_goals try dsimp only
  all_goals (repeat' split) <;> (repeat' first
    | with_reducible assumption | with_reducible apply stepUpTo_callKeeps | with_reducible apply doneWith_callKeeps
    | with_reducible apply refuse_callKeeps)

theorem loopOnAct_callKeeps (channel : Byte) (h : CallKeeps s0 s) : CallKeeps s0 (loopOnAct channel s).state := by
  unfold loopOnAct
  split
  all_goals try dsimp only
  all_goals (repeat' split) <;> (repeat' first
    | with_reducible assumption | with_reducible apply startLoopback_callKeeps
    | with_reducible apply doneWith_callKeeps | with_reducible apply refuse_callKeeps)

theorem lineActionAct_callKeeps (action channel : Byte) (h : CallKeeps s0 s) : CallKeeps s0 (lineActionAct action channel s).state := by
  unfold lineActionAct
  split
  all_goals try dsimp only
  all_goals (repeat' split) <;> (repeat' first
    | with_reducible assumption | with_reducible apply endLoopback_callKeeps
    | with_reducible apply stopLine_callKeeps | with_reducible apply doneWith_callKeeps
    | with_reducible apply refuse_callKeeps | with_reducible apply startAct_callKeeps
    | with_reducible apply retrainAct_callKeeps | with_reducible apply stepDownAct_callKeeps
    | with_reducible apply stepUpAct_callKeeps | with_reducible apply loopOnAct_callKeeps)

theorem testAct_callKeeps (kind : TestKind) (a : Authority) (tag : Half) (p : Port) (cadence seconds : Byte) (h : CallKeeps s0 s) : CallKeeps s0 (testAct kind a tag p cadence seconds s).state :=
  callKeeps_same h (by simp) (by simp) (by simp)

theorem releaseAct_callKeeps (p : Port) (h : CallKeeps s0 s) : CallKeeps s0 (releaseAct p s).state := by
  unfold releaseAct
  split
  all_goals try dsimp only
  all_goals (repeat' split) <;> (repeat' first
    | with_reducible assumption | with_reducible apply releasePortAct_callKeeps
    | with_reducible apply doneWith_callKeeps | with_reducible apply refuse_callKeeps)

theorem disableAct_callKeeps (p : Port) (h : CallKeeps s0 s) : CallKeeps s0 (disableAct p s).state := by
  unfold disableAct
  split
  all_goals try dsimp only
  all_goals (repeat' split) <;> (repeat' first
    | with_reducible assumption | with_reducible apply disablePort_callKeeps
    | with_reducible apply doneWith_callKeeps | with_reducible apply refuse_callKeeps)

theorem portActionAct_callKeeps (a : Authority) (tag : Half) (kind port cadence seconds : Byte) (h : CallKeeps s0 s) : CallKeeps s0 (portActionAct a tag kind port cadence seconds s).state := by
  unfold portActionAct
  split
  all_goals try dsimp only
  all_goals (repeat' split) <;> (repeat' first
    | with_reducible assumption | with_reducible apply enablePort_callKeeps
    | with_reducible apply doneWith_callKeeps | with_reducible apply refuse_callKeeps
    | with_reducible apply testAct_callKeeps | with_reducible apply releaseAct_callKeeps
    | with_reducible apply disableAct_callKeeps)

theorem quietEnterAct_callKeeps (h : CallKeeps s0 s) : CallKeeps s0 (quietEnterAct s).state :=
  callKeeps_same h (by simp) (by simp) (by simp)

theorem quietLeaveAct_callKeeps (hitClear : Byte) (h : CallKeeps s0 s) : CallKeeps s0 (quietLeaveAct hitClear s).state :=
  callKeeps_same h (by simp) (by simp) (by simp)

theorem quietAct_callKeeps (kind hitClear : Byte) (h : CallKeeps s0 s) : CallKeeps s0 (quietAct kind hitClear s).state :=
  callKeeps_same h (by simp) (by simp) (by simp)

theorem act_callKeeps (sender : Sender) (tag : Half) (r : Request) (h : CallKeeps s0 s) : CallKeeps s0 (act sender tag r s).state := by
  unfold act
  split
  all_goals try dsimp only
  all_goals (repeat' split) <;> (repeat' first
    | with_reducible assumption | with_reducible apply doneWith_callKeeps
    | with_reducible apply readTableAct_callKeeps | with_reducible apply writeProfileAct_callKeeps
    | with_reducible apply writeCadenceAct_callKeeps | with_reducible apply writeMatchAct_callKeeps
    | with_reducible apply writeAnswerAct_callKeeps | with_reducible apply writeFaultAct_callKeeps
    | with_reducible apply readParamAct_callKeeps | with_reducible apply writeParamAct_callKeeps
    | with_reducible apply clearFaultAct_callKeeps | with_reducible apply lineActionAct_callKeeps
    | with_reducible apply portActionAct_callKeeps | with_reducible apply quietAct_callKeeps)

theorem takeRequest_callKeeps (sender : Sender) (tag : Half) (r : Request) (h : CallKeeps s0 s) : CallKeeps s0 (takeRequest sender tag r s) := by
  unfold takeRequest
  split
  all_goals try dsimp only
  all_goals (repeat' split) <;> (repeat' first
    | with_reducible assumption | with_reducible apply directedReset_callKeeps
    | with_reducible apply answerWith_callKeeps | with_reducible apply act_callKeeps)

theorem takeBody_callKeeps (sender : Sender) (code : Nat) (tag : Half) (body : Bytes) (h : CallKeeps s0 s) : CallKeeps s0 (takeBody sender code tag body s) := by
  unfold takeBody
  split
  all_goals try dsimp only
  all_goals (repeat' split) <;> (repeat' first
    | with_reducible assumption | with_reducible apply refuse_callKeeps | with_reducible apply answerWith_callKeeps
    | with_reducible apply refuseOwner_callKeeps | with_reducible apply takeRequest_callKeeps)

theorem takeMessage_callKeeps (sender : Sender) (m : Bytes) (h : CallKeeps s0 s) : CallKeeps s0 (takeMessage sender m s) := by
  unfold takeMessage
  split
  all_goals try dsimp only
  all_goals (repeat' split) <;> (repeat' first
    | with_reducible assumption | with_reducible apply callKeeps_bump | with_reducible apply refuse_callKeeps
    | with_reducible apply answerWith_callKeeps | with_reducible apply takeBody_callKeeps)

theorem receiveDirective_callKeeps (sender : Sender) (take : State → State) (h : CallKeeps s0 s)
    (ht : ∀ u, CallKeeps s0 u → CallKeeps s0 (take u)) : CallKeeps s0 (receiveDirective sender take s) := by
  unfold receiveDirective
  split
  · exact ht _ (callKeeps_bump (callKeeps_onDu h))
  · dsimp only
    split
    · exact ht _ (callKeeps_bump h)
    · exact callKeeps_bump (callKeeps_bump h)

theorem directive_callKeeps (sender : Sender) (tag : Half) (r : Request) (h : CallKeeps s0 s) :
    CallKeeps s0 (directive sender tag r s) :=
  receiveDirective_callKeeps _ _ h fun _ hu => takeBody_callKeeps _ _ _ _ hu

theorem deliverVoice_callKeeps (n : Slot) (f : Bytes) (h : CallKeeps s0 s) : CallKeeps s0 (deliverVoice n f s) := by
  unfold deliverVoice
  (repeat' split) <;> (repeat' first
    | with_reducible assumption | with_reducible apply callKeeps_bump | with_reducible apply mediaArrives_callKeeps
    | with_reducible apply signalArrives_callKeeps)

theorem deliver_callKeeps (c : Chan) (f : Bytes) (h : CallKeeps s0 s) : CallKeeps s0 (deliver c f s) := by
  unfold deliver
  split
  · exact deliverVoice_callKeeps _ _ h
  · split
    · exact deliverVoice_callKeeps _ _ h
    · dsimp only
      split
      · exact probeArrives_callKeeps _ (callKeeps_bump h)
      · split
        · exact receiveDirective_callKeeps _ _ (callKeeps_bump h) fun _ hu => takeMessage_callKeeps _ _ hu
        · exact downstream_callKeeps _ (callKeeps_bump h)

theorem setAsm_callKeeps (c : Chan) (a : Option Collecting) (h : CallKeeps s0 s) : CallKeeps s0 (setAsm c a s) :=
  callKeeps_same h (by simp) (by simp) (by simp)

theorem oversizeBlock_callKeeps (c : Chan) (h : CallKeeps s0 s) : CallKeeps s0 (oversizeBlock c s) :=
  callKeeps_same h (by simp) (by simp) (by simp)

theorem orphan_callKeeps (h : CallKeeps s0 s) : CallKeeps s0 (orphan s) :=
  callKeeps_same h (by simp) (by simp) (by simp)

theorem extend_callKeeps (b : LineBlock) (data : Bytes) (take : Bytes → State → State) (h : CallKeeps s0 s)
    (ht : ∀ f u, CallKeeps s0 u → CallKeeps s0 (take f u)) : CallKeeps s0 (extend b data take s) := by
  unfold extend
  split
  · exact orphan_callKeeps h
  · split
    · exact abandon_callKeeps _ _ h
    · split
      · exact abandon_callKeeps _ _ h
      · exact ht _ _ h

theorem reassemble_callKeeps (b : LineBlock) (h : CallKeeps s0 s) : CallKeeps s0 (reassemble b s) := by
  unfold reassemble
  dsimp only
  split
  · split
    · exact oversizeBlock_callKeeps _ (abandon_callKeeps _ _ h)
    · exact deliver_callKeeps _ _ (abandon_callKeeps _ _ h)
  · split
    · exact oversizeBlock_callKeeps _ (abandon_callKeeps _ _ h)
    · exact setAsm_callKeeps _ _ (abandon_callKeeps _ _ h)
  · exact extend_callKeeps _ _ _ h fun _ _ hu => setAsm_callKeeps _ _ hu
  · exact extend_callKeeps _ _ _ h fun _ _ hu => deliver_callKeeps _ _ (setAsm_callKeeps _ _ hu)

theorem badBlock_callKeeps (h : CallKeeps s0 s) : CallKeeps s0 (badBlock s) := by
  unfold badBlock
  repeat' first
    | with_reducible assumption | with_reducible apply callKeeps_onLs | with_reducible apply callKeeps_bump
    | (refine Or.inl ?_; with_reducible rfl) | exact Or.inr (fun x => nomatch x)

theorem checkSequence_callKeeps (b : LineBlock) (h : CallKeeps s0 s) : CallKeeps s0 (checkSequence b s) := by
  unfold checkSequence
  repeat' first
    | with_reducible assumption | intro u hu | with_reducible apply callKeeps_onChan
    | with_reducible apply callKeeps_onLs | with_reducible apply callKeeps_bump
    | with_reducible apply callKeeps_whenever | with_reducible apply abandon_callKeeps
    | (refine Or.inl ?_; with_reducible rfl) | exact Or.inr (fun x => nomatch x)

theorem takeBlock_callKeeps (b : LineBlock) (h : CallKeeps s0 s) : CallKeeps s0 (takeBlock b s) := by
  unfold takeBlock
  (repeat' split) <;> (repeat' first
    | with_reducible assumption | with_reducible apply callKeeps_bump | with_reducible apply abandon_callKeeps
    | with_reducible apply storeLooped_callKeeps | with_reducible apply reassemble_callKeeps)

theorem goodBlock_callKeeps (b : LineBlock) (h : CallKeeps s0 s) : CallKeeps s0 (goodBlock b s) := by
  unfold goodBlock
  (repeat' split) <;> (repeat' first
    | with_reducible assumption | with_reducible apply callKeeps_bump
    | with_reducible apply checkSequence_callKeeps | with_reducible apply takeBlock_callKeeps)

theorem blockArrives_callKeeps (bytes : Bytes) (h : CallKeeps s0 s) : CallKeeps s0 (blockArrives bytes s) := by
  unfold blockArrives
  (repeat' split) <;> (repeat' first
    | with_reducible assumption | with_reducible apply callKeeps_bump | with_reducible apply badBlock_callKeeps
    | with_reducible apply goodBlock_callKeeps)

theorem homeFrameTaken_callKeeps (f : Bytes) (h : CallKeeps s0 s) : CallKeeps s0 (homeFrameTaken f s) := by
  unfold homeFrameTaken
  dsimp only
  split
  · exact receiveDirective_callKeeps _ _ (callKeeps_bump (callKeeps_bump h)) fun _ hu => takeMessage_callKeeps _ _ hu
  · exact upstream_callKeeps _ (callKeeps_bump h)

theorem homeFrameArrives_callKeeps (frame : Bytes) (h : CallKeeps s0 s) : CallKeeps s0 (homeFrameArrives frame s) := by
  unfold homeFrameArrives
  dsimp only
  (repeat' split) <;> (repeat' first
    | with_reducible assumption | with_reducible apply callKeeps_bump
    | with_reducible apply homeFrameTaken_callKeeps)

/-- A claim keeps what every slot it takes keeps. -/
theorem nextOn_callKeeps (c : Chan) (head : State → Option (Source × Bytes)) {t : State} (h : CallKeeps s0 s)
    (ht : nextOn c head s = some t) : CallKeeps s0 t := by
  unfold nextOn at ht
  split at ht
  · cases ht
    exact emitNext_callKeeps _ _ h
  · split at ht
    · cases ht
      exact startFrame_callKeeps _ _ _ h
    · cases ht

theorem serve_callHolds (claim : Claim) (ctr : Counter) (n : Nat) (h : CallKeeps s0 s)
    (hc : ∀ u v, CallKeeps s0 u → claim u = some v → CallKeeps s0 v) : CallKeeps s0 (serve claim ctr n s).1 := by
  induction n generalizing s with
  | zero => exact h
  | succ n ih =>
    unfold serve
    split
    · exact h
    · rename_i v hv
      exact ih (callKeeps_bump (hc _ _ h hv))

theorem stepOf_callHolds (claim : Claim) (ctr : Counter) (limit : Nat) (p : State × Nat) (h : CallKeeps s0 p.1)
    (hc : ∀ u v, CallKeeps s0 u → claim u = some v → CallKeeps s0 v) : CallKeeps s0 (stepOf claim ctr limit p).1 :=
  serve_callHolds claim ctr _ h hc

theorem emitGasp_callKeeps (i : PendingItem) (h : CallKeeps s0 s) : CallKeeps s0 (emitGasp i s) := by
  unfold emitGasp
  repeat' first
    | with_reducible assumption | with_reducible apply callKeeps_onLbu | with_reducible apply callKeeps_onChan
    | with_reducible apply callKeeps_bump | with_reducible apply noticeDone_callKeeps
    | with_reducible apply emitOn_callKeeps | with_reducible apply dropSeg_callKeeps | with_reducible rfl

theorem urgentClaim_callKeeps {t : State} (h : CallKeeps s0 s) (ht : urgentClaim s = some t) : CallKeeps s0 t := by
  unfold urgentClaim at ht
  split at ht
  · split at ht
    · cases ht
      exact emitGasp_callKeeps _ h
    · cases ht
  · cases ht

theorem clearDue_callKeeps (n : Slot) (h : CallKeeps s0 s) : CallKeeps s0 (clearDue n s) :=
  callKeeps_same h (by simp) (by simp) (by simp)

theorem continueFrame_callKeeps (c : Chan) (n : Nat) (h : CallKeeps s0 s) : CallKeeps s0 (continueFrame c n s) := by
  induction n generalizing s with
  | zero => exact h
  | succ n ih =>
    unfold continueFrame
    split
    · exact ih (emitNext_callKeeps _ _ h)
    · exact h

theorem emitVoice_callKeeps (n : Slot) (f : Bytes) (h : CallKeeps s0 s) : CallKeeps s0 (emitVoice n f s) := by
  unfold emitVoice
  repeat' first
    | with_reducible assumption | with_reducible apply callKeeps_bumpBy | with_reducible apply startFrame_callKeeps
    | with_reducible apply continueFrame_callKeeps

theorem voiceStep_callKeeps (n : Slot) (p : State × Nat) (h : CallKeeps s0 p.1) : CallKeeps s0 (voiceStep n p).1 := by
  unfold voiceStep
  dsimp only
  (repeat' split) <;> (repeat' first
    | with_reducible assumption | with_reducible apply callKeeps_bump | with_reducible apply clearDue_callKeeps
    | with_reducible apply emitVoice_callKeeps)

theorem dueStale_callKeeps (n : Slot) (h : CallKeeps s0 s) : CallKeeps s0 (dueStale n s) :=
  callKeeps_same h (by simp) (by simp) (by simp)

theorem operationsClaim_callKeeps {t : State} (h : CallKeeps s0 s) (ht : operationsClaim s = some t) : CallKeeps s0 t :=
  nextOn_callKeeps _ _ h ht

theorem signalServed_callKeeps (n : Slot) {t : State} (h : CallKeeps s0 s) (ht : signalServed n s = some t) :
    CallKeeps s0 t := by
  unfold signalServed at ht
  split at ht
  · cases ht
  · simp only [Option.map_eq_some_iff] at ht
    obtain ⟨u, hu, rfl⟩ := ht
    exact callKeeps_onLbu (nextOn_callKeeps _ _ h hu) rfl rfl rfl rfl

theorem controlClaim_callKeeps {t : State} (h : CallKeeps s0 s) (ht : controlClaim s = some t) : CallKeeps s0 t := by
  unfold controlClaim at ht
  split at ht
  · rename_i u hu
    cases ht
    exact signalServed_callKeeps _ h hu
  · split at ht
    · rename_i u hu
      cases ht
      exact signalServed_callKeeps _ h hu
    · exact operationsClaim_callKeeps h ht

theorem testClaim_callKeeps {t : State} (h : CallKeeps s0 s) (ht : testClaim s = some t) : CallKeeps s0 t := by
  unfold testClaim at ht
  split at ht
  · exact sendLooped_callKeeps _ h ht
  · exact nextOn_callKeeps _ _ h ht

theorem bulkClaim_callKeeps {t : State} (h : CallKeeps s0 s) (ht : bulkClaim s = some t) : CallKeeps s0 t := by
  unfold bulkClaim at ht
  split at ht
  · exact sendLooped_callKeeps _ h ht
  · exact nextOn_callKeeps _ _ h ht

theorem priorityClaim_callKeeps {t : State} (h : CallKeeps s0 s) (ht : priorityClaim s = some t) : CallKeeps s0 t :=
  nextOn_callKeeps _ _ h ht

theorem fillRest_callKeeps (n : Nat) (h : CallKeeps s0 s) : CallKeeps s0 (fillRest n s) := by
  induction n generalizing s with
  | zero => exact h
  | succ n ih => exact ih (emitFill_callKeeps h)

theorem grantSteps_callKeeps (k : Nat) (h : CallKeeps s0 s) : CallKeeps s0 (grantSteps k s) := by
  unfold grantSteps
  exact fillRest_callKeeps _ (stepOf_callHolds _ _ _ _ (stepOf_callHolds _ _ _ _ (stepOf_callHolds _ _ _ _ (stepOf_callHolds _ _ _ _
    (stepOf_callHolds _ _ _ _ (stepOf_callHolds _ _ _ _ (voiceStep_callKeeps _ _ (voiceStep_callKeeps _ _ (stepOf_callHolds _ _ _ _ h
    fun _ _ a b => urgentClaim_callKeeps a b))) fun _ _ a b => controlClaim_callKeeps a b) fun _ _ a b => testClaim_callKeeps a b)
    fun _ _ a b => bulkClaim_callKeeps a b) fun _ _ a b => priorityClaim_callKeeps a b) fun _ _ a b => bulkClaim_callKeeps a b)
    fun _ _ a b => operationsClaim_callKeeps a b)

theorem grantPeriod_callKeeps (h : CallKeeps s0 s) : CallKeeps s0 (grantPeriod s) := by
  have hb : CallKeeps s0 (onLbu Budget.period s) := callKeeps_onLbu h rfl rfl rfl rfl
  exact grantSteps_callKeeps _ (callKeeps_whenever (callKeeps_bump hb) fun _ hu => callKeeps_bump hu)

theorem periodStart_callKeeps (h : CallKeeps s0 s) : CallKeeps s0 (periodStart s) := by
  unfold periodStart
  (repeat' split) <;> (repeat' first
    | with_reducible assumption | with_reducible apply callKeeps_onClock
    | with_reducible apply mediaPeriod_callKeeps | with_reducible apply dueStale_callKeeps
    | with_reducible apply grantPeriod_callKeeps)

theorem trainedEvent_callKeeps (rate : Nat) (margin : Int) (h : CallKeeps s0 s) : CallKeeps s0 (trainedEvent rate margin s) := by
  unfold trainedEvent
  (repeat' split) <;> (repeat' first
    | with_reducible assumption | with_reducible apply stray_callKeeps
    | with_reducible apply trainedTaken_callKeeps)

theorem noTrainEvent_callKeeps (h : CallKeeps s0 s) : CallKeeps s0 (noTrainEvent s) := by
  unfold noTrainEvent
  (repeat' split) <;> (repeat' first
    | with_reducible assumption | with_reducible apply callKeeps_bump | with_reducible apply stray_callKeeps
    | with_reducible apply trainingFailed_callKeeps)

theorem syncLostEvent_callKeeps (h : CallKeeps s0 s) : CallKeeps s0 (syncLostEvent s) := by
  unfold syncLostEvent
  (repeat' split) <;> (repeat' first
    | with_reducible assumption | with_reducible apply stray_callKeeps | with_reducible apply startRide_callKeeps)

theorem syncBackEvent_callKeeps (h : CallKeeps s0 s) : CallKeeps s0 (syncBackEvent s) := by
  unfold syncBackEvent
  (repeat' split) <;> (repeat' first
    | with_reducible assumption | with_reducible apply stray_callKeeps | with_reducible apply endRide_callKeeps)

theorem marginEvent_callKeeps (margin : Int) (h : CallKeeps s0 s) : CallKeeps s0 (marginEvent margin s) := by
  unfold marginEvent
  (repeat' split) <;> (repeat' first
    | with_reducible assumption | with_reducible apply stray_callKeeps | with_reducible apply marginTaken_callKeeps)

theorem silentEvent_callKeeps (h : CallKeeps s0 s) : CallKeeps s0 (silentEvent s) := by
  unfold silentEvent
  (repeat' split) <;> (repeat' first
    | with_reducible assumption | with_reducible apply callKeeps_bump | with_reducible apply startRide_callKeeps)

theorem trainTimerEvent_callKeeps (h : CallKeeps s0 s) : CallKeeps s0 (trainTimerEvent s) := by
  unfold trainTimerEvent
  (repeat' split) <;> (repeat' first
    | with_reducible assumption | with_reducible apply callKeeps_bump
    | with_reducible apply trainingFailed_callKeeps)

theorem rideTimerEvent_callKeeps (h : CallKeeps s0 s) : CallKeeps s0 (rideTimerEvent s) := by
  unfold rideTimerEvent
  (repeat' split) <;> (repeat' first
    | with_reducible assumption | with_reducible apply rideFails_callKeeps)

theorem holdTimerEvent_callKeeps (h : CallKeeps s0 s) : CallKeeps s0 (holdTimerEvent s) := by
  unfold holdTimerEvent
  (repeat' split) <;> (repeat' first
    | with_reducible assumption | with_reducible apply holdExpires_callKeeps)

theorem backoffEvent_callKeeps (h : CallKeeps s0 s) : CallKeeps s0 (backoffEvent s) := by
  unfold backoffEvent
  (repeat' split) <;> (repeat' first
    | with_reducible assumption | with_reducible apply newRound_callKeeps)

theorem alertEvent_callKeeps (n : Slot) (h : CallKeeps s0 s) : CallKeeps s0 (alertEvent n s) := by
  unfold alertEvent
  (repeat' split) <;> (repeat' first
    | with_reducible assumption | with_reducible apply alertLimit_callKeeps)

theorem onHookEvent_callKeeps (p : Port) (h : CallKeeps s0 s) : CallKeeps s0 (onHookEvent p s) := by
  unfold onHookEvent
  (repeat' split) <;> (repeat' first
    | with_reducible assumption | with_reducible apply onHookFires_callKeeps)

theorem interdigitEvent_callKeeps (p : Port) (h : CallKeeps s0 s) : CallKeeps s0 (interdigitEvent p s) := by
  unfold interdigitEvent
  (repeat' split) <;> (repeat' first
    | with_reducible assumption | with_reducible apply interdigitFires_callKeeps)

theorem closeFrames_callKeeps (h : CallKeeps s0 s) : CallKeeps s0 (closeFrames s) :=
  closeFrame_callKeeps _ (closeFrame_callKeeps _ h)

theorem uptimeSecond_callKeeps (h : CallKeeps s0 s) : CallKeeps s0 (uptimeSecond s) := by
  unfold uptimeSecond
  repeat' first
    | with_reducible assumption | with_reducible apply callKeeps_onFu | with_reducible apply mediaSecond_callKeeps
    | with_reducible apply gradeSecond_callKeeps

theorem alertTick_callKeeps (n : Slot) (h : CallKeeps s0 s) :
    CallKeeps s0 (onCall n (fun c => { c with alert := c.alert.map Timer.tick }) s) := by
  refine callKeeps_onCall h Iff.rfl ?_
  rintro ⟨a, b, c⟩
  refine ⟨a, b, fun e => ?_⟩
  obtain ⟨c1, c2, c3⟩ := c e
  exact ⟨c1, by rw [c2]; rfl, c3⟩

theorem advance_callKeeps (h : CallKeeps s0 s) : CallKeeps s0 (advance s) := by
  unfold advance
  exact callKeeps_onTr (alertTick_callKeeps _ (alertTick_callKeeps _ (callKeeps_onPort (callKeeps_onPort
    (callKeeps_onLs h (.inl rfl))))))

theorem timerEvents_callKeeps (h : CallKeeps s0 s) : CallKeeps s0 (timerEvents s) := by
  unfold timerEvents
  repeat' first
    | with_reducible assumption | intro u hu | with_reducible apply callKeeps_ifDue
    | with_reducible apply testExpiry_callKeeps | with_reducible apply loopbackExpires_callKeeps
    | with_reducible apply silentEvent_callKeeps | with_reducible apply trainTimerEvent_callKeeps
    | with_reducible apply rideTimerEvent_callKeeps | with_reducible apply holdTimerEvent_callKeeps
    | with_reducible apply backoffEvent_callKeeps | with_reducible apply alertEvent_callKeeps

theorem powerTick_callKeeps (h : CallKeeps s0 s) : CallKeeps s0 (powerTick s) := by
  unfold powerTick
  repeat' first
    | with_reducible assumption | intro u hu | with_reducible apply callKeeps_onFu
    | with_reducible apply callKeeps_whenever | with_reducible apply powerChange_callKeeps

theorem measureTick_callKeeps (p : Port) (h : CallKeeps s0 s) : CallKeeps s0 (measureTick p s) := by
  unfold measureTick
  dsimp only
  (repeat' split) <;> (repeat' first
    | with_reducible assumption | with_reducible apply callKeeps_onPort
    | with_reducible apply onHookEvent_callKeeps | with_reducible apply interdigitEvent_callKeeps)

theorem senseTick_callKeeps (p : Port) (h : CallKeeps s0 s) : CallKeeps s0 (senseTick p s) := by
  unfold senseTick
  dsimp only
  (repeat' split) <;> (repeat' first
    | with_reducible assumption | with_reducible apply callKeeps_onPort | with_reducible apply loopChange_callKeeps
    | with_reducible apply ringTrip_callKeeps | with_reducible apply measureTick_callKeeps)

theorem portTick_callKeeps (p : Port) (h : CallKeeps s0 s) : CallKeeps s0 (portTick p s) := by
  unfold portTick
  repeat' first
    | with_reducible assumption | intro u hu | with_reducible apply callKeeps_ifDue
    | with_reducible apply segmentEnd_callKeeps | with_reducible apply parkExpires_callKeeps
    | with_reducible apply senseTick_callKeeps

theorem periodTick_callKeeps (h : CallKeeps s0 s) : CallKeeps s0 (periodTick s) := by
  unfold periodTick
  (repeat' split) <;> (repeat' first
    | with_reducible assumption | with_reducible apply callKeeps_onClock
    | with_reducible apply periodStart_callKeeps)

theorem secondTick_callKeeps (h : CallKeeps s0 s) : CallKeeps s0 (secondTick s) := by
  unfold secondTick
  (repeat' split) <;> (repeat' first
    | with_reducible assumption | with_reducible apply callKeeps_onFu | with_reducible apply uptimeSecond_callKeeps)

theorem tick_callKeeps (h : CallKeeps s0 s) : CallKeeps s0 (tick s) := by
  unfold tick
  repeat' first
    | with_reducible assumption | with_reducible apply callKeeps_onClock | with_reducible apply advance_callKeeps
    | with_reducible apply timerEvents_callKeeps | with_reducible apply powerTick_callKeeps
    | with_reducible apply portTick_callKeeps | with_reducible apply periodTick_callKeeps
    | with_reducible apply secondTick_callKeeps
    | with_reducible apply closeFrames_callKeeps

end Sys2Proof.Machine
end

