-- ==== Sys2Proof/Laws/Reports.lean ====
section
/-! SUPPORT. What a report to the Fault Unit reaches beside its record: the pending lists, the wake pin, and local notices at
the back of the downstream FIFO. `Reports s t` says that the Fault Unit, the Match Engine and the Queue Manager have changed
by reports only. -/

namespace Sys2Proof.Machine

variable {s0 s : State}

theorem Reports.refl (s : State) : Reports s s := ⟨⟨[], by simp⟩, ⟨rfl, rfl, rfl⟩, rfl⟩

theorem Reports.trans {s t u : State} (h : Reports s t) (k : Reports t u) : Reports s u := by
  obtain ⟨⟨l, hl, el⟩, ⟨a, b, c⟩, d⟩ := h
  obtain ⟨⟨m, hm, em⟩, ⟨a', b', c'⟩, d'⟩ := k
  refine ⟨⟨l ++ m, ?_, ?_⟩, ⟨a'.trans a, b'.trans b, c'.trans c⟩, ?_⟩
  · intro i hi
    rcases List.mem_append.1 hi with hi | hi
    · exact hl i hi
    · exact hm i hi
  · rw [em, el]
    simp
  · rw [d', d]

theorem reports_same {t : State} (h : Reports s0 s) (h1 : t.qm = s.qm) (h2 : t.me = s.me) (h3 : t.fu = s.fu) :
    Reports s0 t :=
  h.trans ⟨⟨[], by simp [h1]⟩, by simp [h2], by rw [h3]⟩

theorem reports_whenever {b : Bool} {f : State → State} (h : Reports s0 s)
    (hf : ∀ u, Reports s0 u → Reports s0 (f u)) : Reports s0 (whenever b f s) := by
  unfold whenever
  split
  · exact hf s h
  · exact h

theorem reports_foldl {α : Type} (l : List α) (f : State → α → State) (h : Reports s0 s)
    (hf : ∀ u x, Reports s0 u → Reports s0 (f u x)) : Reports s0 (l.foldl f s) := by
  induction l generalizing s with
  | nil => exact h
  | cons x l ih => exact ih (hf s x h)

theorem reports_bumpBy {c : Counter} {n : Nat} (h : Reports s0 s) : Reports s0 (bumpBy c n s) :=
  reports_same h (by simp) (by simp) (by simp)
theorem reports_bump {c : Counter} (h : Reports s0 s) : Reports s0 (bump c s) :=
  reports_same h (by simp) (by simp) (by simp)
theorem reports_onBf {f : Framer → Framer} (h : Reports s0 s) : Reports s0 (onBf f s) := reports_same h rfl rfl rfl
theorem reports_onLs {f : Supervisor → Supervisor} (h : Reports s0 s) : Reports s0 (onLs f s) :=
  reports_same h rfl rfl rfl
theorem reports_onLbu {f : Budget → Budget} (h : Reports s0 s) : Reports s0 (onLbu f s) := reports_same h rfl rfl rfl
theorem reports_onPpu {f : PhoneUnit → PhoneUnit} (h : Reports s0 s) : Reports s0 (onPpu f s) :=
  reports_same h rfl rfl rfl
theorem reports_onPort {p : Port} {f : PortUnit → PortUnit} (h : Reports s0 s) : Reports s0 (onPort p f s) :=
  reports_same h rfl rfl rfl
theorem reports_onCc {f : CallController → CallController} (h : Reports s0 s) : Reports s0 (onCc f s) :=
  reports_same h rfl rfl rfl
theorem reports_onCall {n : Slot} {f : CallSlot → CallSlot} (h : Reports s0 s) : Reports s0 (onCall n f s) :=
  reports_same h rfl rfl rfl
theorem reports_onChan {c : Chan} {f : Channel → Channel} (h : Reports s0 s) : Reports s0 (onChan c f s) :=
  reports_same h rfl rfl rfl
theorem reports_onMedia {n : Slot} {f : MediaSlot → MediaSlot} (h : Reports s0 s) : Reports s0 (onMedia n f s) :=
  reports_same h rfl rfl rfl
theorem reports_onTr {f : TestResponder → TestResponder} (h : Reports s0 s) : Reports s0 (onTr f s) :=
  reports_same h rfl rfl rfl
theorem reports_onDu {f : DirectiveUnit → DirectiveUnit} (h : Reports s0 s) : Reports s0 (onDu f s) :=
  reports_same h rfl rfl rfl

theorem reports_setRec {k : FaultKind} {r : FaultRecord} (h : Reports s0 s) : Reports s0 (setRec k r s) :=
  h.trans ⟨⟨[], by simp⟩, by simp, rfl⟩

theorem reports_onList {a : Authority} {f : List PendingItem → List PendingItem} (h : Reports s0 s) :
    Reports s0 (onList a f s) := by
  refine h.trans ⟨⟨[], by simp⟩, by simp, ?_⟩
  cases a <;> rfl

theorem reports_notice {frame : Bytes} (h : Reports s0 s) : Reports s0 (pushFifo .localNotice frame s) :=
  h.trans ⟨⟨[⟨.localNotice, frame⟩], by simp, rfl⟩, ⟨rfl, rfl, rfl⟩, rfl⟩

theorem assertWake_reports (h : Reports s0 s) : Reports s0 (assertWake s) := by
  unfold assertWake
  split
  · exact h
  · exact reports_bump (h.trans ⟨⟨[], by simp⟩, ⟨rfl, rfl, rfl⟩, rfl⟩)

theorem drainLocal_reports (n : Nat) (h : Reports s0 s) : Reports s0 (drainLocal n s) := by
  induction n generalizing s with
  | zero => exact h
  | succ n ih =>
    unfold drainLocal
    split
    · split
      · exact h
      · dsimp only
        split
        · exact ih (reports_bump (reports_onList (reports_notice h)))
        · exact reports_bump h
    · exact h

theorem offerLocal_reports (h : Reports s0 s) : Reports s0 (offerLocal s) := drainLocal_reports _ h

theorem enterExch_reports (k : FaultKind) (level : Nat) (h : Reports s0 s) : Reports s0 (enterExch k level s) := by
  unfold enterExch
  split <;> exact reports_bump (reports_onList h)

theorem enterLoc_reports (k : FaultKind) (level : Nat) (h : Reports s0 s) : Reports s0 (enterLoc k level s) := by
  unfold enterLoc
  split
  · exact offerLocal_reports (reports_bump (reports_onList h))
  · exact offerLocal_reports (reports_whenever (reports_bump (reports_onList h)) fun _ hu => assertWake_reports hu)

theorem occurrence_reports (k : FaultKind) (detail : Nat) (h : Reports s0 s) : Reports s0 (occurrence k detail s) := by
  unfold occurrence
  split
  · exact h
  · dsimp only
    exact reports_whenever (reports_whenever (reports_bump (reports_setRec h)) fun _ hu => enterExch_reports _ _ hu)
      fun _ hu => enterLoc_reports _ _ hu

theorem endCondition_reports (k : FaultKind) (h : Reports s0 s) : Reports s0 (endCondition k s) := reports_setRec h

/-! ## The record an occurrence leaves (R169) -/

theorem fault_onList (a : Authority) (f : List PendingItem → List PendingItem) (k : FaultKind) :
    (onList a f s).fault k = s.fault k := by
  cases a <;> rfl

theorem fault_bumpBy (c : Counter) (n : Nat) (k : FaultKind) : (bumpBy c n s).fault k = s.fault k := rfl

theorem fault_bump (c : Counter) (k : FaultKind) : (bump c s).fault k = s.fault k := rfl

theorem fault_drainLocal (n : Nat) (k : FaultKind) : (drainLocal n s).fault k = s.fault k := by
  induction n generalizing s with
  | zero => rfl
  | succ n ih =>
    unfold drainLocal
    split
    · split
      · rfl
      · dsimp only
        split
        · rw [ih, fault_bump, fault_onList]
          rfl
        · rfl
    · rfl

theorem fault_enterExch (j : FaultKind) (level : Nat) (k : FaultKind) : (enterExch j level s).fault k = s.fault k := by
  unfold enterExch
  split <;> rw [fault_bump, fault_onList]

theorem fault_enterLoc (j : FaultKind) (level : Nat) (k : FaultKind) : (enterLoc j level s).fault k = s.fault k := by
  unfold enterLoc offerLocal
  split
  · rw [fault_drainLocal, fault_bump, fault_onList]
  · rw [fault_drainLocal]
    unfold whenever
    split
    · rw [fault_congr (assertWake_frame _).2.2.2.2.2.2.2.2.1, fault_bump, fault_onList]
    · rw [fault_bump, fault_onList]

/-- The record of each kind after a report (R169): its own kind's record takes the occurrence, unless it is a condition that is
active already; every other record stays. -/
theorem fault_occurrence (k j : FaultKind) (detail : Nat) :
    (occurrence k detail s).fault j =
      if k = j ∧ (k.isCondition && s.isActive k) = false then
        (s.fault j).occurred k.isCondition s.fu.uptime detail
      else s.fault j := by
  unfold occurrence
  by_cases hc : (k.isCondition && s.isActive k) = true
  · rw [if_pos hc, if_neg (fun h => by simp [hc] at h)]
  · rw [if_neg hc]
    have hc' : (k.isCondition && s.isActive k) = false := by simpa using hc
    have hw : ∀ (b : Bool) (f : State → State) (u : State), (∀ v, (f v).fault j = v.fault j) →
        (whenever b f u).fault j = u.fault j := by
      intro b f u hf
      unfold whenever
      split
      · exact hf u
      · rfl
    dsimp only
    rw [hw _ _ _ (fun v => fault_enterLoc _ _ _), hw _ _ _ (fun v => fault_enterExch _ _ _), fault_bump, fault_setRec]
    by_cases hk : k = j
    · subst hk
      rw [if_pos rfl, if_pos ⟨rfl, hc'⟩]
    · rw [if_neg hk, if_neg (fun h => hk h.1)]

/-- The record of each kind after the end of a condition (R170). -/
theorem fault_endCondition (k j : FaultKind) :
    (endCondition k s).fault j = if k = j then { s.fault j with active := false } else s.fault j := by
  unfold endCondition
  rw [fault_setRec]
  split
  · rename_i e
    subst e
    rfl
  · rfl

end Sys2Proof.Machine
end

