-- ==== Sys2Proof/Laws/ReportsA.lean ====
section
/-! SUPPORT. The operations of Machine/Framer.lean to Machine/Phone.lean that reach the Fault Unit, the Match Engine and the
Queue Manager by reports only. One lemma per operation. -/

namespace Sys2Proof.Machine

variable {s0 s : State}

theorem sendXcvr_reports (m : XcvrMsg) (h : Reports s0 s) : Reports s0 (sendXcvr m s) :=
  reports_same h (by simp) (by simp) (by simp)

theorem sendBlock_reports (b : Bytes) (h : Reports s0 s) : Reports s0 (sendBlock b s) :=
  reports_same h (by simp) (by simp) (by simp)

theorem sendHome_reports (f : Bytes) (h : Reports s0 s) : Reports s0 (sendHome f s) :=
  reports_same h (by simp) (by simp) (by simp)

theorem emitOn_reports (c : Chan) (kind : BlockKind) (urgent : Bool) (used : Nat) (frameNo : Byte) (payload : Bytes) (h : Reports s0 s) : Reports s0 (emitOn c kind urgent used frameNo payload s) :=
  reports_same h (by simp) (by simp) (by simp)

theorem emitFill_reports (h : Reports s0 s) : Reports s0 (emitFill s) :=
  reports_same h (by simp) (by simp) (by simp)

theorem dropSeg_reports (c : Chan) (h : Reports s0 s) : Reports s0 (dropSeg c s) :=
  reports_same h (by simp) (by simp) (by simp)

theorem cutShort_reports (c : Chan) (removed : Source → Bool) (h : Reports s0 s) : Reports s0 (cutShort c removed s) :=
  reports_same h (by simp) (by simp) (by simp)

theorem reportLoss_reports (c : Chan) (cause : LossCause) (h : Reports s0 s) : Reports s0 (reportLoss c cause s) := by
  unfold reportLoss
  repeat' first
    | with_reducible assumption | with_reducible apply occurrence_reports

theorem abandon_reports (c : Chan) (cause : LossCause) (h : Reports s0 s) : Reports s0 (abandon c cause s) := by
  unfold abandon
  split
  all_goals try dsimp only
  all_goals (repeat' split) <;> (repeat' first
    | with_reducible assumption | with_reducible apply reports_onChan | with_reducible apply reports_bump
    | with_reducible apply reportLoss_reports)

theorem abandonAll_reports (h : Reports s0 s) : Reports s0 (abandonAll s) :=
  reports_foldl _ _ h fun _ _ hu => abandon_reports _ _ hu

theorem dropAllSegs_reports (h : Reports s0 s) : Reports s0 (dropAllSegs s) :=
  reports_foldl _ _ h fun _ _ hu => dropSeg_reports _ hu

theorem unsetExpected_reports (h : Reports s0 s) : Reports s0 (unsetExpected s) :=
  reports_foldl _ _ h fun _ _ hu => reports_same hu (by simp) (by simp) (by simp)

theorem endLoopback_reports (h : Reports s0 s) : Reports s0 (endLoopback s) :=
  reports_same h (by simp) (by simp) (by simp)

theorem storeLooped_reports (b : Looped) (h : Reports s0 s) : Reports s0 (storeLooped b s) :=
  reports_same h (by simp) (by simp) (by simp)

theorem copyFloor_reports (h : Reports s0 s) : Reports s0 (copyFloor s) :=
  reports_same h (by simp) (by simp) (by simp)

theorem stageBudget_reports (rate : Nat) (size : BlockSize) (eff : Nat) (h : Reports s0 s) : Reports s0 (stageBudget rate size eff s) :=
  reports_same h (by simp) (by simp) (by simp)

theorem countAdmission_reports (granted : Bool) (h : Reports s0 s) : Reports s0 (countAdmission granted s) :=
  reports_same h (by simp) (by simp) (by simp)

theorem refuseAdmission_reports (needs : Nat) (h : Reports s0 s) : Reports s0 (refuseAdmission needs s) := by
  unfold refuseAdmission
  repeat' first
    | with_reducible assumption | with_reducible apply occurrence_reports

theorem floorCheck_reports (h : Reports s0 s) : Reports s0 (floorCheck s) :=
  reports_same h (by simp) (by simp) (by simp)

theorem floorWritten_reports (d : Nat) (h : Reports s0 s) : Reports s0 (floorWritten d s) :=
  reports_same h (by simp) (by simp) (by simp)

theorem setMedia_reports (n : Slot) (m : MediaState) (h : Reports s0 s) : Reports s0 (setMedia n m s) :=
  reports_same h (by simp) (by simp) (by simp)

theorem followCall_reports (n : Slot) (h : Reports s0 s) : Reports s0 (followCall n s) :=
  reports_same h (by simp) (by simp) (by simp)

theorem addClip_reports (h : Reports s0 s) : Reports s0 (addClip s) :=
  reports_same h (by simp) (by simp) (by simp)

theorem saturated_reports (v : Int) (h : Reports s0 s) : Reports s0 (saturated v s).1 :=
  reports_same h (by simp) (by simp) (by simp)

theorem dcBlock_reports (p : Port) (x : Int) (h : Reports s0 s) : Reports s0 (dcBlock p x s) :=
  reports_same h (by simp) (by simp) (by simp)

theorem uplinkSample_reports (n : Slot) (h : Reports s0 s) : Reports s0 (uplinkSample n s) :=
  reports_same h (by simp) (by simp) (by simp)

theorem closeFrame_reports (n : Slot) (h : Reports s0 s) : Reports s0 (closeFrame n s) :=
  reports_same h (by simp) (by simp) (by simp)

theorem playArrival_reports (n : Slot) (resume : Bool) (f : RingFrame) (h : Reports s0 s) : Reports s0 (playArrival n resume f s) :=
  reports_same h (by simp) (by simp) (by simp)

theorem mediaArrives_reports (n : Slot) (frame : Bytes) (h : Reports s0 s) : Reports s0 (mediaArrives n frame s) :=
  reports_same h (by simp) (by simp) (by simp)

theorem mediaPeriod_reports (n : Slot) (h : Reports s0 s) : Reports s0 (mediaPeriod n s) :=
  reports_same h (by simp) (by simp) (by simp)

theorem playTone_reports (p : Port) (kind : ToneKind) (h : Reports s0 s) : Reports s0 (playTone p kind s).1 :=
  reports_same h (by simp) (by simp) (by simp)

theorem playCall_reports (p : Port) (n : Slot) (h : Reports s0 s) : Reports s0 (playCall p n s).1 :=
  reports_same h (by simp) (by simp) (by simp)

theorem playEcho_reports (p : Port) (t : PortTest) (h : Reports s0 s) : Reports s0 (playEcho p t s).1 :=
  reports_same h (by simp) (by simp) (by simp)

theorem outputSample_reports (p : Port) (h : Reports s0 s) : Reports s0 (outputSample p s).1 :=
  reports_same h (by simp) (by simp) (by simp)

theorem giveSample_reports (p : Port) (h : Reports s0 s) : Reports s0 (giveSample p s) :=
  reports_same h (by simp) (by simp) (by simp)

theorem sampleInstant_reports (a b : Int) (pins : Pins) (h : Reports s0 s) : Reports s0 (sampleInstant a b pins s) :=
  reports_same h (by simp) (by simp) (by simp)

theorem sendHalt_reports (h : Reports s0 s) : Reports s0 (sendHalt s) :=
  reports_same h (by simp) (by simp) (by simp)

theorem sendTrain_reports (i : Fin 8) (h : Reports s0 s) : Reports s0 (sendTrain i s) :=
  reports_same h (by simp) (by simp) (by simp)

theorem enterLink_reports (new : LinkState) (h : Reports s0 s) : Reports s0 (enterLink new s) := by
  unfold enterLink
  repeat' first
    | with_reducible assumption | intro u hu | with_reducible apply reports_onLs
    | with_reducible apply reports_whenever | with_reducible apply occurrence_reports

theorem dropClaim_reports (h : Reports s0 s) : Reports s0 (dropClaim s) :=
  reports_same h (by simp) (by simp) (by simp)

theorem leaveCarrying_reports (h : Reports s0 s) : Reports s0 (leaveCarrying s) := by
  unfold leaveCarrying
  repeat' first
    | with_reducible assumption | with_reducible apply reports_onLs | with_reducible apply endCondition_reports
    | with_reducible apply abandonAll_reports | with_reducible apply dropAllSegs_reports
    | with_reducible apply endLoopback_reports | with_reducible apply dropClaim_reports

theorem stepUpTo_reports (i : Fin 8) (h : Reports s0 s) : Reports s0 (stepUpTo i s) := by
  unfold stepUpTo
  repeat' first
    | with_reducible assumption | with_reducible apply reports_bump | with_reducible apply sendHalt_reports
    | with_reducible apply sendTrain_reports | with_reducible apply enterLink_reports
    | with_reducible apply leaveCarrying_reports

theorem lastSlotFree_reports (h : Reports s0 s) : Reports s0 (lastSlotFree s) := by
  unfold lastSlotFree
  (repeat' split) <;> (repeat' first
    | with_reducible assumption | with_reducible apply reports_onLs | with_reducible apply enterLink_reports
    | with_reducible apply stepUpTo_reports)

theorem enterPort_reports (p : Port) (new : PortState) (h : Reports s0 s) : Reports s0 (enterPort p new s) :=
  reports_same h (by simp) (by simp) (by simp)

theorem quieten_reports (p : Port) (h : Reports s0 s) : Reports s0 (quieten p s) :=
  reports_same h (by simp) (by simp) (by simp)

theorem loadChannel_reports (p : Port) (c : CadenceChannel) (h : Reports s0 s) : Reports s0 (loadChannel p c s) :=
  reports_same h (by simp) (by simp) (by simp)

theorem stopChannel_reports (p : Port) (h : Reports s0 s) : Reports s0 (stopChannel p s) :=
  reports_same h (by simp) (by simp) (by simp)

theorem startRing_reports (p : Port) (cad : Fin 8) (h : Reports s0 s) : Reports s0 (startRing p cad s) :=
  reports_same h (by simp) (by simp) (by simp)

theorem toneSegment_reports (p : Port) (k : ToneKind) (on : Bool) (h : Reports s0 s) : Reports s0 (toneSegment p k on s) :=
  reports_same h (by simp) (by simp) (by simp)

theorem startTone_reports (p : Port) (k : ToneKind) (h : Reports s0 s) : Reports s0 (startTone p k s) :=
  reports_same h (by simp) (by simp) (by simp)

theorem startPark_reports (p : Port) (h : Reports s0 s) : Reports s0 (startPark p s) :=
  reports_same h (by simp) (by simp) (by simp)

theorem toReleased_reports (p : Port) (h : Reports s0 s) : Reports s0 (toReleased p s) :=
  reports_same h (by simp) (by simp) (by simp)

theorem toLocalTone_reports (p : Port) (k : ToneKind) (h : Reports s0 s) : Reports s0 (toLocalTone p k s) :=
  reports_same h (by simp) (by simp) (by simp)

theorem toIdle_reports (p : Port) (h : Reports s0 s) : Reports s0 (toIdle p s) :=
  reports_same h (by simp) (by simp) (by simp)

theorem toParked_reports (p : Port) (h : Reports s0 s) : Reports s0 (toParked p s) := by
  unfold toParked
  repeat' first
    | with_reducible assumption | intro u hu | with_reducible apply reports_bump
    | with_reducible apply reports_whenever | with_reducible apply occurrence_reports
    | with_reducible apply enterPort_reports | with_reducible apply quieten_reports

theorem leftParked_reports (h : Reports s0 s) : Reports s0 (leftParked s) := by
  unfold leftParked
  (repeat' split) <;> (repeat' first
    | with_reducible assumption | with_reducible apply endCondition_reports)

theorem unpair_reports (p : Port) (h : Reports s0 s) : Reports s0 (unpair p s) :=
  reports_same h (by simp) (by simp) (by simp)

theorem endRinging_reports (p : Port) (h : Reports s0 s) : Reports s0 (endRinging p s) :=
  reports_same h (by simp) (by simp) (by simp)

theorem stopRinging_reports (p : Port) (h : Reports s0 s) : Reports s0 (stopRinging p s) :=
  reports_same h (by simp) (by simp) (by simp)

theorem ringOne_reports (p : Port) (h : Reports s0 s) : Reports s0 (ringOne p s) := by
  unfold ringOne
  (repeat' split) <;> (repeat' first
    | with_reducible assumption | with_reducible apply reports_bump | with_reducible apply occurrence_reports
    | with_reducible apply enterPort_reports)

theorem startRings_reports (cad : Fin 8) (group : Bool) (rung : PortSet) (h : Reports s0 s) : Reports s0 (startRings cad group rung s) :=
  reports_same h (by simp) (by simp) (by simp)

theorem ringPorts_reports (ports : PortSet) (cad : Fin 8) (group : Bool) (h : Reports s0 s) : Reports s0 (ringPorts ports cad group s).1 := by
  unfold ringPorts
  repeat' first
    | with_reducible assumption | intro u hu | with_reducible apply reports_whenever
    | with_reducible apply ringOne_reports | with_reducible apply startRings_reports

theorem segmentEnd_reports (p : Port) (h : Reports s0 s) : Reports s0 (segmentEnd p s) :=
  reports_same h (by simp) (by simp) (by simp)

end Sys2Proof.Machine
end

