-- ==== Sys2Proof/Laws/ReportsB.lean ====
section
/-! SUPPORT. The operations of Machine/Calls.lean to Machine/Resets.lean that reach the Fault Unit, the Match Engine and the
Queue Manager by reports only. One lemma per operation. -/

namespace Sys2Proof.Machine

variable {s0 s : State}

theorem queueSignal_reports (n : Slot) (g : Signal) (h : Reports s0 s) : Reports s0 (queueSignal n g s) :=
  reports_same h (by simp) (by simp) (by simp)

theorem frontSignal_reports (n : Slot) (g : Signal) (h : Reports s0 s) : Reports s0 (frontSignal n g s) :=
  reports_same h (by simp) (by simp) (by simp)

theorem occupy_reports (n : Slot) (st : SlotState) (dir : CallDir) (h : Reports s0 s) : Reports s0 (occupy n st dir s) :=
  reports_same h (by simp) (by simp) (by simp)

theorem freeSlot_reports (n : Slot) (cause : Cause) (h : Reports s0 s) : Reports s0 (freeSlot n cause s) :=
  reports_same h (by simp) (by simp) (by simp)

theorem reportIfIdle_reports (h : Reports s0 s) : Reports s0 (reportIfIdle s) := by
  unfold reportIfIdle
  (repeat' split) <;> (repeat' first
    | with_reducible assumption | with_reducible apply lastSlotFree_reports)

theorem attach_reports (p : Port) (n : Slot) (h : Reports s0 s) : Reports s0 (attach p n s) :=
  reports_same h (by simp) (by simp) (by simp)

theorem join_reports (p : Port) (n : Slot) (h : Reports s0 s) : Reports s0 (join p n s) :=
  reports_same h (by simp) (by simp) (by simp)

theorem originate_reports (p : Port) (n : Slot) (h : Reports s0 s) : Reports s0 (originate p n s) :=
  reports_same h (by simp) (by simp) (by simp)

theorem refuseOff_reports (p : Port) (h : Reports s0 s) : Reports s0 (refuseOff p s) := by
  unfold refuseOff
  repeat' first
    | with_reducible assumption | with_reducible apply reports_bump | with_reducible apply countAdmission_reports
    | with_reducible apply refuseAdmission_reports | with_reducible apply toLocalTone_reports

theorem offHook_reports (p : Port) (h : Reports s0 s) : Reports s0 (offHook p s) := by
  unfold offHook
  dsimp only
  (repeat' split) <;> (repeat' first
    | with_reducible assumption | with_reducible apply reports_bump | with_reducible apply toLocalTone_reports
    | with_reducible apply join_reports | with_reducible apply originate_reports
    | with_reducible apply refuseOff_reports)

theorem takeIfLifted_reports (p : Port) (h : Reports s0 s) : Reports s0 (takeIfLifted p s) := by
  unfold takeIfLifted
  (repeat' split) <;> (repeat' first
    | with_reducible assumption | with_reducible apply offHook_reports)

theorem takeLifted_reports (ports : PortSet) (h : Reports s0 s) : Reports s0 (takeLifted ports s) := by
  unfold takeLifted
  repeat' first
    | with_reducible assumption | intro u hu | with_reducible apply reports_whenever
    | with_reducible apply takeIfLifted_reports

theorem stopAll_reports (ports : PortSet) (h : Reports s0 s) : Reports s0 (stopAll ports s) :=
  reports_same h (by simp) (by simp) (by simp)

theorem releaseAll_reports (ports : PortSet) (h : Reports s0 s) : Reports s0 (releaseAll ports s) :=
  reports_same h (by simp) (by simp) (by simp)

theorem refuseAlert_reports (n : Slot) (cause : Cause) (h : Reports s0 s) : Reports s0 (refuseAlert n cause s) :=
  reports_same h (by simp) (by simp) (by simp)

theorem alertRings_reports (n : Slot) (ports : PortSet) (cad : Fin 8) (group : Bool) (h : Reports s0 s) : Reports s0 (alertRings n ports cad group s) := by
  unfold alertRings
  dsimp only
  (repeat' split) <;> (repeat' first
    | with_reducible assumption | with_reducible apply reports_onCall | with_reducible apply reports_bump
    | with_reducible apply followCall_reports | with_reducible apply ringPorts_reports
    | with_reducible apply occupy_reports | with_reducible apply freeSlot_reports
    | with_reducible apply reportIfIdle_reports | with_reducible apply refuseAlert_reports)

theorem alert_reports (n : Slot) (cadence : Nat) (ports : PortSet) (group : Bool) (h : Reports s0 s) : Reports s0 (alert n cadence ports group s) := by
  unfold alert
  (repeat' split) <;> (repeat' first
    | with_reducible assumption | with_reducible apply countAdmission_reports
    | with_reducible apply refuseAdmission_reports | with_reducible apply refuseAlert_reports
    | with_reducible apply alertRings_reports)

theorem answer_reports (p : Port) (h : Reports s0 s) : Reports s0 (answer p s) := by
  unfold answer
  (repeat' split) <;> (repeat' first
    | with_reducible assumption | with_reducible apply reports_onCall | with_reducible apply reports_bump
    | with_reducible apply followCall_reports | with_reducible apply stopChannel_reports
    | with_reducible apply unpair_reports | with_reducible apply queueSignal_reports
    | with_reducible apply attach_reports | with_reducible apply takeLifted_reports
    | with_reducible apply stopAll_reports)

theorem leaveRingSet_reports (p : Port) (cause : Cause) (h : Reports s0 s) : Reports s0 (leaveRingSet p cause s) := by
  unfold leaveRingSet
  dsimp only
  (repeat' split) <;> (repeat' first
    | with_reducible assumption | with_reducible apply reports_onCall | with_reducible apply queueSignal_reports
    | with_reducible apply freeSlot_reports | with_reducible apply reportIfIdle_reports)

theorem alertLimit_reports (n : Slot) (h : Reports s0 s) : Reports s0 (alertLimit n s) := by
  unfold alertLimit
  repeat' first
    | with_reducible assumption | with_reducible apply reports_bump | with_reducible apply queueSignal_reports
    | with_reducible apply freeSlot_reports | with_reducible apply reportIfIdle_reports
    | with_reducible apply takeLifted_reports | with_reducible apply stopAll_reports

theorem cancel_reports (n : Slot) (h : Reports s0 s) : Reports s0 (cancel n s) := by
  unfold cancel
  repeat' first
    | with_reducible assumption | with_reducible apply freeSlot_reports | with_reducible apply reportIfIdle_reports
    | with_reducible apply takeLifted_reports | with_reducible apply stopAll_reports

theorem connect_reports (n : Slot) (h : Reports s0 s) : Reports s0 (connect n s) :=
  reports_same h (by simp) (by simp) (by simp)

theorem release_reports (n : Slot) (code : Nat) (h : Reports s0 s) : Reports s0 (release n code s) := by
  unfold release
  repeat' first
    | with_reducible assumption | with_reducible apply freeSlot_reports | with_reducible apply reportIfIdle_reports
    | with_reducible apply takeLifted_reports | with_reducible apply stopAll_reports
    | with_reducible apply releaseAll_reports

theorem ignoreSignal_reports (h : Reports s0 s) : Reports s0 (ignoreSignal s) :=
  reports_same h (by simp) (by simp) (by simp)

theorem signalArrives_reports (n : Slot) (frame : Bytes) (h : Reports s0 s) : Reports s0 (signalArrives n frame s) := by
  unfold signalArrives
  dsimp only
  (repeat' split) <;> (repeat' first
    | with_reducible assumption | with_reducible apply reports_bump | with_reducible apply refuseAlert_reports
    | with_reducible apply alert_reports | with_reducible apply cancel_reports
    | with_reducible apply connect_reports | with_reducible apply release_reports
    | with_reducible apply ignoreSignal_reports)

theorem fromPort_reports (p : Port) (g : Signal) (h : Reports s0 s) : Reports s0 (fromPort p g s) :=
  reports_same h (by simp) (by simp) (by simp)

theorem detach_reports (p : Port) (h : Reports s0 s) : Reports s0 (detach p s) := by
  unfold detach
  dsimp only
  (repeat' split) <;> (repeat' first
    | with_reducible assumption | with_reducible apply reports_onCall | with_reducible apply queueSignal_reports
    | with_reducible apply freeSlot_reports | with_reducible apply reportIfIdle_reports)

theorem holdSlot_reports (n : Slot) (h : Reports s0 s) : Reports s0 (holdSlot n s) :=
  reports_same h (by simp) (by simp) (by simp)

theorem holdSlots_reports (h : Reports s0 s) : Reports s0 (holdSlots s) :=
  reports_same h (by simp) (by simp) (by simp)

theorem cutSlot_reports (n : Slot) (h : Reports s0 s) : Reports s0 (cutSlot n s) := by
  unfold cutSlot
  repeat' first
    | with_reducible assumption | with_reducible apply reports_bump | with_reducible apply occurrence_reports
    | with_reducible apply queueSignal_reports | with_reducible apply freeSlot_reports
    | with_reducible apply reportIfIdle_reports | with_reducible apply takeLifted_reports
    | with_reducible apply stopAll_reports | with_reducible apply releaseAll_reports

theorem preemptOnce_reports (h : Reports s0 s) : Reports s0 (preemptOnce s) := by
  unfold preemptOnce
  (repeat' split) <;> (repeat' first
    | with_reducible assumption | with_reducible apply cutSlot_reports)

theorem preempt_reports (h : Reports s0 s) : Reports s0 (preempt s) := by
  unfold preempt
  repeat' first
    | with_reducible assumption | with_reducible apply preemptOnce_reports

theorem refreshSlot_reports (n : Slot) (h : Reports s0 s) : Reports s0 (refreshSlot n s) :=
  reports_same h (by simp) (by simp) (by simp)

theorem endHold_reports (n : Slot) (h : Reports s0 s) : Reports s0 (endHold n s) :=
  reports_same h (by simp) (by simp) (by simp)

theorem lineReturns_reports (h : Reports s0 s) : Reports s0 (lineReturns s) := by
  unfold lineReturns
  repeat' first
    | with_reducible assumption | with_reducible apply preempt_reports | with_reducible apply refreshSlot_reports
    | with_reducible apply endHold_reports

theorem dropSlot_reports (n : Slot) (h : Reports s0 s) : Reports s0 (dropSlot n s) := by
  unfold dropSlot
  (repeat' split) <;> (repeat' first
    | with_reducible assumption | with_reducible apply reports_onCall | with_reducible apply reports_bumpBy
    | with_reducible apply reports_bump | with_reducible apply occurrence_reports
    | with_reducible apply cutShort_reports | with_reducible apply freeSlot_reports
    | with_reducible apply takeLifted_reports | with_reducible apply stopAll_reports
    | with_reducible apply releaseAll_reports)

theorem dropAll_reports (h : Reports s0 s) : Reports s0 (dropAll s) := by
  unfold dropAll
  repeat' first
    | with_reducible assumption | with_reducible apply dropSlot_reports

theorem endProbe_reports (h : Reports s0 s) : Reports s0 (endProbe s) :=
  reports_same h (by simp) (by simp) (by simp)

theorem setTest_reports (t : Option PortTest) (h : Reports s0 s) : Reports s0 (setTest t s) :=
  reports_same h (by simp) (by simp) (by simp)

theorem startTest_reports (t : PortTest) (h : Reports s0 s) : Reports s0 (startTest t s) :=
  reports_same h (by simp) (by simp) (by simp)

theorem testOnHook_reports (p : Port) (h : Reports s0 s) : Reports s0 (testOnHook p s) :=
  reports_same h (by simp) (by simp) (by simp)

theorem classify_reports (p : Port) (b : Nat) (h : Reports s0 s) : Reports s0 (classify p b s) :=
  reports_same h (by simp) (by simp) (by simp)

theorem takeChange_reports (p : Port) (closed : Bool) (h : Reports s0 s) : Reports s0 (takeChange p closed s) :=
  reports_same h (by simp) (by simp) (by simp)

theorem onHookTaken_reports (p : Port) (h : Reports s0 s) : Reports s0 (onHookTaken p s) := by
  unfold onHookTaken
  (repeat' split) <;> (repeat' first
    | with_reducible assumption | with_reducible apply toIdle_reports | with_reducible apply leftParked_reports
    | with_reducible apply detach_reports | with_reducible apply testOnHook_reports)

theorem onHookFires_reports (p : Port) (h : Reports s0 s) : Reports s0 (onHookFires p s) := by
  unfold onHookFires
  repeat' first
    | with_reducible assumption | intro u hu | with_reducible apply reports_onPort
    | with_reducible apply reports_bump | with_reducible apply reports_whenever
    | with_reducible apply onHookTaken_reports

theorem digitTaken_reports (p : Port) (pulses : Nat) (h : Reports s0 s) : Reports s0 (digitTaken p pulses s) :=
  reports_same h (by simp) (by simp) (by simp)

theorem interdigitFires_reports (p : Port) (h : Reports s0 s) : Reports s0 (interdigitFires p s) :=
  reports_same h (by simp) (by simp) (by simp)

theorem parkExpires_reports (p : Port) (h : Reports s0 s) : Reports s0 (parkExpires p s) := by
  unfold parkExpires
  (repeat' split) <;> (repeat' first
    | with_reducible assumption | with_reducible apply toParked_reports)

theorem toDisabled_reports (p : Port) (h : Reports s0 s) : Reports s0 (toDisabled p s) :=
  reports_same h (by simp) (by simp) (by simp)

theorem disablePort_reports (p : Port) (h : Reports s0 s) : Reports s0 (disablePort p s) := by
  unfold disablePort
  (repeat' split) <;> (repeat' first
    | with_reducible assumption | with_reducible apply leftParked_reports | with_reducible apply unpair_reports
    | with_reducible apply leaveRingSet_reports | with_reducible apply detach_reports
    | with_reducible apply toDisabled_reports)

theorem enablePort_reports (p : Port) (h : Reports s0 s) : Reports s0 (enablePort p s) := by
  unfold enablePort
  (repeat' split) <;> (repeat' first
    | with_reducible assumption | with_reducible apply enterPort_reports
    | with_reducible apply takeIfLifted_reports)

theorem releasePortAct_reports (p : Port) (h : Reports s0 s) : Reports s0 (releasePortAct p s) := by
  unfold releasePortAct
  (repeat' split) <;> (repeat' first
    | with_reducible assumption | with_reducible apply toReleased_reports
    | with_reducible apply stopRinging_reports | with_reducible apply takeIfLifted_reports
    | with_reducible apply leaveRingSet_reports | with_reducible apply detach_reports)

theorem stray_reports (h : Reports s0 s) : Reports s0 (stray s) :=
  reports_same h (by simp) (by simp) (by simp)

theorem enterTraining_reports (h : Reports s0 s) : Reports s0 (enterTraining s) := by
  unfold enterTraining
  (repeat' split) <;> (repeat' first
    | with_reducible assumption | with_reducible apply reports_onLs | with_reducible apply enterLink_reports
    | with_reducible apply holdSlots_reports)

theorem startLine_reports (h : Reports s0 s) : Reports s0 (startLine s) := by
  unfold startLine
  repeat' first
    | with_reducible assumption | with_reducible apply reports_onLs | with_reducible apply sendTrain_reports
    | with_reducible apply enterLink_reports

theorem newRound_reports (h : Reports s0 s) : Reports s0 (newRound s) := by
  unfold newRound
  repeat' first
    | with_reducible assumption | with_reducible apply reports_onLs | with_reducible apply sendTrain_reports
    | with_reducible apply enterLink_reports

theorem enterWaiting_reports (h : Reports s0 s) : Reports s0 (enterWaiting s) := by
  unfold enterWaiting
  repeat' first
    | with_reducible assumption | with_reducible apply reports_onLs | with_reducible apply reports_bump
    | with_reducible apply occurrence_reports | with_reducible apply sendHalt_reports
    | with_reducible apply enterLink_reports | with_reducible apply dropAll_reports

theorem trainingFailed_reports (halt : Bool) (h : Reports s0 s) : Reports s0 (trainingFailed halt s) := by
  unfold trainingFailed
  (repeat' split) <;> (repeat' first
    | with_reducible assumption | intro u hu | with_reducible apply reports_whenever
    | with_reducible apply sendHalt_reports | with_reducible apply sendTrain_reports
    | with_reducible apply enterWaiting_reports)

theorem startCarrying_reports (h : Reports s0 s) : Reports s0 (startCarrying s) := by
  unfold startCarrying
  repeat' first
    | with_reducible assumption | with_reducible apply reports_onLs | with_reducible apply endCondition_reports
    | with_reducible apply unsetExpected_reports

theorem enterCarrying_reports (rate : Nat) (margin : Int) (h : Reports s0 s) : Reports s0 (enterCarrying rate margin s) := by
  unfold enterCarrying
  repeat' first
    | with_reducible assumption | with_reducible apply reports_onLs | with_reducible apply reports_bump
    | with_reducible apply endCondition_reports | with_reducible apply stageBudget_reports
    | with_reducible apply lineReturns_reports | with_reducible apply startCarrying_reports

theorem trainedTaken_reports (rate : Nat) (margin : Int) (h : Reports s0 s) : Reports s0 (trainedTaken rate margin s) := by
  unfold trainedTaken
  dsimp only
  (repeat' split) <;> (repeat' first
    | with_reducible assumption | intro u hu | with_reducible apply reports_bump
    | with_reducible apply reports_whenever | with_reducible apply trainingFailed_reports
    | with_reducible apply enterCarrying_reports)

theorem rideFails_reports (h : Reports s0 s) : Reports s0 (rideFails s) := by
  unfold rideFails
  repeat' first
    | with_reducible assumption | with_reducible apply reports_onLs | with_reducible apply reports_bump
    | with_reducible apply occurrence_reports | with_reducible apply sendHalt_reports
    | with_reducible apply sendTrain_reports | with_reducible apply enterTraining_reports

theorem startRide_reports (h : Reports s0 s) : Reports s0 (startRide s) := by
  unfold startRide
  dsimp only
  (repeat' split) <;> (repeat' first
    | with_reducible assumption | with_reducible apply reports_onLs | with_reducible apply reports_bump
    | with_reducible apply enterLink_reports | with_reducible apply leaveCarrying_reports
    | with_reducible apply holdSlots_reports | with_reducible apply rideFails_reports)

theorem endRide_reports (h : Reports s0 s) : Reports s0 (endRide s) := by
  unfold endRide
  repeat' first
    | with_reducible assumption | with_reducible apply reports_onLs | with_reducible apply reports_bump
    | with_reducible apply occurrence_reports | with_reducible apply copyFloor_reports
    | with_reducible apply lineReturns_reports | with_reducible apply startCarrying_reports

theorem holdExpires_reports (h : Reports s0 s) : Reports s0 (holdExpires s) := by
  unfold holdExpires
  repeat' first
    | with_reducible assumption | with_reducible apply reports_onLs | with_reducible apply reports_bump
    | with_reducible apply enterLink_reports | with_reducible apply dropAll_reports

theorem stepDownTo_reports (i : Fin 8) (h : Reports s0 s) : Reports s0 (stepDownTo i s) := by
  unfold stepDownTo
  repeat' first
    | with_reducible assumption | with_reducible apply reports_bump | with_reducible apply occurrence_reports
    | with_reducible apply sendHalt_reports | with_reducible apply sendTrain_reports
    | with_reducible apply leaveCarrying_reports | with_reducible apply enterTraining_reports

theorem askStepDown_reports (h : Reports s0 s) : Reports s0 (askStepDown s) := by
  unfold askStepDown
  (repeat' split) <;> (repeat' first
    | with_reducible assumption | with_reducible apply stepDownTo_reports)

theorem evalSevere_reports (h : Reports s0 s) : Reports s0 (evalSevere s) := by
  unfold evalSevere
  dsimp only
  (repeat' split) <;> (repeat' first
    | with_reducible assumption | with_reducible apply occurrence_reports
    | with_reducible apply endCondition_reports | with_reducible apply askStepDown_reports)

theorem evalStepUp_reports (h : Reports s0 s) : Reports s0 (evalStepUp s) := by
  unfold evalStepUp
  (repeat' split) <;> (repeat' first
    | with_reducible assumption | with_reducible apply reports_onLs | with_reducible apply stepUpTo_reports)

theorem gradeSecond_reports (h : Reports s0 s) : Reports s0 (gradeSecond s) := by
  unfold gradeSecond
  (repeat' split) <;> (repeat' first
    | with_reducible assumption | with_reducible apply reports_onLs | with_reducible apply evalSevere_reports
    | with_reducible apply evalStepUp_reports)

theorem marginTaken_reports (margin : Int) (h : Reports s0 s) : Reports s0 (marginTaken margin s) := by
  unfold marginTaken
  dsimp only
  (repeat' split) <;> (repeat' first
    | with_reducible assumption | with_reducible apply reports_onLs | with_reducible apply occurrence_reports
    | with_reducible apply endCondition_reports | with_reducible apply askStepDown_reports)

theorem stopLine_reports (h : Reports s0 s) : Reports s0 (stopLine s) := by
  unfold stopLine
  repeat' first
    | with_reducible assumption | intro u hu | with_reducible apply reports_onLs
    | with_reducible apply reports_whenever | with_reducible apply endCondition_reports
    | with_reducible apply sendHalt_reports | with_reducible apply enterLink_reports
    | with_reducible apply leaveCarrying_reports | with_reducible apply dropAll_reports
    | with_reducible apply endProbe_reports

theorem retrainFromUp_reports (h : Reports s0 s) : Reports s0 (retrainFromUp s) := by
  unfold retrainFromUp
  repeat' first
    | with_reducible assumption | intro u hu | with_reducible apply reports_onLs
    | with_reducible apply reports_whenever | with_reducible apply occurrence_reports
    | with_reducible apply sendHalt_reports | with_reducible apply sendTrain_reports
    | with_reducible apply leaveCarrying_reports | with_reducible apply enterTraining_reports

theorem retrain_reports (h : Reports s0 s) : Reports s0 (retrain s) := by
  unfold retrain
  (repeat' split) <;> (repeat' first
    | with_reducible assumption | with_reducible apply sendHalt_reports | with_reducible apply sendTrain_reports
    | with_reducible apply newRound_reports | with_reducible apply retrainFromUp_reports)

theorem startLoopback_reports (c : LoopChannel) (h : Reports s0 s) : Reports s0 (startLoopback c s) := by
  unfold startLoopback
  (repeat' split) <;> (repeat' first
    | with_reducible assumption | with_reducible apply reports_onLs | with_reducible apply reports_bump
    | with_reducible apply dropSeg_reports | with_reducible apply abandon_reports)

theorem loopbackExpires_reports (h : Reports s0 s) : Reports s0 (loopbackExpires s) :=
  reports_same h (by simp) (by simp) (by simp)

end Sys2Proof.Machine
end

