-- ==== Sys2Proof/Laws/Directives.lean ====
section
/-! SUPPORT. Directives: a body written from its fields reads back as those fields, a directive that passes the checks of R205
is acted on, a refusal changes no state, and what its answer leaves in the queues. -/

namespace Sys2Proof.Machine

variable {s : State}

/-! ## Bodies (R219, section 11.4) -/

theorem parse_table (table i : Byte) (e : Bytes) : parseRequest 2 ([table, i] ++ e) = parseEntry table.toNat i e := rfl

theorem parse_writeProfile (i : Byte) (e : ProfileImage) :
    parseRequest 2 (Request.writeProfile i e).body = some (.writeProfile i e) := by
  refine (parse_table 1 i _).trans ((@if_pos _ _ (show (profileImageBytes e).length = 8 from rfl) _ _ none).trans ?_)
  refine congrArg some (congrArg _ ?_)
  show ProfileImage.mk e.valid (half (byteOf (e.rateCap.toNat / 256)) (byteOf e.rateCap.toNat)) e.blockSize
    (half (byteOf (e.efficiency.toNat / 256)) (byteOf e.efficiency.toNat))
    (half (byteOf (e.minMargin.toNat / 256)) (byteOf e.minMargin.toNat)) = e
  rw [half_be16, half_be16, half_be16]

theorem parse_writeCadence (i : Byte) (d : List Half) (r : Byte) (h : d.length = 8) :
    parseRequest 2 (Request.writeCadence i d r).body = some (.writeCadence i d r) := by
  have hl : (halfBytes d).length = 16 := by rw [halfBytes_length, h]
  refine (parse_table 2 i (halfBytes d ++ [r])).trans ?_
  show (if (halfBytes d ++ [r]).length = 17 then
    some (Request.writeCadence i (halvesOf ((halfBytes d ++ [r]).take 16)) ((halfBytes d ++ [r]).getD 16 0)) else none) = _
  rw [if_pos (by simp [hl]), ← hl, List.take_left, halvesOf_halfBytes]
  simp [List.getD_eq_getElem?_getD]

theorem parse_writeMatch (i : Byte) (e : MatchImage) :
    parseRequest 2 (Request.writeMatch i e).body = some (.writeMatch i e) := by
  refine (parse_table 3 i _).trans ((@if_pos _ _ (show (matchImageBytes e).length = 26 from rfl) _ _ none).trans ?_)
  refine congrArg some (congrArg _ ?_)
  show MatchImage.mk e.flags e.codes (word48 (be48 e.dest.toNat)) (word48 (be48 e.src.toNat))
    (half (byteOf (e.typeValue.toNat / 256)) (byteOf e.typeValue.toNat)) e.protocol e.dscp (word32 (be32 e.ip.toNat))
    (half (byteOf (e.low.toNat / 256)) (byteOf e.low.toNat)) (half (byteOf (e.high.toNat / 256)) (byteOf e.high.toNat)) = e
  rw [half_be16, half_be16, half_be16, word48_be48, word48_be48, word32_be32]

theorem parse_writeAnswer (i v : Byte) (hw : Mac) (ip : Ip) :
    parseRequest 2 (Request.writeAnswer i v hw ip).body = some (.writeAnswer i v hw ip) := by
  refine (parse_table 4 i _).trans
    ((@if_pos _ _ (show ([v] ++ be48 hw.toNat ++ be32 ip.toNat).length = 11 from rfl) _ _ none).trans ?_)
  show some (Request.writeAnswer i v (word48 (be48 hw.toNat)) (word32 (be32 ip.toNat))) = _
  rw [word48_be48, word32_be32]

theorem parse_writeParam (p : Byte) (v : BitVec 48) :
    parseRequest 5 (Request.writeParam p v).body = some (.writeParam p v) := by
  refine (@if_pos _ _ (show (be48 v.toNat).length = 6 from rfl) _ _ none).trans ?_
  show some (Request.writeParam p (word48 (be48 v.toNat))) = _
  rw [word48_be48]

/-- A body written from a request's fields reads back as the request. -/
theorem parse_body (r : Request) (h : r.fits = true) : parseRequest r.code r.body = some r := by
  cases r with
  | writeProfile i e => exact parse_writeProfile i e
  | writeCadence i d r => exact parse_writeCadence i d r (by simpa [Request.fits] using h)
  | writeMatch i e => exact parse_writeMatch i e
  | writeAnswer i v hw ip => exact parse_writeAnswer i v hw ip
  | writeFault i l => rfl
  | writeParam p v => exact parse_writeParam p v
  | _ => rfl

/-! ## The checks (R205 to R207) -/

theorem tableWrong_passes {sender : Sender} (r : Request) (h : r.passes sender = true) :
    tableWrong r.code r.body = false := by
  cases r with
  | readTable t f c =>
    simp only [Request.passes, Bool.and_eq_true, decide_eq_true_eq] at h
    have h0 : t ≠ 0 := by
      rintro rfl
      exact absurd h.1 (by decide)
    simp only [tableWrong, Request.code, Request.body]
    simp only [beq_self_eq_true, Bool.true_or, Bool.true_and, Bool.or_eq_false_iff, beq_eq_false_iff_ne, decide_eq_false_iff_not]
    exact ⟨h0, by omega⟩
  | _ => simp [tableWrong, Request.code, Request.body]

theorem ownerWrong_passes {sender : Sender} (r : Request) (h : r.passes sender = true) :
    ownerWrong sender r.code r.body = false := by
  cases r <;> cases sender <;>
    simp_all [ownerWrong, Request.code, Request.body, Request.passes, senderAuthority, Authority.mayWrite]

/-- A directive that fits its row and passes its sender's checks is acted on (R205). -/
theorem takeBody_passes (sender : Sender) (tag : Half) (r : Request) (h : r.fits = true)
    (k : r.passes sender = true) : takeBody sender r.code tag r.body s = takeRequest sender tag r s := by
  unfold takeBody
  rw [if_neg (by simp [tableWrong_passes r k]), if_neg (by simp [ownerWrong_passes r k]), parse_body r h]

/-- An accepted directive is checked in the state it arrives in (R203, R204). -/
theorem receive_accepted (sender : Sender) (take : State → State) (ha : accepts sender s) :
    receiveDirective sender take s = take (arrived sender s) := by
  unfold receiveDirective
  cases sender with
  | loc source => rfl
  | exch =>
    have hq : (bump (Ctr.received .exch) s).qm.replies.length < Config.replies := by simpa [accepts] using ha
    exact if_pos hq

/-- An accepted directive that passes its checks is acted on in the state it arrives in (R203 to R205). -/
theorem directive_passes (sender : Sender) (tag : Half) (r : Request) (ha : accepts sender s) (h : r.fits = true)
    (k : r.passes sender = true) : directive sender tag r s = takeRequest sender tag r (arrived sender s) :=
  (receive_accepted sender _ ha).trans (takeBody_passes sender tag r h k)

/-- An exchange directive that finds the reply queue full is discarded unread and counted (R204). -/
theorem directive_discarded (tag : Half) (r : Request) (h : ¬ s.qm.replies.length < Config.replies) :
    directive .exch tag r s = bump Ctr.exchangeDiscarded (bump (Ctr.received .exch) s) := by
  unfold directive receiveDirective
  dsimp only
  rw [if_neg (by simpa using h)]

/-- A written cadence with other than eight durations has no body of the right length (R114, R219). -/
theorem parse_cadence_misfit (d : List Half) (i r : Byte) (h : d.length ≠ 8) :
    parseRequest 2 (Request.writeCadence i d r).body = none := by
  have hl := halfBytes_length d
  refine (parse_table 2 i (halfBytes d ++ [r])).trans
    (@if_neg _ _ (show ¬ (halfBytes d ++ [r]).length = 17 from ?_) _ (some _) none)
  simp
  omega

/-- What a directive's body comes to (R205): a refusal, a refusal of the owner check, or the request acted on. -/
theorem takeBody_cases (sender : Sender) (tag : Half) (r : Request) (s : State) :
    (∃ st, takeBody sender r.code tag r.body s = answerWith sender (replyCode r.code) tag (refuse st s)) ∨
      (∃ n, takeBody sender r.code tag r.body s = refuseOwner sender r.code tag n s) ∨
      takeBody sender r.code tag r.body s = takeRequest sender tag r s := by
  unfold takeBody
  split
  · exact .inl ⟨_, rfl⟩
  · split
    · exact .inr (.inl ⟨_, rfl⟩)
    · by_cases h : r.fits = true
      · rw [parse_body r h]
        exact .inr (.inr rfl)
      · cases r with
        | writeCadence a b c =>
          simp [Request.fits] at h
          have := parse_cadence_misfit b a c h
          simp only [Request.code]
          rw [this]
          exact .inl ⟨_, rfl⟩
        | _ => simp [Request.fits] at h

/-! ## A refusal changes no state (R205, R206) -/

/-- An answer that is not DONE leaves the state it was given, and its body is empty but for STILL_ACTIVE (R205). -/
def Answer.RefusesCleanly (r : Answer) (s : State) : Prop :=
  r.status ≠ .done → r.state = s ∧ (r.status ≠ .stillActive → r.body = [])

theorem refuse_clean (status : Status) (s : State) : (refuse status s).RefusesCleanly s := fun _ => ⟨rfl, fun _ => rfl⟩

theorem doneWith_clean (body : Bytes) (s t : State) : (doneWith body t).RefusesCleanly s := fun h => absurd rfl h

theorem stillActive_clean (body : Bytes) (s : State) :
    ({ state := s, status := .stillActive, body := body } : Answer).RefusesCleanly s := fun _ => ⟨rfl, fun h => absurd rfl h⟩

theorem writeProfileAct_clean (i : Byte) (e : ProfileImage) (s : State) : (writeProfileAct i e s).RefusesCleanly s := by
  unfold writeProfileAct
  dsimp only
  (repeat' split) <;> first | with_reducible exact refuse_clean _ _ | with_reducible exact doneWith_clean _ _ _

theorem clearFaultAct_clean (a : Authority) (kind flag : Byte) (s : State) : (clearFaultAct a kind flag s).RefusesCleanly s := by
  unfold clearFaultAct
  (repeat' split) <;> first | with_reducible exact refuse_clean _ _ | with_reducible exact doneWith_clean _ _ _ | with_reducible exact stillActive_clean _ _

theorem lineActionAct_clean (x c : Byte) (s : State) : (lineActionAct x c s).RefusesCleanly s := by
  unfold lineActionAct startAct retrainAct stepDownAct stepUpAct loopOnAct
  (repeat' split) <;> first | with_reducible exact refuse_clean _ _ | with_reducible exact doneWith_clean _ _ _

theorem testAct_clean (kind : TestKind) (a : Authority) (tag : Half) (p : Port) (cadence seconds : Byte) (s : State) :
    (testAct kind a tag p cadence seconds s).RefusesCleanly s := by
  unfold testAct
  (repeat' split) <;> first | with_reducible exact refuse_clean _ _ | with_reducible exact doneWith_clean _ _ _

theorem portActionAct_clean (a : Authority) (tag : Half) (k p c n : Byte) (s : State) :
    (portActionAct a tag k p c n s).RefusesCleanly s := by
  unfold portActionAct releaseAct disableAct
  (repeat' split) <;> first | with_reducible exact refuse_clean _ _ | with_reducible exact doneWith_clean _ _ _ | with_reducible exact testAct_clean _ _ _ _ _ _ _

theorem quietAct_clean (k h : Byte) (s : State) : (quietAct k h s).RefusesCleanly s := by
  unfold quietAct quietEnterAct quietLeaveAct
  (repeat' split) <;> first | with_reducible exact refuse_clean _ _ | with_reducible exact doneWith_clean _ _ _

/-- A directive that passes the checks of its form and is refused by what it touches changes no state (R205). -/
theorem act_refused (sender : Sender) (tag : Half) (r : Request) (s : State) : (act sender tag r s).RefusesCleanly s := by
  cases r with
  | writeProfile i e => exact writeProfileAct_clean i e s
  | clearFault k c => exact clearFaultAct_clean _ k c s
  | lineAction x c => exact lineActionAct_clean x c s
  | portAction k p c n => exact portActionAct_clean _ tag k p c n s
  | quiet k h => exact quietAct_clean k h s
  | _ =>
    simp only [act, readTableAct, writeCadenceAct, writeMatchAct, writeAnswerAct, writeFaultAct, readParamAct, writeParamAct]
    (repeat' split) <;> first | with_reducible exact refuse_clean _ _ | with_reducible exact doneWith_clean _ _ _

/-! ## Answers (R203, R204, R217) -/

@[simp] theorem arrived_frame (sender : Sender) (s : State) :
    (arrived sender s).pending = s.pending ∧ (arrived sender s).bf = s.bf ∧ (arrived sender s).ls = s.ls ∧
    (arrived sender s).lbu = s.lbu ∧ (arrived sender s).me = s.me ∧ (arrived sender s).qm = s.qm ∧
    (arrived sender s).ppu = s.ppu ∧ (arrived sender s).cc = s.cc ∧ (arrived sender s).mdu = s.mdu ∧
    (arrived sender s).fu = s.fu ∧ (arrived sender s).tr = s.tr ∧ (arrived sender s).clock = s.clock ∧
    (arrived sender s).out = s.out ∧ (arrived sender s).free = s.free := by
  cases sender <;> simp [arrived]

@[simp] theorem arrived_du (sender : Sender) (s : State) : (arrived sender s).du = seenBy sender s.du := by
  cases sender <;> simp [arrived, seenBy]

@[simp] theorem arrived_param (sender : Sender) (s : State) (p : Param) : (arrived sender s).param p = s.param p := by
  cases sender <;> rfl

theorem counter_bump_if (c d : Counter) :
    (bump c s).counter d = if c = d then satAdd Config.max32 (s.counter d) 1 else s.counter d := by
  rw [counter_bump]
  split
  · rename_i e
    subst e
    rfl
  · rfl

theorem arrived_counters (sender : Sender) (s : State) (c : Counter) :
    (arrived sender s).counter c =
      if Ctr.received (senderAuthority sender) = c then satAdd Config.max32 (s.counter c) 1 else s.counter c := by
  cases sender
  · exact counter_bump_if _ c
  · exact counter_bump_if _ c

/-- What an answer leaves in the queues when the directive's effects have reached them by reports only. -/
theorem answerWith_answered (sender : Sender) (code : Byte) (tag : Half) (r : Answer) (h : Reports s r.state)
    (ha : accepts sender s) (hm : r.state.du.manager = (seenBy sender s.du).manager) :
    answered sender (replyMsg code tag r.status r.body) s (answerWith sender code tag r) := by
  obtain ⟨⟨l, hl, hq⟩, -, -⟩ := h
  refine ⟨l, hl, ?_⟩
  unfold answeredAfter
  have hr : (r.state |> bump r.status.counter).qm = r.state.qm := by simp
  cases sender with
  | exch =>
    have hlen : (bump r.status.counter r.state).qm.replies.length < Config.replies := by
      simp only [bump_qm, hq]
      exact ha
    have : answerWith .exch code tag r = pushReply (replyMsg code tag r.status r.body) (bump r.status.counter r.state) :=
      if_pos hlen
    rw [this]
    simp [pushReply, hq]
  | loc source =>
    have hd : (bump r.status.counter r.state).localDest = source := by
      simp [State.localDest, hm, seenBy]
    have hf : (bump r.status.counter r.state).localFrame (replyMsg code tag r.status r.body) =
        etherFrame source (answerWith (.loc source) code tag r).ownAddress 0x9A21
          (replyMsg code tag r.status r.body) := by
      have hdu : (answerWith (.loc source) code tag r).du = (bump r.status.counter r.state).du := by
        simp [answerWith, sendReply, senderAuthority]
      unfold State.localFrame
      rw [hd]
      unfold State.ownAddress
      rw [param_congr hdu]
    have ht : answerWith (.loc source) code tag r =
        offerFifo .localReply ((bump r.status.counter r.state).localFrame (replyMsg code tag r.status r.body))
          (bump r.status.counter r.state) := rfl
    dsimp only
    rw [← hf]
    rw [ht]
    generalize (bump r.status.counter r.state).localFrame (replyMsg code tag r.status r.body) = frame
    have hqm : (bump r.status.counter r.state).qm = { s.qm with fifo := s.qm.fifo ++ l } := by simp [hq]
    generalize bump r.status.counter r.state = u at hqm ⊢
    unfold offerFifo State.fifoTakes QueueManager.fill itemBytes pushFifo
    simp only [hqm]
    have hd : (s.qm.homeUp = true ∧ ((s.qm.fifo ++ l).map fun i => i.bytes.length).sum + frame.length ≤ Config.fifoBytes) ↔
        (s.qm.homeUp && decide (((s.qm.fifo ++ l).map fun i => i.bytes.length).sum + frame.length ≤ Config.fifoBytes)) =
          true := by simp
    by_cases h : (s.qm.homeUp && decide (((s.qm.fifo ++ l).map fun i => i.bytes.length).sum + frame.length ≤
        Config.fifoBytes)) = true
    · rw [if_pos h, if_pos (hd.2 h)]
      simp [hqm]
    · rw [if_neg h, if_neg (fun k => h (hd.1 k))]
      simp [hqm]

/-- What holds of every way a directive can be taken holds of the directive (R203 to R206). -/
theorem directive_cases (P : State → State → Prop) (sender : Sender) (tag : Half) (r : Request) (s : State)
    (h0 : P s (bump Ctr.exchangeDiscarded (bump (Ctr.received .exch) s)))
    (h1 : ∀ st, P s (answerWith sender (replyCode r.code) tag (refuse st (arrived sender s))))
    (h2 : ∀ n, P s (refuseOwner sender r.code tag n (arrived sender s)))
    (h3 : P s (takeRequest sender tag r (arrived sender s))) : P s (directive sender tag r s) := by
  by_cases ha : accepts sender s
  · unfold directive
    rw [receive_accepted _ _ ha]
    rcases takeBody_cases sender tag r (arrived sender s) with ⟨st, e⟩ | ⟨st, e⟩ | e
    · rw [e]
      exact h1 _
    · rw [e]
      exact h2 _
    · rw [e]
      exact h3
  · cases sender
    · exact absurd trivial ha
    · rw [directive_discarded _ _ ha]
      exact h0

end Sys2Proof.Machine
end

