-- ==== Sys2Proof/Laws/Drain.lean ====
section
/-! SUPPORT. What draining the local list can do, said once (R177, R92). -/

namespace Sys2Proof.Machine

variable {s t u : State}

/-- Counting one and then more is counting them together. -/
theorem satAdd_satAdd (m a k : Nat) : satAdd m (satAdd m a 1) k = satAdd m a (k + 1) := by
  simp only [satAdd]
  omega

/-- The state in which the first notice of the local list has joined the FIFO. -/
def joinOne (i : PendingItem) (rest : List PendingItem) (s : State) : State :=
  s |> pushFifo .localNotice (s.localFrame (s.notice i)) |> onList .loc (fun _ => rest) |> bump Ctr.locNoticesQueued

theorem joinOne_fu (i : PendingItem) (rest : List PendingItem) (s : State) :
    (joinOne i rest s).fu = { s.fu with locList := rest } := by
  simp [joinOne, onList, pushFifo]

theorem joinOne_fifo (i : PendingItem) (rest : List PendingItem) (s : State) :
    (joinOne i rest s).qm = { s.qm with fifo := s.qm.fifo ++ [noticeItem s i] } := by
  simp [joinOne, onList, pushFifo, noticeItem]

theorem joinOne_counter (i : PendingItem) (rest : List PendingItem) (s : State) (c : Counter) :
    (joinOne i rest s).counter c =
      if Ctr.locNoticesQueued = c then satAdd Config.max32 (s.counter Ctr.locNoticesQueued) 1 else s.counter c := by
  unfold joinOne
  rw [counter_bump]
  rfl

/-- A notice depends on the directive unit and the records only. -/
theorem noticeItem_congr (hd : t.du = s.du) (hr : t.fu.records = s.fu.records) (i : PendingItem) :
    noticeItem t i = noticeItem s i := by
  simp only [noticeItem, State.localFrame, State.localDest, State.ownAddress, State.notice, State.fault, State.param, hd, hr]

/-- A drain that begins after the first notice has joined is the rest of the drain from before. -/
theorem Drained.cons {i : PendingItem} {rest : List PendingItem} (hl : s.fu.locList = i :: rest)
    (hfit : itemBytes (s.qm.fifo ++ [noticeItem s i]) ≤ Config.fifoBytes) (ho : noticesOffered s)
    (hd : t.du = s.du) (hm : t.me = s.me)
    (hq : t.qm = { (joinOne i rest s).qm with
      fifo := (joinOne i rest s).qm.fifo ++ noticesJoined (joinOne i rest s) t })
    (h : Drained (joinOne i rest s).qm.fifo (joinOne i rest s) t) :
    Drained s.qm.fifo s t ∧ t.qm = { s.qm with fifo := s.qm.fifo ++ noticesJoined s t } := by
  have hfu := joinOne_fu i rest s
  have hfr := h.front
  have hlen : t.fu.locList.length ≤ rest.length := by
    have := congrArg List.length hfr
    rw [hfu] at this
    simp at this
    omega
  have hi : itemsJoined s t = i :: itemsJoined (joinOne i rest s) t := by
    unfold itemsJoined
    rw [hfu, hl]
    simp only [List.length_cons]
    rw [show rest.length + 1 - t.fu.locList.length = (rest.length - t.fu.locList.length) + 1 by omega, List.take_succ_cons]
  have hrec : t.fu.records = s.fu.records := by
    rw [h.monitor, hfu]
  have hn : noticesJoined s t = noticeItem s i :: noticesJoined (joinOne i rest s) t := by
    unfold noticesJoined
    rw [hi, List.map_cons, noticeItem_congr hd hrec]
  have hqs := joinOne_fifo i rest s
  have hot : noticesOffered t := by
    refine ⟨?_, by rw [hm]; exact ho.2⟩
    rw [hq, hqs]
    exact ho.1
  have happ : ∀ l, (joinOne i rest s).qm.fifo ++ (noticesJoined (joinOne i rest s) t ++ l) =
      s.qm.fifo ++ (noticesJoined s t ++ l) := by
    intro l
    rw [hn, hqs]
    simp
  have happ0 : (joinOne i rest s).qm.fifo ++ noticesJoined (joinOne i rest s) t = s.qm.fifo ++ noticesJoined s t := by
    simpa using happ []
  refine ⟨⟨?_, ?_, ?_, ?_, fun k => absurd hot k, ?_, ?_⟩, ?_⟩
  · rw [h.monitor, hfu]
  · rw [hi, hl, List.cons_append, ← hfr, hfu]
  · intro _
    by_cases he : itemsJoined (joinOne i rest s) t = []
    · rw [hn]
      simpa [noticesJoined, he] using hfit
    · rw [← happ0]
      exact h.fits he
  · intro _ j hj
    have := h.stopped hot j hj
    rwa [List.append_assoc, happ, ← List.append_assoc] at this
  · refine ⟨fun _ => ?_, fun k => absurd (by rw [hi]; simp) k⟩
    rw [hi]
    have h1 := joinOne_counter i rest s Ctr.locNoticesQueued
    rw [if_pos rfl] at h1
    by_cases he : itemsJoined (joinOne i rest s) t = []
    · rw [he]
      exact (h.queued.2 (by simp [he])).trans h1
    · have h2 := h.queued.1 he
      unfold counted at *
      rw [h2, h1]
      exact satAdd_satAdd _ _ _
  · have h1 := joinOne_counter i rest s Ctr.noticeDeclined
    rw [if_neg (by decide)] at h1
    refine ⟨fun k => ?_, fun k => (h.declined.2 k).trans h1⟩
    have h2 := h.declined.1 k
    unfold counted at *
    rw [h2, h1]
  · rw [hq, happ0, hqs]

/-- A drain that ends where it begins. -/
theorem Drained.done (before : List FifoItem) (hf : t.fu = s.fu)
    (hs : noticesOffered t → ∀ i, t.fu.locList.head? = some i →
      Config.fifoBytes < itemBytes (before ++ [noticeItem t i]))
    (hq : t.counter Ctr.locNoticesQueued = s.counter Ctr.locNoticesQueued)
    (hd : countedIf (noticesOffered t ∧ t.fu.locList ≠ []) Ctr.noticeDeclined 1 s t) :
    Drained before s t ∧ noticesJoined s t = [] := by
  have hi : itemsJoined s t = [] := by simp [itemsJoined, hf]
  have hn : noticesJoined s t = [] := by simp [noticesJoined, hi]
  refine ⟨⟨by rw [hf], by rw [hi, hf]; rfl, fun k => absurd hi k, ?_, fun _ => by rw [hf], ?_, hd⟩, hn⟩
  · rw [hn, List.append_nil]
    exact hs
  · exact ⟨fun k => absurd hi k, fun _ => hq⟩

theorem itemBytes_append (l : List FifoItem) (i : FifoItem) : itemBytes (l ++ [i]) = itemBytes l + i.bytes.length := by
  simp [itemBytes]

/-- All that offers of the local list's head do, with as many turns as the list has items: the list drains into the FIFO, and nothing
else of the queues changes. -/
theorem drainLocal_drained (n : Nat) : ∀ s : State, s.fu.locList.length ≤ n →
    Drained s.qm.fifo s (drainLocal n s) ∧
      (drainLocal n s).qm = { s.qm with fifo := s.qm.fifo ++ noticesJoined s (drainLocal n s) } := by
  induction n with
  | zero =>
    intro s h
    have hnil : s.fu.locList = [] := List.length_eq_zero_iff.mp (by omega)
    obtain ⟨a, b⟩ := Drained.done (s := s) (t := s) s.qm.fifo rfl (by simp [hnil]) rfl ⟨fun k => absurd hnil k.2, fun _ => rfl⟩
    exact ⟨a, by simp [drainLocal, b]⟩
  | succ n ih =>
    intro s h
    unfold drainLocal
    by_cases ho : noticesOffered s
    · have hb : (s.qm.homeUp && !s.me.quiet) = true := by simp [ho.1, ho.2]
      rw [if_pos hb]
      split
      · rename_i hnil
        obtain ⟨a, b⟩ := Drained.done (s := s) (t := s) s.qm.fifo rfl (by simp [hnil]) rfl
          ⟨fun k => absurd hnil k.2, fun _ => rfl⟩
        exact ⟨a, by simp [b]⟩
      · rename_i i rest hl
        dsimp only
        split
        · rename_i hf
          have hfit : itemBytes (s.qm.fifo ++ [noticeItem s i]) ≤ Config.fifoBytes := by
            rw [itemBytes_append]
            simp only [State.fifoTakes, Bool.and_eq_true, decide_eq_true_eq] at hf
            exact hf.2
          have hlen : (joinOne i rest s).fu.locList.length ≤ n := by
            rw [joinOne_fu]
            rw [hl] at h
            simpa using h
          obtain ⟨a, b⟩ := ih (joinOne i rest s) hlen
          exact Drained.cons hl hfit ho (by simp [drainLocal_frame]) (by simp [drainLocal_frame]) b a
        · rename_i hf
          have hbig : Config.fifoBytes < itemBytes (s.qm.fifo ++ [noticeItem s i]) := by
            rw [itemBytes_append]
            simp only [State.fifoTakes, ho.1, Bool.true_and, decide_eq_true_eq, not_le] at hf
            exact hf
          obtain ⟨a, b⟩ := Drained.done (s := s) (t := bump Ctr.noticeDeclined s) s.qm.fifo rfl
            (by
              intro _ j hj
              have : j = i := by simpa [hl] using hj.symm
              subst this
              exact hbig)
            (by rw [counter_bump, if_neg (by decide)])
            ⟨fun _ => by simp [counted], fun k => absurd ⟨ho, by simp [hl]⟩ k⟩
          exact ⟨a, by rw [b]; simp⟩
    · have hb : ¬ (s.qm.homeUp && !s.me.quiet) = true := by
        simpa [noticesOffered] using ho
      rw [if_neg hb]
      obtain ⟨a, b⟩ := Drained.done (s := s) (t := s) s.qm.fifo rfl (fun k => absurd k ho) rfl
        ⟨fun k => absurd k.1 ho, fun _ => rfl⟩
      exact ⟨a, by simp [b]⟩

/-- All that an offer of the local list does (R177, R92). -/
theorem offerLocal_drained (s : State) :
    Drained s.qm.fifo s (offerLocal s) ∧
      (offerLocal s).qm = { s.qm with fifo := s.qm.fifo ++ noticesJoined s (offerLocal s) } :=
  drainLocal_drained _ s le_rfl

end Sys2Proof.Machine
end

