-- ==== Sys2Proof/Laws/Grant.lean ====
section
/-! SUPPORT. The grant order: how many blocks each claim and each step puts on the line, and what becomes of the budget
record. -/

namespace Sys2Proof.Machine

variable {s t : State}

/-- `t` has put `n` more blocks on the line than `s`, after those of `s`, and the budget record is as it was but for the turn
and the urgent claim. -/
structure Emits (n : Nat) (s t : State) : Prop where
  line : ∃ l : List Bytes, l.length = n ∧ t.out.line = s.out.line ++ l
  record : t.lbu = { s.lbu with turn := t.lbu.turn, urgent := t.lbu.urgent }

theorem Emits.trans {m n : Nat} {s t u : State} (h : Emits m s t) (k : Emits n t u) : Emits (m + n) s u := by
  obtain ⟨⟨l, hl, el⟩, d⟩ := h
  obtain ⟨⟨l', hl', el'⟩, d'⟩ := k
  refine ⟨⟨l ++ l', by simp [hl, hl'], by rw [el', el, List.append_assoc]⟩, ?_⟩
  rw [d', d]

theorem emits_none (h1 : t.out.line = s.out.line) (h2 : t.lbu = s.lbu) : Emits 0 s t :=
  ⟨⟨[], rfl, by simp [h1]⟩, by rw [h2]⟩

theorem Emits.then_none {n : Nat} {s t u : State} (h : Emits n s t) (h1 : u.out.line = t.out.line) (h2 : u.lbu = t.lbu) :
    Emits n s u := h.trans (emits_none h1 h2)

theorem emitOn_emits (c : Chan) (kind : BlockKind) (urgent : Bool) (used : Nat) (frameNo : Byte) (payload : Bytes)
    (s : State) : Emits 1 s (emitOn c kind urgent used frameNo payload s) := by
  refine ⟨⟨[blockBytes s.lbu.size c kind urgent false (s.chan c).txSeq used frameNo payload], rfl, ?_⟩, ?_⟩
  · simp [emitOn, sendBlock]
  · simp

theorem emitFill_emits (s : State) : Emits 1 s (emitFill s) := by
  refine ⟨⟨[blockBytes s.lbu.size 0 .whole false true 0 0 0 []], rfl, ?_⟩, ?_⟩
  · simp [emitFill, sendBlock]
  · simp

theorem frameLeft_out (c : Chan) (source : Source) (s : State) :
    (frameLeft c source s).out = s.out ∧ (frameLeft c source s).lbu = s.lbu := by simp

theorem emitNext_emits (c : Chan) (sd : Sending) (s : State) : Emits 1 s (emitNext c sd s) := by
  unfold emitNext
  dsimp only
  have h := emitOn_emits c (kindAt sd.emitted sd.total) false
    ((sd.bytes.drop (sd.emitted * s.lbu.size.payload)).take s.lbu.size.payload).length sd.frameNo
    ((sd.bytes.drop (sd.emitted * s.lbu.size.payload)).take s.lbu.size.payload) s
  generalize emitOn c (kindAt sd.emitted sd.total) false
    ((sd.bytes.drop (sd.emitted * s.lbu.size.payload)).take s.lbu.size.payload).length sd.frameNo
    ((sd.bytes.drop (sd.emitted * s.lbu.size.payload)).take s.lbu.size.payload) s = u at h
  split
  · exact h.then_none (by simp) (by simp)
  · exact h.then_none (by simp) (by simp)

theorem startFrame_emits (c : Chan) (source : Source) (bytes : Bytes) (s : State) :
    Emits 1 s (startFrame c source bytes s) := by
  have h0 : Emits 0 s (onChan c (fun h => { h with nextFrame := h.nextFrame + 1 }) s) := emits_none (by simp) (by simp)
  exact h0.trans (emitNext_emits c ⟨source, bytes, (s.chan c).nextFrame, blocksFor s.lbu.size bytes.length, 0⟩ _)

theorem sendLooped_emits (c : Chan) (h : sendLooped c s = some t) : Emits 1 s t := by
  unfold sendLooped at h
  split at h
  · rename_i b rest _
    cases h
    have h0 : Emits 0 s (onBf (fun f => { f with loopStore := rest }) s) := emits_none (by simp) (by simp)
    exact (h0.trans (emitOn_emits c b.kind false b.used b.frameNo b.payload _)).then_none (by simp) (by simp)
  · cases h

theorem nextOn_emits {c : Chan} {head : State → Option (Source × Bytes)} (h : nextOn c head s = some t) :
    Emits 1 s t := by
  unfold nextOn at h
  split at h
  · cases h
    exact emitNext_emits ..
  · split at h
    · cases h
      exact startFrame_emits ..
    · cases h

/-! ## Claims -/

theorem urgentClaim_emits (h : urgentClaim s = some t) : Emits 1 s t := by
  unfold urgentClaim at h
  split at h
  · split at h
    · rename_i i _
      cases h
      have h0 := (emits_none (s := s) (t := dropSeg 15 s) (by simp) (by simp)).trans
        (emitOn_emits 15 .whole true (s.notice i).length (s.chan 15).nextFrame (s.notice i) (dropSeg 15 s))
      refine h0.trans (n := 0) ⟨⟨[], rfl, ?_⟩, ?_⟩
      · simp [emitGasp]
      · simp [emitGasp]
    · cases h
  · cases h

theorem operationsClaim_emits (h : operationsClaim s = some t) : Emits 1 s t := nextOn_emits h

theorem priorityClaim_emits (h : priorityClaim s = some t) : Emits 1 s t := nextOn_emits h

theorem signalServed_emits {n : Slot} (h : signalServed n s = some t) : Emits 1 s t := by
  unfold signalServed at h
  split at h
  · cases h
  · simp only [Option.map_eq_some_iff] at h
    obtain ⟨u, hu, rfl⟩ := h
    exact (nextOn_emits hu).trans (n := 0) ⟨⟨[], rfl, by simp⟩, by simp⟩

theorem controlClaim_emits (h : controlClaim s = some t) : Emits 1 s t := by
  unfold controlClaim at h
  split at h
  · rename_i u hu
    cases h
    exact signalServed_emits hu
  · split at h
    · rename_i u hu
      cases h
      exact signalServed_emits hu
    · exact operationsClaim_emits h

theorem testClaim_emits (h : testClaim s = some t) : Emits 1 s t := by
  unfold testClaim at h
  split at h
  · exact sendLooped_emits _ h
  · exact nextOn_emits h

theorem bulkClaim_emits (h : bulkClaim s = some t) : Emits 1 s t := by
  unfold bulkClaim at h
  split at h
  · exact sendLooped_emits _ h
  · exact nextOn_emits h

/-! ## Steps -/

/-- The slots a step takes are the blocks it emits, and no more than its limit (R61). -/
theorem serve_emits {claim : Claim} (ctr : Counter) (hc : ∀ u v, claim u = some v → Emits 1 u v) (n : Nat) (s : State) :
    Emits (serve claim ctr n s).2 s (serve claim ctr n s).1 ∧ (serve claim ctr n s).2 ≤ n := by
  induction n generalizing s with
  | zero => exact ⟨emits_none rfl rfl, Nat.le_refl _⟩
  | succ n ih =>
    unfold serve
    split
    · exact ⟨emits_none rfl rfl, Nat.zero_le _⟩
    · rename_i v hv
      obtain ⟨h1, h2⟩ := ih (bump ctr v)
      refine ⟨?_, Nat.succ_le_succ h2⟩
      have := ((hc _ _ hv).then_none (u := bump ctr v) (by simp) (by simp)).trans h1
      rwa [Nat.add_comm] at this

/-- What a step of the grant order leaves: as many blocks more on the line as slots fewer. -/
structure Spends (k : Nat) (s : State) (p : State × Nat) : Prop where
  emits : Emits (k - p.2) s p.1
  left : p.2 ≤ k

theorem stepOf_spends {claim : Claim} (ctr : Counter) (limit : Nat) (hc : ∀ u v, claim u = some v → Emits 1 u v) {k : Nat}
    {p : State × Nat} (h : Spends k s p) : Spends k s (stepOf claim ctr limit p) := by
  obtain ⟨h1, h2⟩ := serve_emits ctr hc (min limit p.2) p.1
  have h3 : (serve claim ctr (min limit p.2) p.1).2 ≤ p.2 := Nat.le_trans h2 (Nat.min_le_right _ _)
  have hl := h.left
  refine ⟨?_, Nat.le_trans (Nat.sub_le _ _) hl⟩
  have e := h.emits.trans h1
  have hn : k - p.2 + (serve claim ctr (min limit p.2) p.1).2 = k - (stepOf claim ctr limit p).2 := by
    show _ = k - (p.2 - (serve claim ctr (min limit p.2) p.1).2)
    omega
  rw [hn] at e
  exact e

/-! ## Voice frames (R63) -/

theorem emitNext_seg (c : Chan) (sd : Sending) (s : State) :
    ((emitNext c sd s).chan c).seg = if sd.total ≤ sd.emitted + 1 then none else some { sd with emitted := sd.emitted + 1 } := by
  unfold emitNext
  dsimp only
  split
  · have hf : (frameLeft c sd.source (onChan c (fun h => { h with seg := none })
        (emitOn c (kindAt sd.emitted sd.total) false
          ((sd.bytes.drop (sd.emitted * s.lbu.size.payload)).take s.lbu.size.payload).length sd.frameNo
          ((sd.bytes.drop (sd.emitted * s.lbu.size.payload)).take s.lbu.size.payload) s))).bf = _ :=
      (frameLeft_frame c sd.source _).2.1
    rw [chan_congr hf, chan_onChan_same]
  · rw [chan_onChan_same]

/-- A frame in progress with `n` blocks to go is emitted whole in `n` slots. -/
theorem continueFrame_emits (c : Chan) (n : Nat) (s : State)
    (h : n = 0 ∨ ∃ sd, (s.chan c).seg = some sd ∧ sd.emitted + n = sd.total) :
    Emits n s (continueFrame c n s) := by
  induction n generalizing s with
  | zero => exact emits_none rfl rfl
  | succ n ih =>
    rcases h with h | ⟨sd, hs, ht⟩
    · cases h
    · unfold continueFrame
      rw [hs]
      dsimp only
      have h1 := emitNext_emits c sd s
      have h2 := ih (emitNext c sd s) (by
        by_cases hn : n = 0
        · exact .inl hn
        · refine .inr ⟨{ sd with emitted := sd.emitted + 1 }, ?_, ?_⟩
          · rw [emitNext_seg, if_neg (by omega)]
          · show sd.emitted + 1 + n = sd.total
            omega)
      have := h1.trans h2
      rwa [Nat.add_comm] at this

theorem blocksFor_voice (size : BlockSize) : blocksFor size 84 = size.voiceBlocks := by cases size <;> rfl

/-- A voice frame of 84 bytes takes exactly F(S) blocks (R63). -/
theorem emitVoice_emits (n : Slot) (f : Bytes) (s : State) (h : f.length = 84) :
    Emits s.lbu.size.voiceBlocks s (emitVoice n f s) := by
  unfold emitVoice
  dsimp only
  refine Emits.then_none (t := continueFrame n.chan (s.lbu.size.voiceBlocks - 1) (startFrame n.chan (.voice n) f s)) ?_
    (by simp) (by simp)
  have h1 := startFrame_emits n.chan (.voice n) f s
  have hpos : 1 ≤ s.lbu.size.voiceBlocks := by cases s.lbu.size <;> decide
  have h2 := continueFrame_emits n.chan (s.lbu.size.voiceBlocks - 1) (startFrame n.chan (.voice n) f s) (by
    by_cases hn : s.lbu.size.voiceBlocks - 1 = 0
    · exact .inl hn
    · refine .inr ⟨⟨.voice n, f, (s.chan n.chan).nextFrame, blocksFor s.lbu.size f.length, 1⟩, ?_, ?_⟩
      · show (State.chan (emitNext _ _ _) _).seg = _
        rw [emitNext_seg, h, blocksFor_voice, if_neg (by show ¬ s.lbu.size.voiceBlocks ≤ 0 + 1; omega)]
      · show 1 + _ = blocksFor s.lbu.size f.length
        rw [h, blocksFor_voice]
        omega)
  have := h1.trans h2
  rwa [Nat.add_sub_cancel' hpos] at this

theorem voiceStep_spends (n : Slot) {k : Nat} {p : State × Nat} (h : Spends k s p)
    (hv : ∀ f, (p.1.media n).due = some f → f.length = 84) : Spends k s (voiceStep n p) := by
  unfold voiceStep
  split
  · exact h
  · rename_i f hf
    have he := emitVoice_emits n f p.1 (hv f hf)
    have hl := h.left
    dsimp only
    split
    · rename_i hb
      have e := h.emits.trans (he.then_none (u := clearDue n (emitVoice n f p.1)) (by simp) (by simp))
      refine ⟨?_, Nat.le_trans (Nat.sub_le _ _) hl⟩
      have hn : k - p.2 + p.1.lbu.size.voiceBlocks = k - (p.2 - p.1.lbu.size.voiceBlocks) := by omega
      rw [hn] at e
      exact e
    · exact ⟨h.emits.then_none (by simp) (by simp), hl⟩

theorem fillRest_emits (n : Nat) (s : State) : Emits n s (fillRest n s) := by
  induction n generalizing s with
  | zero => exact emits_none rfl rfl
  | succ n ih =>
    have := (emitFill_emits s).trans (ih (emitFill s))
    rwa [Nat.add_comm] at this

end Sys2Proof.Machine
end

