-- ==== Sys2Proof/Laws/Keeps.lean ====
section
/-! SUPPORT. The relation "what the invariants of Safety.lean say of `s` they say of `t`", and the updates of one block
that keep it. -/

namespace Sys2Proof.Machine

/-- Each of five invariants that holds in `s` holds in `t`. -/
structure Keeps (s t : State) : Prop where
  caps : CapacitiesOk s → CapacitiesOk t
  faults : FaultsOk s → FaultsOk t
  settings : SettingsOk s → SettingsOk t
  counters : CountersOk s → CountersOk t
  voice : VoiceOk s → VoiceOk t

theorem Keeps.refl (s : State) : Keeps s s := ⟨id, id, id, id, id⟩

theorem Keeps.trans {s t u : State} (h : Keeps s t) (k : Keeps t u) : Keeps s u :=
  ⟨fun i => k.caps (h.caps i), fun i => k.faults (h.faults i), fun i => k.settings (h.settings i),
   fun i => k.counters (h.counters i), fun i => k.voice (h.voice i)⟩

/-- What the five invariants read. -/
structure SameTracked (s t : State) : Prop where
  qm : t.qm = s.qm
  signals : ∀ n, (t.call n).signals = (s.call n).signals
  loopStore : t.bf.loopStore = s.bf.loopStore
  history : t.ls.history = s.ls.history
  grades : t.ls.gradesSince = s.ls.gradesSince
  profile : t.ls.profile = s.ls.profile
  cadences : t.ppu.cadences = s.ppu.cadences
  table : t.me.table = s.me.table
  records : t.fu.records = s.fu.records
  exch : t.fu.exchList = s.fu.exchList
  loc : t.fu.locList = s.fu.locList
  params : t.du.params = s.du.params
  counters : t.counters = s.counters
  media : t.mdu.slots = s.mdu.slots

theorem keeps_caps {s t : State} (h1 : t.qm = s.qm)
    (h2 : ∀ n, (t.call n).signals.length ≤ (s.call n).signals.length)
    (h3 : t.bf.loopStore.length ≤ s.bf.loopStore.length) (h4 : t.ls.history = s.ls.history)
    (h5 : t.ls.gradesSince = s.ls.gradesSince) (i : CapacitiesOk s) : CapacitiesOk t := by
  obtain ⟨a, b, c, d, e, f, g, h, j, k, l⟩ := i
  refine ⟨by rwa [h1], by rwa [h1], by rwa [h1], by rwa [h1], by rwa [h1], by rwa [h1], by rwa [h1], ?_, ?_, by rwa [h4],
    by rwa [h5]⟩
  · intro n
    exact Nat.le_trans (h2 n) (h n)
  · exact Nat.le_trans h3 j

theorem keeps_faults {s t : State} (h1 : t.fu.records = s.fu.records) (h2 : t.fu.exchList = s.fu.exchList)
    (h3 : t.fu.locList = s.fu.locList) (i : FaultsOk s) : FaultsOk t := by
  obtain ⟨a, b, c, d, e⟩ := i
  constructor <;> simp_all [State.fault]

theorem keeps_settings {s t : State} (h1 : t.du.params = s.du.params) (h2 : t.ls.profile = s.ls.profile)
    (h3 : t.ppu.cadences = s.ppu.cadences) (h4 : t.me.table = s.me.table) (i : SettingsOk s) : SettingsOk t := by
  obtain ⟨a, b, c, d, e⟩ := i
  constructor <;> simp_all [State.param, State.rungValid]

theorem keeps_counters {s t : State} (h : t.counters = s.counters) (i : CountersOk s) : CountersOk t := by
  intro c
  simpa [State.counter, h] using i c

theorem keeps_voice {s t : State} (h : t.mdu.slots = s.mdu.slots) (i : VoiceOk s) : VoiceOk t := by
  obtain ⟨a, b⟩ := i
  constructor
  · simpa [State.media, h] using a
  · simpa [State.media, h] using b

theorem SameTracked.keeps {s t : State} (h : SameTracked s t) : Keeps s t :=
  ⟨keeps_caps h.qm (fun n => by rw [h.signals n]) (by rw [h.loopStore]) h.history h.grades,
   keeps_faults h.records h.exch h.loc, keeps_settings h.params h.profile h.cadences h.table,
   keeps_counters h.counters, keeps_voice h.media⟩

variable {s0 s : State}

theorem keeps_onLbu {f : Budget → Budget} (h : Keeps s0 s) : Keeps s0 (onLbu f s) :=
  h.trans (SameTracked.keeps (by constructor <;> intros <;> rfl))

theorem keeps_onTr {f : TestResponder → TestResponder} (h : Keeps s0 s) : Keeps s0 (onTr f s) :=
  h.trans (SameTracked.keeps (by constructor <;> intros <;> rfl))

theorem keeps_onClock {f : Clock → Clock} (h : Keeps s0 s) : Keeps s0 (onClock f s) :=
  h.trans (SameTracked.keeps (by constructor <;> intros <;> rfl))

theorem keeps_onOut {f : Outputs → Outputs} (h : Keeps s0 s) : Keeps s0 (onOut f s) :=
  h.trans (SameTracked.keeps (by constructor <;> intros <;> rfl))

theorem keeps_onPort {p : Port} {f : PortUnit → PortUnit} (h : Keeps s0 s) : Keeps s0 (onPort p f s) :=
  h.trans (SameTracked.keeps (by constructor <;> intros <;> rfl))

theorem keeps_onMediaPort {p : Port} {f : MediaPort → MediaPort} (h : Keeps s0 s) : Keeps s0 (onMediaPort p f s) :=
  h.trans (SameTracked.keeps (by constructor <;> intros <;> rfl))

theorem keeps_onChan {c : Chan} {f : Channel → Channel} (h : Keeps s0 s) : Keeps s0 (onChan c f s) :=
  h.trans (SameTracked.keeps (by constructor <;> intros <;> rfl))

theorem keeps_onLs {f : Supervisor → Supervisor} (h : Keeps s0 s) (h1 : (f s.ls).history = s.ls.history)
    (h2 : (f s.ls).gradesSince = s.ls.gradesSince) (h3 : (f s.ls).profile = s.ls.profile) : Keeps s0 (onLs f s) :=
  h.trans (SameTracked.keeps (by constructor <;> first | (intros; rfl) | assumption))

theorem keeps_onPpu {f : PhoneUnit → PhoneUnit} (h : Keeps s0 s) (h1 : (f s.ppu).cadences = s.ppu.cadences) :
    Keeps s0 (onPpu f s) :=
  h.trans (SameTracked.keeps (by constructor <;> first | (intros; rfl) | assumption))

theorem keeps_onMe {f : MatchEngine → MatchEngine} (h : Keeps s0 s) (h1 : (f s.me).table = s.me.table) :
    Keeps s0 (onMe f s) :=
  h.trans (SameTracked.keeps (by constructor <;> first | (intros; rfl) | assumption))

theorem keeps_onMdu {f : MediaUnit → MediaUnit} (h : Keeps s0 s) (h1 : (f s.mdu).slots = s.mdu.slots) :
    Keeps s0 (onMdu f s) :=
  h.trans (SameTracked.keeps (by constructor <;> first | (intros; rfl) | assumption))

theorem keeps_onFu {f : FaultUnit → FaultUnit} (h : Keeps s0 s) (h1 : (f s.fu).records = s.fu.records)
    (h2 : (f s.fu).exchList = s.fu.exchList) (h3 : (f s.fu).locList = s.fu.locList) : Keeps s0 (onFu f s) :=
  h.trans (SameTracked.keeps (by constructor <;> first | (intros; rfl) | assumption))

theorem keeps_onDu {f : DirectiveUnit → DirectiveUnit} (h : Keeps s0 s) (h1 : (f s.du).params = s.du.params) :
    Keeps s0 (onDu f s) :=
  h.trans (SameTracked.keeps (by constructor <;> first | (intros; rfl) | assumption))

theorem keeps_onCc {f : CallController → CallController} (h : Keeps s0 s) (h1 : (f s.cc).slots = s.cc.slots) :
    Keeps s0 (onCc f s) :=
  h.trans (SameTracked.keeps (by constructor <;> first | (intros; rfl) | (intro n; simp [State.call, h1])))

theorem keeps_onCall {n : Slot} {f : CallSlot → CallSlot} (h : Keeps s0 s)
    (h1 : (f (s.call n)).signals.length ≤ (s.call n).signals.length) : Keeps s0 (onCall n f s) := by
  refine h.trans ⟨?_, keeps_faults rfl rfl rfl, keeps_settings rfl rfl rfl rfl, keeps_counters rfl, keeps_voice rfl⟩
  refine keeps_caps rfl ?_ (Nat.le_refl _) rfl rfl
  intro m
  rw [call_onCall]
  split
  · rename_i e
    subst e
    exact h1
  · exact Nat.le_refl _

/-- A signal joins a queue that holds fewer than eight (R149). -/
theorem keeps_pushSignal {n : Slot} {f : CallSlot → CallSlot} (h : Keeps s0 s)
    (h1 : (f (s.call n)).signals.length ≤ Config.signals) : Keeps s0 (onCall n f s) := by
  refine h.trans ⟨?_, keeps_faults rfl rfl rfl, keeps_settings rfl rfl rfl rfl, keeps_counters rfl, keeps_voice rfl⟩
  rintro ⟨a, b, c, d, e, f', g, hs, j, k, l⟩
  refine ⟨a, b, c, d, e, f', g, ?_, j, k, l⟩
  intro m
  rw [call_onCall]
  split
  · exact h1
  · exact hs m

theorem keeps_onBf {f : Framer → Framer} (h : Keeps s0 s)
    (h1 : (f s.bf).loopStore.length ≤ s.bf.loopStore.length) : Keeps s0 (onBf f s) :=
  h.trans ⟨keeps_caps rfl (fun _ => Nat.le_refl _) h1 rfl rfl, keeps_faults rfl rfl rfl,
    keeps_settings rfl rfl rfl rfl, keeps_counters rfl, keeps_voice rfl⟩

theorem keeps_onMedia {n : Slot} {f : MediaSlot → MediaSlot} (h : Keeps s0 s)
    (h1 : ∀ b, (f (s.media n)).builder = some b →
      b.codes.length ≤ Config.periodSamples ∨ (s.media n).builder = some b)
    (h2 : ∀ d, (f (s.media n)).due = some d → d.length = 84 ∨ (s.media n).due = some d) :
    Keeps s0 (onMedia n f s) := by
  refine h.trans ⟨keeps_caps rfl (fun _ => Nat.le_refl _) (Nat.le_refl _) rfl rfl, keeps_faults rfl rfl rfl,
    keeps_settings rfl rfl rfl rfl, keeps_counters rfl, ?_⟩
  rintro ⟨hb, hd⟩
  constructor
  · intro m b
    rw [media_onMedia]
    split
    · intro e
      rcases h1 b e with k | k
      · exact k
      · exact hb n b k
    · exact hb m b
  · intro m d
    rw [media_onMedia]
    split
    · intro e
      rcases h2 d e with k | k
      · exact k
      · exact hd n d k
    · exact hd m d

theorem keeps_bumpBy {c : Counter} {k : Nat} (h : Keeps s0 s) : Keeps s0 (bumpBy c k s) := by
  refine h.trans ⟨keeps_caps rfl (fun _ => Nat.le_refl _) (Nat.le_refl _) rfl rfl, keeps_faults rfl rfl rfl,
    keeps_settings rfl rfl rfl rfl, ?_, keeps_voice rfl⟩
  intro i d
  rw [counter_bumpBy]
  split
  · exact satAdd_le _ _ _
  · exact i d

theorem keeps_bump {c : Counter} (h : Keeps s0 s) : Keeps s0 (bump c s) := keeps_bumpBy h

theorem keeps_whenever {b : Bool} {f : State → State} (h : Keeps s0 s) (hf : ∀ u, Keeps s0 u → Keeps s0 (f u)) :
    Keeps s0 (whenever b f s) := by
  cases b
  · exact h
  · exact hf _ h

theorem keeps_free (h : Keeps s0 s) : Keeps s0 { s with free := s.free + 1 } :=
  h.trans (SameTracked.keeps (by constructor <;> intros <;> rfl))

/-- The error history replaced by one of at most 60 grades, or kept; the Profile Table kept. -/
theorem keeps_history {f : Supervisor → Supervisor} (h : Keeps s0 s)
    (h1 : (f s.ls).history.length ≤ Config.history ∨ (f s.ls).history = s.ls.history)
    (h2 : (f s.ls).gradesSince ≤ Config.history) (h3 : (f s.ls).profile = s.ls.profile) : Keeps s0 (onLs f s) := by
  refine h.trans ⟨?_, keeps_faults rfl rfl rfl, keeps_settings rfl h3 rfl rfl, keeps_counters rfl, keeps_voice rfl⟩
  rintro ⟨a, b, c, d, e, f', g, hs, j, k, l⟩
  refine ⟨a, b, c, d, e, f', g, hs, j, ?_, h2⟩
  rcases h1 with h1 | h1
  · exact h1
  · rw [onLs_ls, h1]
    exact k

/-- The stored settings replaced, when the new ones lie within their ranges. -/
theorem keeps_store {t : State} (h : Keeps s0 s) (hs : SettingsOk s → SettingsOk t) (h1 : t.qm = s.qm)
    (h2 : t.cc = s.cc) (h3 : t.bf = s.bf) (h4 : t.ls.history = s.ls.history)
    (h5 : t.ls.gradesSince = s.ls.gradesSince) (h6 : t.fu = s.fu) (h7 : t.counters = s.counters)
    (h8 : t.mdu = s.mdu) : Keeps s0 t :=
  h.trans ⟨keeps_caps h1 (fun n => by rw [call_congr h2]) (by rw [h3]) h4 h5,
    keeps_faults (by rw [h6]) (by rw [h6]) (by rw [h6]), hs, keeps_counters h7, keeps_voice (by rw [h8])⟩

/-- An entry of the Match Table replaced by one whose DSCP lies in its range (R81). -/
theorem keeps_matchEntry {i : Fin 32} {e : MatchEntry} (h : Keeps s0 s)
    (h1 : e.dscp ≤ 63 ∨ e.dscp = (vget s.me.table i).dscp) :
    Keeps s0 (onMe (fun m => { m with table := vset m.table i e }) s) := by
  refine keeps_store h ?_ rfl rfl rfl rfl rfl rfl rfl rfl
  rintro ⟨a, b, c, d, g⟩
  refine ⟨a, b, c, d, ?_⟩
  intro j
  simp only [onMe_me, vget_vset]
  split
  · rcases h1 with h1 | h1
    · exact h1
    · rw [h1]
      exact g i
  · exact g j

/-! ## The queues -/

/-- The Queue Manager replaced, when the new one keeps the capacities. -/
theorem keeps_onQm {f : QueueManager → QueueManager} (h : Keeps s0 s)
    (h1 : CapacitiesOk s → CapacitiesOk (onQm f s)) : Keeps s0 (onQm f s) :=
  h.trans ⟨h1, keeps_faults rfl rfl rfl, keeps_settings rfl rfl rfl rfl, keeps_counters rfl, keeps_voice rfl⟩

theorem queueBytes_append (q : List Bytes) (f : Bytes) : queueBytes (q ++ [f]) = queueBytes q + f.length := by
  simp [queueBytes]

theorem queueBytes_tail_le (q : List Bytes) : queueBytes q.tail ≤ queueBytes q := by
  cases q <;> simp [queueBytes]

theorem keeps_priorityTail (h : Keeps s0 s) : Keeps s0 (onQm (fun q => { q with priority := q.priority.tail }) s) := by
  refine keeps_onQm h ?_
  rintro ⟨a, b, c, d, e, f, g, hs, j, k, l⟩
  refine ⟨?_, ?_, c, d, e, f, g, hs, j, k, l⟩
  · simp only [onQm_qm, List.length_tail]
    omega
  · exact Nat.le_trans (queueBytes_tail_le _) b

theorem keeps_bulkTail (h : Keeps s0 s) : Keeps s0 (onQm (fun q => { q with bulk := q.bulk.tail }) s) := by
  refine keeps_onQm h ?_
  rintro ⟨a, b, c, d, e, f, g, hs, j, k, l⟩
  refine ⟨a, b, ?_, ?_, e, f, g, hs, j, k, l⟩
  · simp only [onQm_qm, List.length_tail]
    omega
  · exact Nat.le_trans (queueBytes_tail_le _) d

theorem keeps_repliesTail (h : Keeps s0 s) : Keeps s0 (onQm (fun q => { q with replies := q.replies.tail }) s) := by
  refine keeps_onQm h ?_
  rintro ⟨a, b, c, d, e, f, g, hs, j, k, l⟩
  refine ⟨a, b, c, d, ?_, f, g, hs, j, k, l⟩
  simp only [onQm_qm, List.length_tail]
  omega

theorem keeps_bulkEmpty (h : Keeps s0 s) : Keeps s0 (onQm (fun q => { q with bulk := [] }) s) := by
  refine keeps_onQm h ?_
  rintro ⟨a, b, c, d, e, f, g, hs, j, k, l⟩
  exact ⟨a, b, Nat.zero_le _, Nat.zero_le _, e, f, g, hs, j, k, l⟩

theorem keeps_homeUp (h : Keeps s0 s) : Keeps s0 (onQm (fun q => { q with homeUp := true }) s) := by
  refine keeps_onQm h ?_
  rintro ⟨a, b, c, d, e, f, g, hs, j, k, l⟩
  exact ⟨a, b, c, d, e, f, (fun x => nomatch x), hs, j, k, l⟩

theorem keeps_homeDown (h : Keeps s0 s) : Keeps s0 (onQm (fun q => { q with homeUp := false, fifo := [] }) s) := by
  refine keeps_onQm h ?_
  rintro ⟨a, b, c, d, e, f, g, hs, j, k, l⟩
  exact ⟨a, b, c, d, e, Nat.zero_le _, (fun _ => rfl), hs, j, k, l⟩

/-- A frame put in the FIFO when the FIFO takes it (R90). -/
theorem keeps_pushFifo {kind : FifoKind} {frame : Bytes} (h : Keeps s0 s) (ht : s.fifoTakes frame = true) :
    Keeps s0 (pushFifo kind frame s) := by
  refine keeps_onQm h ?_
  simp only [State.fifoTakes, Bool.and_eq_true, decide_eq_true_eq] at ht
  rintro ⟨a, b, c, d, e, f, g, hs, j, k, l⟩
  refine ⟨a, b, c, d, e, ?_, ?_, hs, j, k, l⟩
  · simpa [QueueManager.fill] using ht.2
  · intro x
    simp [ht.1] at x

/-- A reply put in the exchange reply queue while it holds fewer than four (R89). -/
theorem keeps_pushReply {msg : Bytes} (h : Keeps s0 s) (ht : s.qm.replies.length < Config.replies) :
    Keeps s0 (pushReply msg s) := by
  refine keeps_onQm h ?_
  rintro ⟨a, b, c, d, e, f, g, hs, j, k, l⟩
  refine ⟨a, b, c, d, ?_, f, g, hs, j, k, l⟩
  simpa using ht

end Sys2Proof.Machine
end

