-- ==== Sys2Proof/Laws/Notices.lean ====
section
/-! SUPPORT. The pending notice lists and the fault records: every operation on them keeps them in order. -/

namespace Sys2Proof.Machine

/-! ## The order of a list (R174) -/

theorem before_iff (x y : PendingItem) :
    x.before y = true ↔ y.level < x.level ∨
      (x.level = y.level ∧ (x.entry < y.entry ∨ (x.entry = y.entry ∧ x.kind.number < y.kind.number))) := by
  simp [PendingItem.before]

theorem before_trans {x y z : PendingItem} (h : x.before y = true) (k : y.before z = true) : x.before z = true := by
  rw [before_iff] at *
  omega

theorem number_inj {j k : FaultKind} (h : j.number = k.number) : j = k := by
  revert h
  cases j <;> cases k <;> simp [FaultKind.number, FaultKind.index]

/-- Of two items of different kinds one is before the other. -/
theorem before_total {x y : PendingItem} (h : x.kind ≠ y.kind) (k : ¬ x.before y = true) : y.before x = true := by
  have hn : x.kind.number ≠ y.kind.number := fun e => h (number_inj e)
  rw [before_iff] at *
  omega

theorem insertItem_mem (x i : PendingItem) (l : List PendingItem) : i ∈ insertItem x l ↔ i = x ∨ i ∈ l := by
  induction l with
  | nil => simp [insertItem]
  | cons y ys ih =>
    unfold insertItem
    split
    · simp
    · simp only [List.mem_cons, ih]
      tauto

theorem insertItem_kinds (x : PendingItem) (l : List PendingItem) :
    ((insertItem x l).map PendingItem.kind).Perm (x.kind :: l.map PendingItem.kind) := by
  induction l with
  | nil => simp [insertItem]
  | cons y ys ih =>
    unfold insertItem
    split
    · simp
    · simpa using (ih.cons y.kind).trans (List.Perm.swap _ _ _)

theorem insertItem_ordered (x : PendingItem) (l : List PendingItem) (h : l.Pairwise fun x y => x.before y = true)
    (hk : ∀ i ∈ l, x.kind ≠ i.kind) : (insertItem x l).Pairwise fun x y => x.before y = true := by
  induction l with
  | nil => simp [insertItem]
  | cons y ys ih =>
    rw [List.pairwise_cons] at h
    unfold insertItem
    split
    · rename_i hb
      refine List.pairwise_cons.2 ⟨?_, List.pairwise_cons.2 h⟩
      intro i hi
      rcases List.mem_cons.1 hi with rfl | hi
      · exact hb
      · exact before_trans hb (h.1 i hi)
    · rename_i hb
      refine List.pairwise_cons.2 ⟨?_, ih h.2 (fun i hi => hk i (List.mem_cons_of_mem _ hi))⟩
      intro i hi
      rcases (insertItem_mem x i ys).1 hi with rfl | hi
      · exact before_total (hk y List.mem_cons_self) hb
      · exact h.1 i hi

theorem holdsKind_iff (k : FaultKind) (l : List PendingItem) : holdsKind k l = true ↔ ∃ i ∈ l, i.kind = k := by
  simp [holdsKind]

/-- A new item of a kind that the list does not hold. -/
theorem ListOk.insert {l : List PendingItem} (h : ListOk l) (x : PendingItem) (hk : holdsKind x.kind l = false)
    (h1 : 1 ≤ x.level ∧ x.level ≤ 3) (h2 : 1 ≤ x.repeats ∧ x.repeats ≤ Config.max8) : ListOk (insertItem x l) := by
  have hn : ∀ i ∈ l, x.kind ≠ i.kind := by
    intro i hi e
    have := (holdsKind_iff x.kind l).2 ⟨i, hi, e.symm⟩
    simp [hk] at this
  refine ⟨?_, insertItem_ordered x l h.ordered hn, ?_, ?_⟩
  · rw [(insertItem_kinds x l).nodup_iff, List.nodup_cons]
    refine ⟨?_, h.once⟩
    simp only [List.mem_map, not_exists, not_and]
    intro i hi e
    exact hn i hi e.symm
  · intro i hi
    rcases (insertItem_mem x i l).1 hi with rfl | hi
    · exact h1
    · exact h.levels i hi
  · intro i hi
    rcases (insertItem_mem x i l).1 hi with rfl | hi
    · exact h2
    · exact h.repeats i hi

/-- Items whose repeats alone change, within 1 to 255. -/
theorem ListOk.map {l : List PendingItem} (h : ListOk l) (f : PendingItem → PendingItem)
    (hf : ∀ i, (f i).kind = i.kind ∧ (f i).level = i.level ∧ (f i).entry = i.entry)
    (hr : ∀ i, 1 ≤ i.repeats → i.repeats ≤ Config.max8 → 1 ≤ (f i).repeats ∧ (f i).repeats ≤ Config.max8) :
    ListOk (l.map f) := by
  refine ⟨?_, ?_, ?_, ?_⟩
  · have : (l.map f).map PendingItem.kind = l.map PendingItem.kind := by
      rw [List.map_map]
      exact List.map_congr_left fun i _ => (hf i).1
    rw [this]
    exact h.once
  · rw [List.pairwise_map]
    refine h.ordered.imp ?_
    intro x y hxy
    rw [before_iff] at *
    rw [(hf x).1, (hf x).2.1, (hf x).2.2, (hf y).1, (hf y).2.1, (hf y).2.2]
    exact hxy
  · intro i hi
    obtain ⟨j, hj, rfl⟩ := List.mem_map.1 hi
    rw [(hf j).2.1]
    exact h.levels j hj
  · intro i hi
    obtain ⟨j, hj, rfl⟩ := List.mem_map.1 hi
    exact hr j (h.repeats j hj).1 (h.repeats j hj).2

theorem ListOk.coalesce {l : List PendingItem} (h : ListOk l) (k : FaultKind) :
    ListOk (Sys2Proof.Machine.coalesce k l) := by
  refine h.map _ ?_ ?_
  · intro i
    split <;> simp
  · intro i h1 h2
    split
    · simp only [satAdd]
      omega
    · exact ⟨h1, h2⟩

/-- Some of the items, in the same order. -/
theorem ListOk.sublist {l m : List PendingItem} (h : ListOk l) (hs : m.Sublist l) : ListOk m :=
  ⟨h.once.sublist (hs.map _), h.ordered.sublist hs, fun i hi => h.levels i (hs.subset hi),
   fun i hi => h.repeats i (hs.subset hi)⟩

theorem ListOk.removeKind {l : List PendingItem} (h : ListOk l) (k : FaultKind) :
    ListOk (Sys2Proof.Machine.removeKind k l) := h.sublist List.filter_sublist

theorem ListOk.nil : ListOk [] := by constructor <;> simp

/-- A completed notice takes repeats from its item; the others stay (R176). -/
theorem ListOk.takeRepeats {l : List PendingItem} (h : ListOk l) (k : FaultKind) (c : Nat) :
    ListOk (Sys2Proof.Machine.takeRepeats k c l) := by
  have e : Sys2Proof.Machine.takeRepeats k c l =
      (l.filter fun i => !(i.kind == k && decide (i.repeats ≤ c))).map
        fun i => if i.kind = k ∧ c < i.repeats then { i with repeats := i.repeats - c } else i := by
    clear h
    induction l with
    | nil => rfl
    | cons y ys ih =>
      unfold Sys2Proof.Machine.takeRepeats at *
      by_cases h1 : y.kind = k
      · by_cases h2 : y.repeats ≤ c
        · simp [h1, h2, ih]
        · simp [h1, h2, ih]
      · simp [h1, ih]
  rw [e]
  refine (h.sublist List.filter_sublist).map _ ?_ ?_
  · intro i
    split <;> simp
  · intro i h1 h2
    split
    · simp only
      omega
    · exact ⟨h1, h2⟩

/-! ## Records and lists in the state -/

variable {s0 s : State}

/-- The Fault Unit replaced, when the new one keeps its records and lists in order. -/
theorem keeps_faultUnit {f : FaultUnit → FaultUnit} (h : Keeps s0 s)
    (h1 : FaultsOk s0 → FaultsOk s → FaultsOk (onFu f s)) : Keeps s0 (onFu f s) :=
  ⟨fun i => keeps_caps (s := s) rfl (fun _ => Nat.le_refl _) (Nat.le_refl _) rfl rfl (h.caps i),
   fun i => h1 i (h.faults i),
   fun i => keeps_settings (s := s) rfl rfl rfl rfl (h.settings i), fun i => keeps_counters (s := s) rfl (h.counters i),
   fun i => keeps_voice (s := s) rfl (h.voice i)⟩

/-- A record replaced by one with the same levels, active only for a condition, its count of 16 bits. -/
theorem keeps_setRec {k : FaultKind} {r : FaultRecord} (h : Keeps s0 s)
    (h1 : FaultsOk s → (∀ a, (k.levelRule a).2.1 ≤ r.level a ∧ r.level a ≤ (k.levelRule a).2.2) ∧
      (k.isCondition = false → r.active = false) ∧ r.count ≤ Config.max16) : Keeps s0 (setRec k r s) := by
  refine keeps_faultUnit h ?_
  intro _ i
  obtain ⟨a, b, c⟩ := h1 i
  obtain ⟨d, e, f, g, j⟩ := i
  have hr : ∀ m, (setRec k r s).fault m = if k = m then r else s.fault m := fun m => fault_setRec s k m r
  unfold setRec at hr
  refine ⟨?_, ?_, ?_, g, j⟩
  · intro m x
    rw [hr]
    split
    · rename_i em
      subst em
      exact a x
    · exact d m x
  · intro m
    rw [hr]
    split
    · rename_i em
      subst em
      exact b
    · exact e m
  · intro m
    rw [hr]
    split
    · exact c
    · exact f m

/-- A record that differs from the one held in its last-seen fields, its latches, its count or its end. -/
theorem keeps_setRec_same {k : FaultKind} {r : FaultRecord} (h : Keeps s0 s)
    (h1 : r.locLevel = (s.fault k).locLevel) (h2 : r.exchLevel = (s.fault k).exchLevel)
    (h3 : r.active = true → k.isCondition = true ∨ (s.fault k).active = true)
    (h4 : r.count ≤ Config.max16 ∨ r.count = (s.fault k).count) : Keeps s0 (setRec k r s) := by
  refine keeps_setRec h ?_
  intro i
  refine ⟨?_, ?_, ?_⟩
  · intro a
    have := i.levels k a
    cases a
    · simpa only [FaultRecord.level, h1] using this
    · simpa only [FaultRecord.level, h2] using this
  · intro hc
    cases ha : r.active
    · rfl
    · rcases h3 ha with h | h
      · simp [hc] at h
      · simp [i.events k hc] at h
  · rcases h4 with h | h
    · exact h
    · rw [h]
      exact i.counts k

/-- A pending list replaced by one in order. -/
theorem keeps_onList {a : Authority} {f : List PendingItem → List PendingItem} (h : Keeps s0 s)
    (h1 : FaultsOk s0 → FaultsOk s → ListOk (f (match a with | .loc => s.fu.locList | .exch => s.fu.exchList))) :
    Keeps s0 (onList a f s) := by
  refine keeps_faultUnit h ?_
  intro i0 i
  have k := h1 i0 i
  obtain ⟨d, e, c, g, j⟩ := i
  cases a
  · exact ⟨d, e, c, g, k⟩
  · exact ⟨d, e, c, k, j⟩

theorem assertWake_keeps (h : Keeps s0 s) : Keeps s0 (assertWake s) := by
  unfold assertWake
  split
  · exact h
  · exact keeps_bump (keeps_onMe h rfl)

theorem drainLocal_keeps (n : Nat) (h : Keeps s0 s) : Keeps s0 (drainLocal n s) := by
  induction n generalizing s with
  | zero => exact h
  | succ n ih =>
    unfold drainLocal
    split
    · split
      · exact h
      · rename_i i rest hl
        simp only []
        split
        · rename_i ht
          refine ih (keeps_bump (keeps_onList (keeps_pushFifo h ht) ?_))
          intro _ k
          have := k.loc
          simp only [pushFifo, onQm_fu, hl] at this
          exact this.sublist (List.sublist_cons_self _ _)
        · exact keeps_bump h
    · exact h

theorem offerLocal_keeps (h : Keeps s0 s) : Keeps s0 (offerLocal s) := drainLocal_keeps _ h

theorem enterExch_keeps (k : FaultKind) (level : Nat) (h : Keeps s0 s)
    (hl : FaultsOk s0 → 1 ≤ level ∧ level ≤ 3) : Keeps s0 (enterExch k level s) := by
  unfold enterExch
  split
  · exact keeps_bump (keeps_onList h fun _ i => i.exch.coalesce k)
  · rename_i hk
    refine keeps_bump (keeps_onList h fun i0 i => i.exch.insert _ (by simpa [State.newItem] using hk) (hl i0) ?_)
    simp [State.newItem]

theorem enterLoc_keeps (k : FaultKind) (level : Nat) (h : Keeps s0 s)
    (hl : FaultsOk s0 → 1 ≤ level ∧ level ≤ 3) : Keeps s0 (enterLoc k level s) := by
  unfold enterLoc
  split
  · exact offerLocal_keeps (keeps_bump (keeps_onList h fun _ i => i.loc.coalesce k))
  · rename_i hk
    refine offerLocal_keeps (keeps_whenever (keeps_bump (keeps_onList h fun i0 i =>
      i.loc.insert _ (by simpa [State.newItem] using hk) (hl i0) ?_)) fun u hu => assertWake_keeps hu)
    simp [State.newItem]

/-- An occurrence keeps every invariant: its items enter at the levels the records hold. -/
theorem occurrence_keeps (k : FaultKind) (d : Nat) (h : Keeps s0 s) : Keeps s0 (occurrence k d s) := by
  unfold occurrence
  split
  · exact h
  · have hl : ∀ a, FaultsOk s0 → (s.fault k).level a ≤ 3 := by
      intro a i
      refine Nat.le_trans ((h.faults i).levels k a).2 ?_
      cases a <;> cases k <;> decide
    simp only []
    have base : Keeps s0 (bump Ctr.occurrences
        (setRec k ((s.fault k).occurred k.isCondition s.fu.uptime d) s)) :=
      keeps_bump (keeps_setRec_same h rfl rfl (fun x => .inl x) (.inl (satAdd_le _ _ _)))
    have step : Keeps s0 (whenever (1 ≤ (s.fault k).exchLevel) (enterExch k (s.fault k).exchLevel)
        (bump Ctr.occurrences (setRec k ((s.fault k).occurred k.isCondition s.fu.uptime d) s))) := by
      by_cases hx : 1 ≤ (s.fault k).exchLevel
      · simp only [hx, decide_true, whenever_true]
        exact enterExch_keeps _ _ base fun i => ⟨hx, hl .exch i⟩
      · simpa [hx] using base
    by_cases hx : 1 ≤ (s.fault k).locLevel
    · simp only [hx, decide_true, whenever_true]
      exact enterLoc_keeps _ _ step fun i => ⟨hx, hl .loc i⟩
    · simpa [hx] using step

theorem endCondition_keeps (k : FaultKind) (h : Keeps s0 s) : Keeps s0 (endCondition k s) :=
  keeps_setRec_same h rfl rfl (fun x => nomatch x) (.inr rfl)

theorem noticeDone_keeps (k : FaultKind) (c : Nat) (h : Keeps s0 s) : Keeps s0 (noticeDone k c s) :=
  keeps_bump (keeps_onList h fun _ i => i.exch.takeRepeats k c)

end Sys2Proof.Machine
end

