-- ==== Sys2Proof/Laws/KeepsA.lean ====
section
/-! SUPPORT. Each operation of Machine/Ops.lean to Machine/Phone.lean keeps the invariants of Laws/Keeps.lean. One lemma per operation. -/

namespace Sys2Proof.Machine

variable {s0 s : State}

theorem sendXcvr_keeps (m : XcvrMsg) (h : Keeps s0 s) : Keeps s0 (sendXcvr m s) := by
  unfold sendXcvr
  repeat' first
    | with_reducible assumption | with_reducible apply keeps_onOut

theorem sendBlock_keeps (b : Bytes) (h : Keeps s0 s) : Keeps s0 (sendBlock b s) := by
  unfold sendBlock
  repeat' first
    | with_reducible assumption | with_reducible apply keeps_onOut

theorem sendHome_keeps (f : Bytes) (h : Keeps s0 s) : Keeps s0 (sendHome f s) := by
  unfold sendHome
  repeat' first
    | with_reducible assumption | with_reducible apply keeps_onOut

theorem offerFifo_keeps (kind : FifoKind) (frame : Bytes) (h : Keeps s0 s) :
    Keeps s0 (offerFifo kind frame s) := by
  unfold offerFifo
  split
  · rename_i ht
    exact keeps_pushFifo h ht
  · exact keeps_bump h

/-- A change that keeps the invariants at every element of a list keeps them along the list. -/
theorem keeps_foldl {α : Type} (l : List α) (f : State → α → State) (h : Keeps s0 s)
    (hf : ∀ u x, Keeps s0 u → Keeps s0 (f u x)) : Keeps s0 (l.foldl f s) := by
  induction l generalizing s with
  | nil => exact h
  | cons x l ih => exact ih (hf s x h)

theorem emitOn_keeps (c : Chan) (kind : BlockKind) (urgent : Bool) (used : Nat) (frameNo : Byte) (payload : Bytes)
    (h : Keeps s0 s) : Keeps s0 (emitOn c kind urgent used frameNo payload s) := by
  unfold emitOn sendBlock
  exact keeps_bump (keeps_onChan (keeps_onOut h))

theorem emitFill_keeps (h : Keeps s0 s) : Keeps s0 (emitFill s) := by
  unfold emitFill
  repeat' first
    | with_reducible assumption | with_reducible apply keeps_bump | with_reducible apply sendBlock_keeps

theorem frameLeft_keeps (c : Chan) (source : Source) (h : Keeps s0 s) : Keeps s0 (frameLeft c source s) := by
  have hb : Keeps s0 (bump (Ctr.framesSent c) s) := keeps_bump h
  unfold frameLeft
  cases source <;> dsimp only
  · exact keeps_onCall hb (Nat.le_refl _)
  · exact keeps_onCall hb (by simp)
  · exact keeps_priorityTail hb
  · exact keeps_bulkTail hb
  · exact keeps_repliesTail hb
  · exact noticeDone_keeps _ _ hb
  · exact keeps_onTr hb

theorem emitNext_keeps (c : Chan) (sd : Sending) (h : Keeps s0 s) : Keeps s0 (emitNext c sd s) := by
  unfold emitNext
  (repeat' split) <;> (repeat' first
    | with_reducible assumption | with_reducible apply keeps_onChan | with_reducible apply emitOn_keeps
    | with_reducible apply frameLeft_keeps)

theorem startFrame_keeps (c : Chan) (source : Source) (bytes : Bytes) (h : Keeps s0 s) : Keeps s0 (startFrame c source bytes s) := by
  unfold startFrame
  repeat' first
    | with_reducible assumption | with_reducible apply keeps_onChan | with_reducible apply emitNext_keeps

theorem dropSeg_keeps (c : Chan) (h : Keeps s0 s) : Keeps s0 (dropSeg c s) := by
  unfold dropSeg
  repeat' first
    | with_reducible assumption | with_reducible apply keeps_onChan

theorem cutShort_keeps (c : Chan) (removed : Source → Bool) (h : Keeps s0 s) : Keeps s0 (cutShort c removed s) := by
  unfold cutShort
  (repeat' split) <;> (repeat' first
    | with_reducible assumption | with_reducible apply keeps_bump | with_reducible apply dropSeg_keeps)

theorem reportLoss_keeps (c : Chan) (cause : LossCause) (h : Keeps s0 s) : Keeps s0 (reportLoss c cause s) := by
  unfold reportLoss
  repeat' first
    | with_reducible assumption | with_reducible apply occurrence_keeps

theorem abandon_keeps (c : Chan) (cause : LossCause) (h : Keeps s0 s) : Keeps s0 (abandon c cause s) := by
  unfold abandon
  (repeat' split) <;> (repeat' first
    | with_reducible assumption | with_reducible apply keeps_onChan | with_reducible apply keeps_bump
    | with_reducible apply reportLoss_keeps)

theorem abandonAll_keeps (h : Keeps s0 s) : Keeps s0 (abandonAll s) :=
  keeps_foldl _ _ h fun _ _ hu => abandon_keeps _ _ hu

theorem dropAllSegs_keeps (h : Keeps s0 s) : Keeps s0 (dropAllSegs s) :=
  keeps_foldl _ _ h fun _ _ hu => dropSeg_keeps _ hu

theorem unsetExpected_keeps (h : Keeps s0 s) : Keeps s0 (unsetExpected s) :=
  keeps_foldl _ _ h fun _ _ hu => keeps_onChan hu

theorem endLoopback_keeps (h : Keeps s0 s) : Keeps s0 (endLoopback s) := by
  unfold endLoopback
  split
  · exact keeps_onBf (keeps_bumpBy (keeps_onLs h rfl rfl rfl)) (Nat.zero_le _)
  · exact h

theorem storeLooped_keeps (b : Looped) (h : Keeps s0 s) : Keeps s0 (storeLooped b s) := by
  unfold storeLooped
  split
  · rename_i hl
    refine h.trans ⟨?_, keeps_faults rfl rfl rfl, keeps_settings rfl rfl rfl rfl, keeps_counters rfl, keeps_voice rfl⟩
    rintro ⟨a, b, c, d, e, f, g, hs, j, k, l⟩
    refine ⟨a, b, c, d, e, f, g, hs, ?_, k, l⟩
    simpa using hl
  · exact keeps_bump h

theorem sendLooped_keeps (c : Chan) {t : State} (h : Keeps s0 s) (ht : sendLooped c s = some t) : Keeps s0 t := by
  unfold sendLooped at ht
  split at ht
  · rename_i b rest hl
    cases ht
    refine keeps_bump (emitOn_keeps _ _ _ _ _ _ (keeps_onBf h ?_))
    simp [hl]
  · cases ht

theorem copyFloor_keeps (h : Keeps s0 s) : Keeps s0 (copyFloor s) := by
  unfold copyFloor
  repeat' first
    | with_reducible assumption | with_reducible apply keeps_onLbu

theorem stageBudget_keeps (rate : Nat) (size : BlockSize) (eff : Nat) (h : Keeps s0 s) : Keeps s0 (stageBudget rate size eff s) := by
  unfold stageBudget
  repeat' first
    | with_reducible assumption | with_reducible apply keeps_onLbu | with_reducible apply copyFloor_keeps

theorem countAdmission_keeps (granted : Bool) (h : Keeps s0 s) : Keeps s0 (countAdmission granted s) := by
  unfold countAdmission
  repeat' first
    | with_reducible assumption | with_reducible apply keeps_bump

theorem refuseAdmission_keeps (needs : Nat) (h : Keeps s0 s) : Keeps s0 (refuseAdmission needs s) := by
  unfold refuseAdmission
  repeat' first
    | with_reducible assumption | with_reducible apply occurrence_keeps

theorem floorCheck_keeps (h : Keeps s0 s) : Keeps s0 (floorCheck s) := by
  unfold floorCheck
  (repeat' split) <;> (repeat' first
    | with_reducible assumption | with_reducible apply keeps_onLbu)

theorem floorWritten_keeps (d : Nat) (h : Keeps s0 s) : Keeps s0 (floorWritten d s) := by
  unfold floorWritten
  (repeat' split) <;> (repeat' first
    | with_reducible assumption | with_reducible apply keeps_onLbu)

theorem change_builder (u : MediaSlot) (m : MediaState) (b : Builder) (h : (u.change m).builder = some b) :
    u.builder = some b := by
  unfold MediaSlot.change at h
  split at h <;> first | exact h | simp [MediaSlot.begin, MediaSlot.pause, MediaSlot.finish, MediaSlot.refill] at h

theorem change_due (u : MediaSlot) (m : MediaState) (d : Bytes) (h : (u.change m).due = some d) :
    u.due = some d := by
  unfold MediaSlot.change at h
  split at h <;> first | exact h | simp [MediaSlot.begin, MediaSlot.pause, MediaSlot.finish, MediaSlot.refill] at h

theorem setMedia_keeps (n : Slot) (m : MediaState) (h : Keeps s0 s) : Keeps s0 (setMedia n m s) := by
  unfold setMedia
  refine keeps_whenever (keeps_onMedia h ?_ ?_) (fun u hu => keeps_bump hu)
  · exact fun b k => .inr (change_builder _ _ _ k)
  · exact fun b k => .inr (change_due _ _ _ k)

theorem followCall_keeps (n : Slot) (h : Keeps s0 s) : Keeps s0 (followCall n s) := by
  unfold followCall
  repeat' first
    | with_reducible assumption | with_reducible apply setMedia_keeps

theorem addClip_keeps (h : Keeps s0 s) : Keeps s0 (addClip s) := keeps_onMdu h rfl

theorem saturated_keeps (v : Int) (h : Keeps s0 s) : Keeps s0 (saturated v s).1 :=
  keeps_whenever h fun _ hu => addClip_keeps hu

@[simp] theorem saturated_media (v : Int) (s : State) (n : Slot) : (saturated v s).1.media n = s.media n := by
  unfold saturated whenever addClip
  split <;> rfl

theorem dcBlock_keeps (p : Port) (x : Int) (h : Keeps s0 s) : Keeps s0 (dcBlock p x s) := by
  unfold dcBlock
  (repeat' split) <;> (repeat' first
    | with_reducible assumption | with_reducible apply keeps_onMediaPort | with_reducible apply saturated_keeps)

theorem uplinkSample_keeps (n : Slot) (h : Keeps s0 s) : Keeps s0 (uplinkSample n s) := by
  unfold uplinkSample
  split
  · split
    · rename_i b hb hl
      refine keeps_onMedia (saturated_keeps _ h) ?_ (fun _ k => .inr k)
      intro c hc
      cases hc
      refine .inl ?_
      simp only [List.length_append, List.length_singleton]
      omega
    · exact h
  · exact h

theorem voiceFrame_length (resume silent : Bool) (seq : Half) (codes : Bytes) :
    (voiceFrame resume silent seq codes).length = 4 + codes.length := by
  simp only [voiceFrame, be16, List.length_append, List.length_cons, List.length_nil]

theorem closeFrame_keeps (n : Slot) (h : Keeps s0 s) : Keeps s0 (closeFrame n s) := by
  unfold closeFrame
  split
  · split
    · rename_i b hb hl
      refine keeps_bump (keeps_onMedia h (fun _ k => nomatch k) ?_)
      intro d hd
      cases hd
      refine .inl ?_
      rw [voiceFrame_length]
      split
      · simp [Config.periodSamples]
      · simp only [hl, Config.periodSamples]
    · exact h
  · exact h

theorem playArrival_keeps (n : Slot) (resume : Bool) (f : RingFrame) (h : Keeps s0 s) :
    Keeps s0 (playArrival n resume f s) := by
  have hr : ∀ v : State, Keeps s0 v → Keeps s0 (onMedia n (fun u => u.restart f) v) := fun v hv =>
    keeps_onMedia hv (fun _ k => .inr k) (fun _ k => .inr k)
  unfold playArrival
  split
  · exact keeps_bump (hr s h)
  · split
    · exact keeps_onMedia h (fun _ k => .inr k) (fun _ k => .inr k)
    · dsimp only
      split
      · split
        · exact keeps_bump h
        · exact keeps_onMedia h (fun _ k => .inr k) (fun _ k => .inr k)
      · split
        · exact keeps_bump (hr s h)
        · exact keeps_bump h

theorem mediaArrives_keeps (n : Slot) (frame : Bytes) (h : Keeps s0 s) : Keeps s0 (mediaArrives n frame s) := by
  unfold mediaArrives
  split
  · exact keeps_bump h
  · split
    · exact keeps_bump h
    · exact keeps_onCall (playArrival_keeps _ _ _ h) (Nat.le_refl _)

theorem playFrom_same (u : MediaSlot) (b : Half) :
    (u.playFrom b).1.builder = u.builder ∧ (u.playFrom b).1.due = u.due := by
  have hm : (u.playMiss b).builder = u.builder ∧ (u.playMiss b).due = u.due := by
    unfold MediaSlot.playMiss
    dsimp only
    split <;> simp [MediaSlot.refill]
  unfold MediaSlot.playFrom
  split
  · split
    · simp [MediaSlot.playFrame]
    · exact hm
  · exact hm

theorem playPeriod_same (u : MediaSlot) (target : Nat) :
    (u.playPeriod target).1.builder = u.builder ∧ (u.playPeriod target).1.due = u.due := by
  unfold MediaSlot.playPeriod
  split
  · exact playFrom_same u _
  · dsimp only
    split
    · exact playFrom_same _ _
    · exact ⟨rfl, rfl⟩
  · exact ⟨rfl, rfl⟩

theorem mediaPeriod_keeps (n : Slot) (h : Keeps s0 s) : Keeps s0 (mediaPeriod n s) := by
  have hp := playPeriod_same (s.media n) (s.param .playoutTarget)
  unfold mediaPeriod
  refine keeps_whenever (keeps_onMedia h ?_ ?_) (fun u hu => keeps_onMdu hu rfl)
  · intro b hb
    unfold MediaSlot.beginFrame at hb
    split at hb
    · cases hb
      exact .inl (Nat.zero_le _)
    · exact .inr (hp.1 ▸ hb)
  · intro d hd
    unfold MediaSlot.beginFrame at hd
    split at hd <;> exact .inr (hp.2 ▸ hd)

theorem playTone_keeps (p : Port) (kind : ToneKind) (h : Keeps s0 s) : Keeps s0 (playTone p kind s).1 := by
  unfold playTone
  (repeat' split) <;> (repeat' first
    | with_reducible assumption | with_reducible apply keeps_onMediaPort)

theorem playCall_keeps (p : Port) (n : Slot) (h : Keeps s0 s) : Keeps s0 (playCall p n s).1 := by
  unfold playCall
  (repeat' split) <;> (repeat' first
    | with_reducible assumption | with_reducible apply saturated_keeps)

theorem playEcho_keeps (p : Port) (t : PortTest) (h : Keeps s0 s) : Keeps s0 (playEcho p t s).1 := by
  unfold playEcho
  (repeat' split) <;> (repeat' first
    | with_reducible assumption | with_reducible apply keeps_onTr | with_reducible apply saturated_keeps)

theorem outputSample_keeps (p : Port) (h : Keeps s0 s) : Keeps s0 (outputSample p s).1 := by
  unfold outputSample
  (repeat' split) <;> (repeat' first
    | with_reducible assumption | with_reducible apply playTone_keeps | with_reducible apply playCall_keeps
    | with_reducible apply playEcho_keeps)

theorem giveSample_keeps (p : Port) (h : Keeps s0 s) : Keeps s0 (giveSample p s) := by
  unfold giveSample
  repeat' first
    | with_reducible assumption | with_reducible apply keeps_onOut | with_reducible apply outputSample_keeps

theorem sampleInstant_keeps (a b : Int) (pins : Pins) (h : Keeps s0 s) : Keeps s0 (sampleInstant a b pins s) := by
  unfold sampleInstant
  repeat' first
    | with_reducible assumption | with_reducible apply keeps_onClock | with_reducible apply dcBlock_keeps
    | with_reducible apply uplinkSample_keeps | with_reducible apply giveSample_keeps

theorem keepThreshold_keeps (k : FaultKind) (count threshold : Nat) (h : Keeps s0 s) : Keeps s0 (keepThreshold k count threshold s) := by
  unfold keepThreshold
  (repeat' split) <;> (repeat' first
    | with_reducible assumption | with_reducible apply occurrence_keeps | with_reducible apply endCondition_keeps)

theorem mediaSecond_keeps (h : Keeps s0 s) : Keeps s0 (mediaSecond s) := by
  unfold mediaSecond
  dsimp only
  (repeat' split) <;> (repeat' first
    | with_reducible assumption | with_reducible apply keeps_onMdu | with_reducible apply keeps_bumpBy
    | with_reducible apply keepThreshold_keeps | with_reducible rfl)

theorem sendHalt_keeps (h : Keeps s0 s) : Keeps s0 (sendHalt s) := by
  unfold sendHalt
  repeat' first
    | with_reducible assumption | with_reducible apply sendXcvr_keeps

theorem sendTrain_keeps (i : Fin 8) (h : Keeps s0 s) : Keeps s0 (sendTrain i s) := by
  unfold sendTrain
  repeat' first
    | with_reducible assumption | with_reducible apply keeps_onLs | with_reducible apply keeps_bump
    | with_reducible apply sendXcvr_keeps | with_reducible rfl

theorem enterLink_keeps (new : LinkState) (h : Keeps s0 s) : Keeps s0 (enterLink new s) := by
  unfold enterLink
  repeat' first
    | with_reducible assumption | intro u hu | with_reducible apply keeps_onLs
    | with_reducible apply keeps_whenever | with_reducible apply occurrence_keeps | with_reducible rfl

theorem dropClaim_keeps (h : Keeps s0 s) : Keeps s0 (dropClaim s) := by
  unfold dropClaim
  (repeat' split) <;> (repeat' first
    | with_reducible assumption | with_reducible apply keeps_onLbu | with_reducible apply keeps_bump)

theorem leaveCarrying_keeps (h : Keeps s0 s) : Keeps s0 (leaveCarrying s) := by
  unfold leaveCarrying
  repeat' first
    | with_reducible assumption | with_reducible apply keeps_onLs | with_reducible apply endCondition_keeps
    | with_reducible apply abandonAll_keeps | with_reducible apply dropAllSegs_keeps
    | with_reducible apply endLoopback_keeps | with_reducible apply dropClaim_keeps | with_reducible rfl

theorem stepUpTo_keeps (i : Fin 8) (h : Keeps s0 s) : Keeps s0 (stepUpTo i s) := by
  unfold stepUpTo
  repeat' first
    | with_reducible assumption | with_reducible apply keeps_bump | with_reducible apply sendHalt_keeps
    | with_reducible apply sendTrain_keeps | with_reducible apply enterLink_keeps
    | with_reducible apply leaveCarrying_keeps

theorem lastSlotFree_keeps (h : Keeps s0 s) : Keeps s0 (lastSlotFree s) := by
  unfold lastSlotFree
  (repeat' split) <;> (repeat' first
    | with_reducible assumption | with_reducible apply keeps_onLs | with_reducible apply enterLink_keeps
    | with_reducible apply stepUpTo_keeps | with_reducible rfl)

theorem enterPort_keeps (p : Port) (new : PortState) (h : Keeps s0 s) : Keeps s0 (enterPort p new s) := by
  unfold enterPort
  repeat' first
    | with_reducible assumption | intro u hu | with_reducible apply keeps_onPort
    | with_reducible apply keeps_onMediaPort | with_reducible apply keeps_whenever

theorem quieten_keeps (p : Port) (h : Keeps s0 s) : Keeps s0 (quieten p s) := by
  unfold quieten
  repeat' first
    | with_reducible assumption | with_reducible apply keeps_onPort

theorem loadChannel_keeps (p : Port) (c : CadenceChannel) (h : Keeps s0 s) : Keeps s0 (loadChannel p c s) := by
  unfold loadChannel
  repeat' first
    | with_reducible assumption | with_reducible apply keeps_onPort

theorem stopChannel_keeps (p : Port) (h : Keeps s0 s) : Keeps s0 (stopChannel p s) := by
  unfold stopChannel
  repeat' first
    | with_reducible assumption | with_reducible apply keeps_onPort

theorem startRing_keeps (p : Port) (cad : Fin 8) (h : Keeps s0 s) : Keeps s0 (startRing p cad s) := by
  unfold startRing
  (repeat' split) <;> (repeat' first
    | with_reducible assumption | with_reducible apply loadChannel_keeps | with_reducible apply stopChannel_keeps)

theorem toneSegment_keeps (p : Port) (k : ToneKind) (on : Bool) (h : Keeps s0 s) : Keeps s0 (toneSegment p k on s) := by
  unfold toneSegment
  repeat' first
    | with_reducible assumption | intro u hu | with_reducible apply keeps_onMediaPort
    | with_reducible apply keeps_whenever | with_reducible apply loadChannel_keeps

theorem startTone_keeps (p : Port) (k : ToneKind) (h : Keeps s0 s) : Keeps s0 (startTone p k s) := by
  unfold startTone
  repeat' first
    | with_reducible assumption | with_reducible apply keeps_onPort | with_reducible apply toneSegment_keeps

theorem startPark_keeps (p : Port) (h : Keeps s0 s) : Keeps s0 (startPark p s) := by
  unfold startPark
  repeat' first
    | with_reducible assumption | with_reducible apply keeps_onPort

theorem toReleased_keeps (p : Port) (h : Keeps s0 s) : Keeps s0 (toReleased p s) := by
  unfold toReleased
  repeat' first
    | with_reducible assumption | with_reducible apply enterPort_keeps | with_reducible apply startTone_keeps
    | with_reducible apply startPark_keeps

theorem toLocalTone_keeps (p : Port) (k : ToneKind) (h : Keeps s0 s) : Keeps s0 (toLocalTone p k s) := by
  unfold toLocalTone
  repeat' first
    | with_reducible assumption | with_reducible apply enterPort_keeps | with_reducible apply startTone_keeps
    | with_reducible apply startPark_keeps

theorem toIdle_keeps (p : Port) (h : Keeps s0 s) : Keeps s0 (toIdle p s) := by
  unfold toIdle
  repeat' first
    | with_reducible assumption | with_reducible apply enterPort_keeps | with_reducible apply quieten_keeps

theorem toParked_keeps (p : Port) (h : Keeps s0 s) : Keeps s0 (toParked p s) := by
  unfold toParked
  repeat' first
    | with_reducible assumption | intro u hu | with_reducible apply keeps_bump
    | with_reducible apply keeps_whenever | with_reducible apply occurrence_keeps
    | with_reducible apply enterPort_keeps | with_reducible apply quieten_keeps

theorem leftParked_keeps (h : Keeps s0 s) : Keeps s0 (leftParked s) := by
  unfold leftParked
  (repeat' split) <;> (repeat' first
    | with_reducible assumption | with_reducible apply endCondition_keeps)

theorem unpair_keeps (p : Port) (h : Keeps s0 s) : Keeps s0 (unpair p s) := by
  unfold unpair
  (repeat' split) <;> (repeat' first
    | with_reducible assumption | intro u hu | with_reducible apply keeps_onPpu
    | with_reducible apply keeps_whenever | with_reducible apply startRing_keeps | with_reducible rfl)

theorem endRinging_keeps (p : Port) (h : Keeps s0 s) : Keeps s0 (endRinging p s) := by
  unfold endRinging
  repeat' first
    | with_reducible assumption | with_reducible apply stopChannel_keeps | with_reducible apply unpair_keeps

theorem stopRinging_keeps (p : Port) (h : Keeps s0 s) : Keeps s0 (stopRinging p s) := by
  unfold stopRinging
  (repeat' split) <;> (repeat' first
    | with_reducible assumption | with_reducible apply toIdle_keeps | with_reducible apply unpair_keeps)

theorem ringOne_keeps (p : Port) (h : Keeps s0 s) : Keeps s0 (ringOne p s) := by
  unfold ringOne
  (repeat' split) <;> (repeat' first
    | with_reducible assumption | with_reducible apply keeps_bump | with_reducible apply occurrence_keeps
    | with_reducible apply enterPort_keeps)

theorem startRings_keeps (cad : Fin 8) (group : Bool) (rung : PortSet) (h : Keeps s0 s) : Keeps s0 (startRings cad group rung s) := by
  unfold startRings
  (repeat' split) <;> (repeat' first
    | with_reducible assumption | intro u hu | with_reducible apply keeps_onPpu
    | with_reducible apply keeps_whenever | with_reducible apply startRing_keeps | with_reducible rfl)

theorem ringPorts_keeps (ports : PortSet) (cad : Fin 8) (group : Bool) (h : Keeps s0 s) : Keeps s0 (ringPorts ports cad group s).1 := by
  unfold ringPorts
  repeat' first
    | with_reducible assumption | intro u hu | with_reducible apply keeps_whenever
    | with_reducible apply ringOne_keeps | with_reducible apply startRings_keeps

theorem segmentEnd_keeps (p : Port) (h : Keeps s0 s) : Keeps s0 (segmentEnd p s) := by
  unfold segmentEnd
  dsimp only
  (repeat' split) <;> (repeat' first
    | with_reducible assumption | with_reducible apply keeps_onPpu | with_reducible apply loadChannel_keeps
    | with_reducible apply stopChannel_keeps | with_reducible apply startRing_keeps
    | with_reducible apply toneSegment_keeps | with_reducible rfl)

end Sys2Proof.Machine
end

