-- ==== Sys2Proof/Laws/KeepsB.lean ====
section
/-! SUPPORT. Each operation of Machine/Calls.lean to Machine/Resets.lean keeps the invariants of Laws/Keeps.lean. One lemma per operation. -/

namespace Sys2Proof.Machine

variable {s0 s : State}

theorem queueSignal_keeps (n : Slot) (g : Signal) (h : Keeps s0 s) : Keeps s0 (queueSignal n g s) := by
  unfold queueSignal
  split
  · rename_i hl
    refine keeps_pushSignal h ?_
    simpa using hl
  · exact keeps_bump h

theorem frontSignal_keeps (n : Slot) (g : Signal) (h : Keeps s0 s) : Keeps s0 (frontSignal n g s) := by
  unfold frontSignal
  refine keeps_whenever (keeps_pushSignal h ?_) (fun u hu => keeps_bump hu)
  dsimp only
  split
  · simp
  · rename_i hf
    simp only [not_le] at hf
    simpa using hf

theorem occupy_keeps (n : Slot) (st : SlotState) (dir : CallDir) (h : Keeps s0 s) : Keeps s0 (occupy n st dir s) := by
  unfold occupy
  repeat' first
    | with_reducible assumption | with_reducible apply keeps_onCc | with_reducible apply keeps_onCall
    | with_reducible apply countAdmission_keeps | with_reducible rfl | exact Nat.le_refl _

theorem freeSlot_keeps (n : Slot) (cause : Cause) (h : Keeps s0 s) : Keeps s0 (freeSlot n cause s) := by
  unfold freeSlot
  repeat' first
    | with_reducible assumption | with_reducible apply keeps_onCall | with_reducible apply floorCheck_keeps
    | with_reducible apply followCall_keeps | exact Nat.le_refl _

theorem reportIfIdle_keeps (h : Keeps s0 s) : Keeps s0 (reportIfIdle s) := by
  unfold reportIfIdle
  (repeat' split) <;> (repeat' first
    | with_reducible assumption | with_reducible apply lastSlotFree_keeps)

theorem attach_keeps (p : Port) (n : Slot) (h : Keeps s0 s) : Keeps s0 (attach p n s) := by
  unfold attach
  repeat' first
    | with_reducible assumption | with_reducible apply keeps_onCall | with_reducible apply enterPort_keeps
    | exact Nat.le_refl _

theorem join_keeps (p : Port) (n : Slot) (h : Keeps s0 s) : Keeps s0 (join p n s) := by
  unfold join
  repeat' first
    | with_reducible assumption | with_reducible apply keeps_bump | with_reducible apply attach_keeps

theorem originate_keeps (p : Port) (n : Slot) (h : Keeps s0 s) : Keeps s0 (originate p n s) := by
  unfold originate
  repeat' first
    | with_reducible assumption | with_reducible apply keeps_bump | with_reducible apply followCall_keeps
    | with_reducible apply queueSignal_keeps | with_reducible apply occupy_keeps | with_reducible apply attach_keeps

theorem refuseOff_keeps (p : Port) (h : Keeps s0 s) : Keeps s0 (refuseOff p s) := by
  unfold refuseOff
  repeat' first
    | with_reducible assumption | with_reducible apply keeps_bump | with_reducible apply countAdmission_keeps
    | with_reducible apply refuseAdmission_keeps | with_reducible apply toLocalTone_keeps

theorem offHook_keeps (p : Port) (h : Keeps s0 s) : Keeps s0 (offHook p s) := by
  unfold offHook
  dsimp only
  (repeat' split) <;> (repeat' first
    | with_reducible assumption | with_reducible apply keeps_bump | with_reducible apply toLocalTone_keeps
    | with_reducible apply join_keeps | with_reducible apply originate_keeps | with_reducible apply refuseOff_keeps)

theorem takeIfLifted_keeps (p : Port) (h : Keeps s0 s) : Keeps s0 (takeIfLifted p s) := by
  unfold takeIfLifted
  (repeat' split) <;> (repeat' first
    | with_reducible assumption | with_reducible apply offHook_keeps)

theorem takeLifted_keeps (ports : PortSet) (h : Keeps s0 s) : Keeps s0 (takeLifted ports s) := by
  unfold takeLifted
  repeat' first
    | with_reducible assumption | intro u hu | with_reducible apply keeps_whenever
    | with_reducible apply takeIfLifted_keeps

theorem stopAll_keeps (ports : PortSet) (h : Keeps s0 s) : Keeps s0 (stopAll ports s) := by
  unfold stopAll
  repeat' first
    | with_reducible assumption | intro u hu | with_reducible apply keeps_whenever
    | with_reducible apply stopRinging_keeps

theorem releaseAll_keeps (ports : PortSet) (h : Keeps s0 s) : Keeps s0 (releaseAll ports s) := by
  unfold releaseAll
  repeat' first
    | with_reducible assumption | intro u hu | with_reducible apply keeps_whenever
    | with_reducible apply toReleased_keeps

theorem refuseAlert_keeps (n : Slot) (cause : Cause) (h : Keeps s0 s) : Keeps s0 (refuseAlert n cause s) := by
  unfold refuseAlert
  repeat' first
    | with_reducible assumption | with_reducible apply keeps_bump | with_reducible apply queueSignal_keeps

theorem alertRings_keeps (n : Slot) (ports : PortSet) (cad : Fin 8) (group : Bool) (h : Keeps s0 s) : Keeps s0 (alertRings n ports cad group s) := by
  unfold alertRings
  dsimp only
  (repeat' split) <;> (repeat' first
    | with_reducible assumption | with_reducible apply keeps_onCall | with_reducible apply keeps_bump
    | with_reducible apply followCall_keeps | with_reducible apply ringPorts_keeps
    | with_reducible apply occupy_keeps | with_reducible apply freeSlot_keeps
    | with_reducible apply reportIfIdle_keeps | with_reducible apply refuseAlert_keeps | exact Nat.le_refl _)

theorem alert_keeps (n : Slot) (cadence : Nat) (ports : PortSet) (group : Bool) (h : Keeps s0 s) : Keeps s0 (alert n cadence ports group s) := by
  unfold alert
  (repeat' split) <;> (repeat' first
    | with_reducible assumption | with_reducible apply countAdmission_keeps
    | with_reducible apply refuseAdmission_keeps | with_reducible apply refuseAlert_keeps
    | with_reducible apply alertRings_keeps)

theorem answer_keeps (p : Port) (h : Keeps s0 s) : Keeps s0 (answer p s) := by
  unfold answer
  (repeat' split) <;> (repeat' first
    | with_reducible assumption | with_reducible apply keeps_onCall | with_reducible apply keeps_bump
    | with_reducible apply followCall_keeps | with_reducible apply stopChannel_keeps
    | with_reducible apply unpair_keeps | with_reducible apply queueSignal_keeps
    | with_reducible apply attach_keeps | with_reducible apply takeLifted_keeps
    | with_reducible apply stopAll_keeps | exact Nat.le_refl _)

theorem leaveRingSet_keeps (p : Port) (cause : Cause) (h : Keeps s0 s) : Keeps s0 (leaveRingSet p cause s) := by
  unfold leaveRingSet
  dsimp only
  (repeat' split) <;> (repeat' first
    | with_reducible assumption | with_reducible apply keeps_onCall | with_reducible apply queueSignal_keeps
    | with_reducible apply freeSlot_keeps | with_reducible apply reportIfIdle_keeps | exact Nat.le_refl _)

theorem alertLimit_keeps (n : Slot) (h : Keeps s0 s) : Keeps s0 (alertLimit n s) := by
  unfold alertLimit
  repeat' first
    | with_reducible assumption | with_reducible apply keeps_bump | with_reducible apply queueSignal_keeps
    | with_reducible apply freeSlot_keeps | with_reducible apply reportIfIdle_keeps
    | with_reducible apply takeLifted_keeps | with_reducible apply stopAll_keeps

theorem cancel_keeps (n : Slot) (h : Keeps s0 s) : Keeps s0 (cancel n s) := by
  unfold cancel
  repeat' first
    | with_reducible assumption | with_reducible apply freeSlot_keeps | with_reducible apply reportIfIdle_keeps
    | with_reducible apply takeLifted_keeps | with_reducible apply stopAll_keeps

theorem connect_keeps (n : Slot) (h : Keeps s0 s) : Keeps s0 (connect n s) := by
  unfold connect
  repeat' first
    | with_reducible assumption | with_reducible apply keeps_onCall | with_reducible apply followCall_keeps
    | exact Nat.le_refl _

theorem release_keeps (n : Slot) (code : Nat) (h : Keeps s0 s) : Keeps s0 (release n code s) := by
  unfold release
  repeat' first
    | with_reducible assumption | with_reducible apply freeSlot_keeps | with_reducible apply reportIfIdle_keeps
    | with_reducible apply takeLifted_keeps | with_reducible apply stopAll_keeps
    | with_reducible apply releaseAll_keeps

theorem ignoreSignal_keeps (h : Keeps s0 s) : Keeps s0 (ignoreSignal s) := by
  unfold ignoreSignal
  repeat' first
    | with_reducible assumption | with_reducible apply keeps_bump

theorem signalArrives_keeps (n : Slot) (frame : Bytes) (h : Keeps s0 s) : Keeps s0 (signalArrives n frame s) := by
  unfold signalArrives
  dsimp only
  (repeat' split) <;> (repeat' first
    | with_reducible assumption | with_reducible apply keeps_bump | with_reducible apply refuseAlert_keeps
    | with_reducible apply alert_keeps | with_reducible apply cancel_keeps | with_reducible apply connect_keeps
    | with_reducible apply release_keeps | with_reducible apply ignoreSignal_keeps)

theorem fromPort_keeps (p : Port) (g : Signal) (h : Keeps s0 s) : Keeps s0 (fromPort p g s) := by
  unfold fromPort
  (repeat' split) <;> (repeat' first
    | with_reducible assumption | with_reducible apply queueSignal_keeps)

theorem detach_keeps (p : Port) (h : Keeps s0 s) : Keeps s0 (detach p s) := by
  unfold detach
  dsimp only
  (repeat' split) <;> (repeat' first
    | with_reducible assumption | with_reducible apply keeps_onCall | with_reducible apply queueSignal_keeps
    | with_reducible apply freeSlot_keeps | with_reducible apply reportIfIdle_keeps | exact Nat.le_refl _)

theorem holdSlot_keeps (n : Slot) (h : Keeps s0 s) : Keeps s0 (holdSlot n s) := by
  unfold holdSlot
  (repeat' split) <;> (repeat' first
    | with_reducible assumption | with_reducible apply keeps_onCall | with_reducible apply followCall_keeps
    | exact Nat.le_refl _)

theorem holdSlots_keeps (h : Keeps s0 s) : Keeps s0 (holdSlots s) := by
  unfold holdSlots
  repeat' first
    | with_reducible assumption | with_reducible apply holdSlot_keeps

theorem cutSlot_keeps (n : Slot) (h : Keeps s0 s) : Keeps s0 (cutSlot n s) := by
  unfold cutSlot
  repeat' first
    | with_reducible assumption | with_reducible apply keeps_bump | with_reducible apply occurrence_keeps
    | with_reducible apply queueSignal_keeps | with_reducible apply freeSlot_keeps
    | with_reducible apply reportIfIdle_keeps | with_reducible apply takeLifted_keeps
    | with_reducible apply stopAll_keeps | with_reducible apply releaseAll_keeps

theorem preemptOnce_keeps (h : Keeps s0 s) : Keeps s0 (preemptOnce s) := by
  unfold preemptOnce
  (repeat' split) <;> (repeat' first
    | with_reducible assumption | with_reducible apply cutSlot_keeps)

theorem preempt_keeps (h : Keeps s0 s) : Keeps s0 (preempt s) := by
  unfold preempt
  repeat' first
    | with_reducible assumption | with_reducible apply preemptOnce_keeps

theorem refreshSlot_keeps (n : Slot) (h : Keeps s0 s) : Keeps s0 (refreshSlot n s) := by
  unfold refreshSlot
  (repeat' split) <;> (repeat' first
    | with_reducible assumption | with_reducible apply keeps_bump | with_reducible apply frontSignal_keeps)

theorem endHold_keeps (n : Slot) (h : Keeps s0 s) : Keeps s0 (endHold n s) := by
  unfold endHold
  repeat' first
    | with_reducible assumption | with_reducible apply keeps_onCall | with_reducible apply followCall_keeps
    | exact Nat.le_refl _

theorem lineReturns_keeps (h : Keeps s0 s) : Keeps s0 (lineReturns s) := by
  unfold lineReturns
  repeat' first
    | with_reducible assumption | with_reducible apply preempt_keeps | with_reducible apply refreshSlot_keeps
    | with_reducible apply endHold_keeps

theorem dropSlot_keeps (n : Slot) (h : Keeps s0 s) : Keeps s0 (dropSlot n s) := by
  unfold dropSlot
  split
  · exact takeLifted_keeps _ (keeps_bump (occurrence_keeps _ _ (freeSlot_keeps _ _ (keeps_onCall
      (keeps_bumpBy (cutShort_keeps _ _ (releaseAll_keeps _ (stopAll_keeps _ h)))) (Nat.zero_le _)))))
  · exact h

theorem dropAll_keeps (h : Keeps s0 s) : Keeps s0 (dropAll s) := by
  unfold dropAll
  repeat' first
    | with_reducible assumption | with_reducible apply dropSlot_keeps

theorem probeArrives_keeps (frame : Bytes) (h : Keeps s0 s) : Keeps s0 (probeArrives frame s) := by
  unfold probeArrives
  (repeat' split) <;> (repeat' first
    | with_reducible assumption | intro u hu | with_reducible apply keeps_onTr | with_reducible apply keeps_bump
    | with_reducible apply keeps_whenever | with_reducible apply cutShort_keeps)

theorem endProbe_keeps (h : Keeps s0 s) : Keeps s0 (endProbe s) := by
  unfold endProbe
  (repeat' split) <;> (repeat' first
    | with_reducible assumption | with_reducible apply keeps_onTr | with_reducible apply keeps_bump
    | with_reducible apply cutShort_keeps)

theorem sendResult_keeps (t : PortTest) (o : TestOutcome) (time : Nat) (h : Keeps s0 s) :
    Keeps s0 (sendResult t o time s) := by
  have hb : Keeps s0 (bump Ctr.testResultsSent s) := keeps_bump h
  unfold sendResult
  cases t.auth <;> dsimp only
  · exact offerFifo_keeps _ _ hb
  · split
    · rename_i hl
      exact keeps_pushReply hb hl
    · exact keeps_bump hb

theorem setTest_keeps (t : Option PortTest) (h : Keeps s0 s) : Keeps s0 (setTest t s) := by
  unfold setTest
  repeat' first
    | with_reducible assumption | with_reducible apply keeps_onTr

theorem startTest_keeps (t : PortTest) (h : Keeps s0 s) : Keeps s0 (startTest t s) := by
  unfold startTest
  repeat' first
    | with_reducible assumption | with_reducible apply keeps_bump | with_reducible apply enterPort_keeps
    | with_reducible apply startRing_keeps | with_reducible apply setTest_keeps

theorem testAnswer_keeps (p : Port) (h : Keeps s0 s) : Keeps s0 (testAnswer p s) := by
  unfold testAnswer
  (repeat' split) <;> (repeat' first
    | with_reducible assumption | with_reducible apply stopChannel_keeps | with_reducible apply toLocalTone_keeps
    | with_reducible apply sendResult_keeps | with_reducible apply setTest_keeps)

theorem testExpiry_keeps (h : Keeps s0 s) : Keeps s0 (testExpiry s) := by
  unfold testExpiry
  (repeat' split) <;> (repeat' first
    | with_reducible assumption | with_reducible apply stopChannel_keeps | with_reducible apply startTone_keeps
    | with_reducible apply toIdle_keeps | with_reducible apply sendResult_keeps
    | with_reducible apply setTest_keeps)

theorem testOnHook_keeps (p : Port) (h : Keeps s0 s) : Keeps s0 (testOnHook p s) := by
  unfold testOnHook
  (repeat' split) <;> (repeat' first
    | with_reducible assumption | with_reducible apply toIdle_keeps | with_reducible apply setTest_keeps)

theorem testPowerLimited_keeps (p : Port) (h : Keeps s0 s) : Keeps s0 (testPowerLimited p s) := by
  unfold testPowerLimited
  split
  · exact h
  · split
    · exact toIdle_keeps _ (setTest_keeps _ (sendResult_keeps _ _ _ (stopChannel_keeps _ (keeps_free h))))
    · exact h

theorem batteryLow_keeps (detail : Nat) (h : Keeps s0 s) : Keeps s0 (batteryLow detail s) := by
  unfold batteryLow
  repeat' first
    | with_reducible assumption | intro u hu | with_reducible apply keeps_onLbu | with_reducible apply keeps_onFu
    | with_reducible apply keeps_whenever | with_reducible apply occurrence_keeps | with_reducible rfl

theorem mainsLost_keeps (detail : Nat) (h : Keeps s0 s) : Keeps s0 (mainsLost detail s) := by
  unfold mainsLost
  repeat' first
    | with_reducible assumption | with_reducible apply keeps_onFu | with_reducible apply occurrence_keeps
    | with_reducible rfl

theorem powerConditions_keeps (old new : PowerState) (h : Keeps s0 s) : Keeps s0 (powerConditions old new s) := by
  unfold powerConditions
  (repeat' split) <;> (repeat' first
    | with_reducible assumption | with_reducible apply endCondition_keeps | with_reducible apply batteryLow_keeps
    | with_reducible apply mainsLost_keeps)

theorem shedBulk_keeps (h : Keeps s0 s) : Keeps s0 (shedBulk s) := by
  unfold shedBulk
  exact keeps_whenever (keeps_bumpBy (keeps_bulkEmpty (cutShort_keeps _ _ h))) fun u hu => occurrence_keeps _ _ hu

theorem limitRinger_keeps (h : Keeps s0 s) : Keeps s0 (limitRinger s) := by
  unfold limitRinger
  (repeat' split) <;> (repeat' first
    | with_reducible assumption | with_reducible apply occurrence_keeps | with_reducible apply stopRinging_keeps
    | with_reducible apply takeIfLifted_keeps | with_reducible apply leaveRingSet_keeps
    | with_reducible apply testPowerLimited_keeps)

theorem takeInputs_keeps (mains low : Bool) (h : Keeps s0 s) : Keeps s0 (onFu (takeInputs mains low) s) :=
  keeps_onFu h rfl rfl rfl

theorem powerChange_keeps (mains low : Bool) (h : Keeps s0 s) : Keeps s0 (powerChange mains low s) := by
  unfold powerChange
  dsimp only
  (repeat' split) <;> (repeat' first
    | with_reducible assumption | intro u hu | with_reducible apply takeInputs_keeps | with_reducible apply keeps_onFu | with_reducible apply keeps_bump
    | with_reducible apply keeps_whenever | with_reducible apply powerConditions_keeps
    | with_reducible apply shedBulk_keeps | with_reducible apply limitRinger_keeps | with_reducible rfl)

theorem classify_keeps (p : Port) (b : Nat) (h : Keeps s0 s) : Keeps s0 (classify p b s) := by
  unfold classify
  dsimp only
  (repeat' split) <;> (repeat' first
    | with_reducible assumption | intro u hu | with_reducible apply keeps_onPort | with_reducible apply keeps_bump
    | with_reducible apply keeps_whenever | with_reducible apply fromPort_keeps)

theorem takeChange_keeps (p : Port) (closed : Bool) (h : Keeps s0 s) : Keeps s0 (takeChange p closed s) := by
  unfold takeChange
  repeat' first
    | with_reducible assumption | intro u hu | with_reducible apply keeps_onPort
    | with_reducible apply keeps_whenever | with_reducible apply classify_keeps

theorem closingTaken_keeps (p : Port) (h : Keeps s0 s) : Keeps s0 (closingTaken p s) := by
  unfold closingTaken
  (repeat' split) <;> (repeat' first
    | with_reducible assumption | with_reducible apply offHook_keeps | with_reducible apply answer_keeps
    | with_reducible apply testAnswer_keeps)

theorem loopChange_keeps (p : Port) (h : Keeps s0 s) : Keeps s0 (loopChange p s) := by
  unfold loopChange
  (repeat' split) <;> (repeat' first
    | with_reducible assumption | intro u hu | with_reducible apply keeps_whenever
    | with_reducible apply takeChange_keeps | with_reducible apply closingTaken_keeps)

theorem ringTrip_keeps (p : Port) (h : Keeps s0 s) : Keeps s0 (ringTrip p s) := by
  unfold ringTrip
  (repeat' split) <;> (repeat' first
    | with_reducible assumption | with_reducible apply stopChannel_keeps | with_reducible apply takeChange_keeps
    | with_reducible apply closingTaken_keeps)

theorem onHookTaken_keeps (p : Port) (h : Keeps s0 s) : Keeps s0 (onHookTaken p s) := by
  unfold onHookTaken
  (repeat' split) <;> (repeat' first
    | with_reducible assumption | with_reducible apply toIdle_keeps | with_reducible apply leftParked_keeps
    | with_reducible apply detach_keeps | with_reducible apply testOnHook_keeps)

theorem onHookFires_keeps (p : Port) (h : Keeps s0 s) : Keeps s0 (onHookFires p s) := by
  unfold onHookFires
  repeat' first
    | with_reducible assumption | intro u hu | with_reducible apply keeps_onPort | with_reducible apply keeps_bump
    | with_reducible apply keeps_whenever | with_reducible apply onHookTaken_keeps

theorem digitTaken_keeps (p : Port) (pulses : Nat) (h : Keeps s0 s) : Keeps s0 (digitTaken p pulses s) := by
  unfold digitTaken
  (repeat' split) <;> (repeat' first
    | with_reducible assumption | with_reducible apply keeps_bump | with_reducible apply fromPort_keeps)

theorem interdigitFires_keeps (p : Port) (h : Keeps s0 s) : Keeps s0 (interdigitFires p s) := by
  unfold interdigitFires
  repeat' first
    | with_reducible assumption | with_reducible apply keeps_onPort | with_reducible apply digitTaken_keeps

theorem parkExpires_keeps (p : Port) (h : Keeps s0 s) : Keeps s0 (parkExpires p s) := by
  unfold parkExpires
  (repeat' split) <;> (repeat' first
    | with_reducible assumption | with_reducible apply toParked_keeps)

theorem toDisabled_keeps (p : Port) (h : Keeps s0 s) : Keeps s0 (toDisabled p s) := by
  unfold toDisabled
  repeat' first
    | with_reducible assumption | with_reducible apply keeps_onPort | with_reducible apply enterPort_keeps
    | with_reducible apply quieten_keeps

theorem disablePort_keeps (p : Port) (h : Keeps s0 s) : Keeps s0 (disablePort p s) := by
  unfold disablePort
  (repeat' split) <;> (repeat' first
    | with_reducible assumption | with_reducible apply leftParked_keeps | with_reducible apply unpair_keeps
    | with_reducible apply leaveRingSet_keeps | with_reducible apply detach_keeps
    | with_reducible apply toDisabled_keeps)

theorem enablePort_keeps (p : Port) (h : Keeps s0 s) : Keeps s0 (enablePort p s) := by
  unfold enablePort
  (repeat' split) <;> (repeat' first
    | with_reducible assumption | with_reducible apply enterPort_keeps | with_reducible apply takeIfLifted_keeps)

theorem releasePortAct_keeps (p : Port) (h : Keeps s0 s) : Keeps s0 (releasePortAct p s) := by
  unfold releasePortAct
  (repeat' split) <;> (repeat' first
    | with_reducible assumption | with_reducible apply toReleased_keeps | with_reducible apply stopRinging_keeps
    | with_reducible apply takeIfLifted_keeps | with_reducible apply leaveRingSet_keeps
    | with_reducible apply detach_keeps)

theorem stray_keeps (h : Keeps s0 s) : Keeps s0 (stray s) := by
  unfold stray
  repeat' first
    | with_reducible assumption | with_reducible apply keeps_bump

theorem enterTraining_keeps (h : Keeps s0 s) : Keeps s0 (enterTraining s) := by
  unfold enterTraining
  (repeat' split) <;> (repeat' first
    | with_reducible assumption | with_reducible apply keeps_onLs | with_reducible apply enterLink_keeps
    | with_reducible apply holdSlots_keeps | with_reducible rfl)

theorem startLine_keeps (h : Keeps s0 s) : Keeps s0 (startLine s) := by
  unfold startLine
  exact enterLink_keeps _ (sendTrain_keeps _ (keeps_history h (.inl (Nat.zero_le _)) (Nat.zero_le _) rfl))

theorem newRound_keeps (h : Keeps s0 s) : Keeps s0 (newRound s) := by
  unfold newRound
  repeat' first
    | with_reducible assumption | with_reducible apply keeps_onLs | with_reducible apply sendTrain_keeps
    | with_reducible apply enterLink_keeps | with_reducible rfl

theorem enterWaiting_keeps (h : Keeps s0 s) : Keeps s0 (enterWaiting s) := by
  unfold enterWaiting
  repeat' first
    | with_reducible assumption | with_reducible apply keeps_onLs | with_reducible apply keeps_bump
    | with_reducible apply occurrence_keeps | with_reducible apply sendHalt_keeps
    | with_reducible apply enterLink_keeps | with_reducible apply dropAll_keeps | with_reducible rfl

theorem trainingFailed_keeps (halt : Bool) (h : Keeps s0 s) : Keeps s0 (trainingFailed halt s) := by
  unfold trainingFailed
  (repeat' split) <;> (repeat' first
    | with_reducible assumption | intro u hu | with_reducible apply keeps_whenever
    | with_reducible apply sendHalt_keeps | with_reducible apply sendTrain_keeps
    | with_reducible apply enterWaiting_keeps)

theorem startCarrying_keeps (h : Keeps s0 s) : Keeps s0 (startCarrying s) := by
  unfold startCarrying
  repeat' first
    | with_reducible assumption | with_reducible apply keeps_onLs | with_reducible apply endCondition_keeps
    | with_reducible apply unsetExpected_keeps | with_reducible rfl

theorem enterCarrying_keeps (rate : Nat) (margin : Int) (h : Keeps s0 s) : Keeps s0 (enterCarrying rate margin s) := by
  unfold enterCarrying
  exact lineReturns_keeps (keeps_bump (endCondition_keeps _ (startCarrying_keeps (keeps_history
    (stageBudget_keeps _ _ _ (keeps_onLs h rfl rfl rfl)) (.inr rfl) (Nat.zero_le _) rfl))))

theorem trainedTaken_keeps (rate : Nat) (margin : Int) (h : Keeps s0 s) : Keeps s0 (trainedTaken rate margin s) := by
  unfold trainedTaken
  dsimp only
  (repeat' split) <;> (repeat' first
    | with_reducible assumption | intro u hu | with_reducible apply keeps_bump
    | with_reducible apply keeps_whenever | with_reducible apply trainingFailed_keeps
    | with_reducible apply enterCarrying_keeps)

theorem rideFails_keeps (h : Keeps s0 s) : Keeps s0 (rideFails s) := by
  unfold rideFails
  repeat' first
    | with_reducible assumption | with_reducible apply keeps_onLs | with_reducible apply keeps_bump
    | with_reducible apply occurrence_keeps | with_reducible apply sendHalt_keeps
    | with_reducible apply sendTrain_keeps | with_reducible apply enterTraining_keeps | with_reducible rfl

theorem startRide_keeps (h : Keeps s0 s) : Keeps s0 (startRide s) := by
  unfold startRide
  dsimp only
  (repeat' split) <;> (repeat' first
    | with_reducible assumption | with_reducible apply keeps_onLs | with_reducible apply keeps_bump
    | with_reducible apply enterLink_keeps | with_reducible apply leaveCarrying_keeps
    | with_reducible apply holdSlots_keeps | with_reducible apply rideFails_keeps | with_reducible rfl)

theorem endRide_keeps (h : Keeps s0 s) : Keeps s0 (endRide s) := by
  unfold endRide
  repeat' first
    | with_reducible assumption | with_reducible apply keeps_onLs | with_reducible apply keeps_bump
    | with_reducible apply occurrence_keeps | with_reducible apply copyFloor_keeps
    | with_reducible apply lineReturns_keeps | with_reducible apply startCarrying_keeps | with_reducible rfl

theorem holdExpires_keeps (h : Keeps s0 s) : Keeps s0 (holdExpires s) := by
  unfold holdExpires
  repeat' first
    | with_reducible assumption | with_reducible apply keeps_onLs | with_reducible apply keeps_bump
    | with_reducible apply enterLink_keeps | with_reducible apply dropAll_keeps | with_reducible rfl

theorem stepDownTo_keeps (i : Fin 8) (h : Keeps s0 s) : Keeps s0 (stepDownTo i s) := by
  unfold stepDownTo
  repeat' first
    | with_reducible assumption | with_reducible apply keeps_bump | with_reducible apply occurrence_keeps
    | with_reducible apply sendHalt_keeps | with_reducible apply sendTrain_keeps
    | with_reducible apply leaveCarrying_keeps | with_reducible apply enterTraining_keeps

theorem askStepDown_keeps (h : Keeps s0 s) : Keeps s0 (askStepDown s) := by
  unfold askStepDown
  (repeat' split) <;> (repeat' first
    | with_reducible assumption | with_reducible apply stepDownTo_keeps)

theorem evalSevere_keeps (h : Keeps s0 s) : Keeps s0 (evalSevere s) := by
  unfold evalSevere
  dsimp only
  (repeat' split) <;> (repeat' first
    | with_reducible assumption | with_reducible apply occurrence_keeps | with_reducible apply endCondition_keeps
    | with_reducible apply askStepDown_keeps)

theorem evalStepUp_keeps (h : Keeps s0 s) : Keeps s0 (evalStepUp s) := by
  unfold evalStepUp
  (repeat' split) <;> (repeat' first
    | with_reducible assumption | with_reducible apply keeps_onLs | with_reducible apply stepUpTo_keeps
    | with_reducible rfl)

theorem addGrade_length (g : Grade) (l : List Grade) : (addGrade g l).length ≤ Config.history := by
  simp only [addGrade, List.length_drop, List.length_append, List.length_singleton, Config.history]
  omega

theorem gradeSecond_keeps (h : Keeps s0 s) : Keeps s0 (gradeSecond s) := by
  unfold gradeSecond
  split
  · exact evalStepUp_keeps (evalSevere_keeps (keeps_history h (.inl (addGrade_length _ _)) (satAdd_le _ _ _) rfl))
  · exact h

theorem marginTaken_keeps (margin : Int) (h : Keeps s0 s) : Keeps s0 (marginTaken margin s) := by
  unfold marginTaken
  dsimp only
  (repeat' split) <;> (repeat' first
    | with_reducible assumption | with_reducible apply keeps_onLs | with_reducible apply occurrence_keeps
    | with_reducible apply endCondition_keeps | with_reducible apply askStepDown_keeps | with_reducible rfl)

theorem stopLine_keeps (h : Keeps s0 s) : Keeps s0 (stopLine s) := by
  unfold stopLine
  repeat' first
    | with_reducible assumption | intro u hu | with_reducible apply keeps_onLs
    | with_reducible apply keeps_whenever | with_reducible apply endCondition_keeps
    | with_reducible apply sendHalt_keeps | with_reducible apply enterLink_keeps
    | with_reducible apply leaveCarrying_keeps | with_reducible apply dropAll_keeps
    | with_reducible apply endProbe_keeps | with_reducible rfl

theorem retrainFromUp_keeps (h : Keeps s0 s) : Keeps s0 (retrainFromUp s) := by
  unfold retrainFromUp
  repeat' first
    | with_reducible assumption | intro u hu | with_reducible apply keeps_onLs
    | with_reducible apply keeps_whenever | with_reducible apply occurrence_keeps
    | with_reducible apply sendHalt_keeps | with_reducible apply sendTrain_keeps
    | with_reducible apply leaveCarrying_keeps | with_reducible apply enterTraining_keeps | with_reducible rfl

theorem retrain_keeps (h : Keeps s0 s) : Keeps s0 (retrain s) := by
  unfold retrain
  (repeat' split) <;> (repeat' first
    | with_reducible assumption | with_reducible apply sendHalt_keeps | with_reducible apply sendTrain_keeps
    | with_reducible apply newRound_keeps | with_reducible apply retrainFromUp_keeps)

theorem startLoopback_keeps (c : LoopChannel) (h : Keeps s0 s) : Keeps s0 (startLoopback c s) := by
  unfold startLoopback
  (repeat' split) <;> (repeat' first
    | with_reducible assumption | with_reducible apply keeps_onLs | with_reducible apply keeps_bump
    | with_reducible apply dropSeg_keeps | with_reducible apply abandon_keeps | with_reducible rfl)

theorem loopbackExpires_keeps (h : Keeps s0 s) : Keeps s0 (loopbackExpires s) := by
  unfold loopbackExpires
  (repeat' split) <;> (repeat' first
    | with_reducible assumption | with_reducible apply keeps_bump | with_reducible apply endLoopback_keeps)

theorem countHit_keeps (found : Option (Fin 32)) (h : Keeps s0 s) : Keeps s0 (countHit found s) := by
  unfold countHit
  split
  · exact keeps_matchEntry h (.inr rfl)
  · exact h

theorem refusedBy_none {frames bytes : Nat} {q : List Bytes} {f : Bytes} (h : refusedBy frames bytes q f = none) :
    q.length + 1 ≤ frames ∧ queueBytes q + f.length ≤ bytes := by
  unfold refusedBy at h
  split at h
  · cases h
  · split at h
    · cases h
    · omega

theorem offerPriority_keeps (f : Bytes) (h : Keeps s0 s) : Keeps s0 (offerPriority f s) := by
  unfold offerPriority
  split
  · exact occurrence_keeps _ _ (keeps_bump h)
  · rename_i hn
    have hr := refusedBy_none hn
    refine keeps_bump (keeps_onQm h ?_)
    rintro ⟨a, b, c, d, e, f', g, hs, j, k, l⟩
    refine ⟨?_, ?_, c, d, e, f', g, hs, j, k, l⟩
    · simpa using hr.1
    · simpa [queueBytes_append] using hr.2

theorem offerBulk_keeps (f : Bytes) (h : Keeps s0 s) : Keeps s0 (offerBulk f s) := by
  unfold offerBulk
  split
  · exact occurrence_keeps _ _ (keeps_bump h)
  · split
    · exact occurrence_keeps _ _ (keeps_bump h)
    · rename_i hn
      have hr := refusedBy_none hn
      refine keeps_bump (keeps_onQm h ?_)
      rintro ⟨a, b, c, d, e, f', g, hs, j, k, l⟩
      refine ⟨a, b, ?_, ?_, e, f', g, hs, j, k, l⟩
      · simpa using hr.1
      · simpa [queueBytes_append] using hr.2

theorem classUpstream_keeps (c : FrameClass) (f : Bytes) (h : Keeps s0 s) : Keeps s0 (classUpstream c f s) := by
  unfold classUpstream
  (repeat' split) <;> (repeat' first
    | with_reducible assumption | with_reducible apply keeps_bump | with_reducible apply offerPriority_keeps
    | with_reducible apply offerBulk_keeps)

theorem upstream_keeps (f : Bytes) (h : Keeps s0 s) : Keeps s0 (upstream f s) := by
  unfold upstream
  dsimp only
  (repeat' split) <;> (repeat' first
    | with_reducible assumption | with_reducible apply keeps_bump | with_reducible apply offerFifo_keeps
    | with_reducible apply countHit_keeps | with_reducible apply classUpstream_keeps)

theorem quietRules_keeps (found : Option (Fin 32)) (f : Bytes) (h : Keeps s0 s) : Keeps s0 (quietRules found f s) := by
  unfold quietRules
  dsimp only
  (repeat' split) <;> (repeat' first
    | with_reducible assumption | with_reducible apply keeps_bump | with_reducible apply offerFifo_keeps
    | with_reducible apply assertWake_keeps)

theorem downstream_keeps (f : Bytes) (h : Keeps s0 s) : Keeps s0 (downstream f s) := by
  unfold downstream
  dsimp only
  (repeat' split) <;> (repeat' first
    | with_reducible assumption | with_reducible apply keeps_bump | with_reducible apply offerFifo_keeps
    | with_reducible apply countHit_keeps | with_reducible apply quietRules_keeps)

theorem itemSent_keeps (h : Keeps s0 s) : Keeps s0 (itemSent s) := by
  unfold itemSent
  split
  · split
    · rename_i i rest hf
      refine offerLocal_keeps (keeps_bump (keeps_onQm (keeps_onOut h) ?_))
      rintro ⟨a, b, c, d, e, f, g, hs, j, k, l⟩
      refine ⟨a, b, c, d, e, ?_, ?_, hs, j, k, l⟩
      · refine Nat.le_trans ?_ f
        simp [QueueManager.fill, sendHome, hf]
      · intro x
        have := g x
        simp [sendHome, hf] at this
    · exact h
  · exact h

theorem homeUp_keeps (h : Keeps s0 s) : Keeps s0 (homeUp s) := offerLocal_keeps (keeps_homeUp h)

theorem homeDown_keeps (h : Keeps s0 s) : Keeps s0 (homeDown s) :=
  keeps_foldl _ _ (keeps_homeDown h) fun _ _ hu => keeps_bump hu

theorem Param.default_allowed (p : Param) : p.allows p.default := by
  cases p <;> simp [Param.allows, Param.rule, Param.default]

theorem keptParams_get (v : Vector Nat 30) (p : Param) : vget (keptParams v) p.index = keepParam v p := by
  cases p <;> rfl

theorem resetBlocks_keeps (a : Authority) (h : Keeps s0 s) : Keeps s0 (resetBlocks a s) := by
  refine h.trans ⟨?_, ?_, ?_, ?_, ?_⟩
  · intro _
    refine ⟨Nat.zero_le _, Nat.zero_le _, Nat.zero_le _, Nat.zero_le _, Nat.zero_le _, Nat.zero_le _, fun _ => rfl, ?_,
      Nat.zero_le _, Nat.zero_le _, Nat.zero_le _⟩
    intro n
    cases n <;> exact Nat.zero_le _
  · rintro ⟨b, c, d, e, f⟩
    exact ⟨b, c, d, ListOk.nil, ListOk.nil⟩
  · rintro ⟨b, c, d, e, f⟩
    refine ⟨?_, c, d, e, ?_⟩
    · intro p
      have hp : (resetBlocks a s).param p = keepParam s.du.params p := keptParams_get _ p
      rw [hp]
      unfold keepParam
      split
      · exact b p
      · exact p.default_allowed
    · intro i
      simp [resetBlocks, matchEngineReset, matchReset]
  · intro _ c
    simp [resetBlocks, State.counter]
  · intro _
    constructor
    · intro n b hb
      cases n <;> cases hb
    · intro n d hd
      cases n <;> cases hd

theorem endAtReset_keeps (h : Keeps s0 s) : Keeps s0 (endAtReset s) := by
  unfold endAtReset
  repeat' first
    | with_reducible assumption | with_reducible apply endCondition_keeps

theorem directedReset_keeps (a : Authority) (h : Keeps s0 s) : Keeps s0 (directedReset a s) := by
  unfold directedReset
  repeat' first
    | with_reducible assumption | intro u hu | with_reducible apply keeps_whenever
    | with_reducible apply occurrence_keeps | with_reducible apply sendHalt_keeps
    | with_reducible apply startLine_keeps | with_reducible apply resetBlocks_keeps
    | with_reducible apply endAtReset_keeps

end Sys2Proof.Machine
end

