-- ==== Sys2Proof/Laws/KeepsC.lean ====
section
/-! SUPPORT. Each operation of Machine/Directives.lean to Machine/Events.lean keeps the invariants of Laws/Keeps.lean. One lemma per operation. -/

namespace Sys2Proof.Machine

variable {s0 s : State}

theorem sendReply_keeps (a : Authority) (msg : Bytes) (h : Keeps s0 s) : Keeps s0 (sendReply a msg s) := by
  unfold sendReply
  split
  · exact offerFifo_keeps _ _ h
  · split
    · rename_i hl
      exact keeps_pushReply h hl
    · exact h

theorem answerWith_keeps (sender : Sender) (codeByte : Byte) (tag : Half) (r : Answer) (h : Keeps s0 r.state) :
    Keeps s0 (answerWith sender codeByte tag r) := sendReply_keeps _ _ (keeps_bump h)

theorem refuse_keeps (status : Status) (h : Keeps s0 s) : Keeps s0 (refuse status s).state := h

theorem doneWith_keeps (body : Bytes) (h : Keeps s0 s) : Keeps s0 (doneWith body s).state := h

theorem refuseOwner_keeps (sender : Sender) (code : Nat) (tag : Half) (table : Nat) (h : Keeps s0 s) : Keeps s0 (refuseOwner sender code tag table s) := by
  unfold refuseOwner
  repeat' first
    | with_reducible assumption | with_reducible apply keeps_bump | with_reducible apply occurrence_keeps
    | with_reducible apply refuse_keeps | with_reducible apply answerWith_keeps

theorem readTableAct_keeps (table first count : Byte) (h : Keeps s0 s) : Keeps s0 (readTableAct table first count s).state := by
  unfold readTableAct
  dsimp only
  (repeat' split) <;> (repeat' first
    | with_reducible assumption | with_reducible apply doneWith_keeps | with_reducible apply refuse_keeps)

theorem countClamp_keeps (differs : Bool) (h : Keeps s0 s) : Keeps s0 (countClamp differs s) := by
  unfold countClamp
  repeat' first
    | with_reducible assumption | intro u hu | with_reducible apply keeps_bump
    | with_reducible apply keeps_whenever

theorem rungOf_allowed (valid : Bool) (size : BlockSize) (e : ProfileImage) : (rungOf valid size e).allowed := by
  have h1 := clamp_range 32 16383 e.rateCap.toNat (by decide)
  have h2 := clamp_range 256 512 e.efficiency.toNat (by decide)
  have h3 := clampInt_range (-100) 300 e.minMargin.toInt (by decide)
  exact ⟨h1.1, h1.2, h2.1, h2.2, h3.1, h3.2⟩

/-- A rung replaced, when the ladder still holds a valid one (R24). -/
theorem keeps_rung {i : Fin 8} {r : Rung} (h : Keeps s0 s) (hr : r.allowed)
    (hv : r.valid = true ∨ s.onlyValid i = false) :
    Keeps s0 (onLs (fun l => { l with profile := vset l.profile i r }) s) := by
  refine keeps_store h ?_ rfl rfl rfl rfl rfl rfl rfl rfl
  rintro ⟨a, b, c, d, e⟩
  refine ⟨a, ?_, ?_, d, e⟩
  · intro j
    simp only [onLs_ls, vget_vset]
    split
    · exact hr
    · exact b j
  · have hg : ∀ j, State.rungValid (onLs (fun l => { l with profile := vset l.profile i r }) s) j =
        if i = j then r.valid else s.rungValid j := by
      intro j
      simp only [State.rungValid, onLs_ls, vget_vset]
      split <;> rfl
    rcases hv with hv | hv
    · exact ⟨i, by simp [hg, hv]⟩
    · obtain ⟨j, hj⟩ := c
      by_cases hi : s.rungValid i = true
      · simp only [State.onlyValid, hi, Bool.true_and, List.all_eq_false, Bool.or_eq_true, not_or] at hv
        obtain ⟨k, _, hk, hk2⟩ := hv
        refine ⟨k, ?_⟩
        have hne : ¬ i = k := fun e => hk (by simp [e])
        simpa [hg, hne] using hk2
      · refine ⟨j, ?_⟩
        have hne : ¬ i = j := fun e => hi (e ▸ hj)
        simpa [hg, hne] using hj

theorem writeProfileAct_keeps (index : Byte) (e : ProfileImage) (h : Keeps s0 s) :
    Keeps s0 (writeProfileAct index e s).state := by
  unfold writeProfileAct
  split
  · rename_i hi
    dsimp only
    split
    · rename_i valid size _ _
      split
      · exact h
      · split
        · exact h
        · rename_i _ hn
          refine countClamp_keeps _ (keeps_rung h (rungOf_allowed _ _ _) ?_)
          cases valid
          · right
            simpa using hn
          · left
            rfl
    · exact h
  · exact h

/-- A cadence replaced by one with durations within their range (R114). -/
theorem keeps_cadence {i : Fin 8} {c : Cadence} (h : Keeps s0 s) (hc : ∀ j, vget c.durations j ≤ 800) :
    Keeps s0 (onPpu (fun u => { u with cadences := vset u.cadences i c }) s) := by
  refine keeps_store h ?_ rfl rfl rfl rfl rfl rfl rfl rfl
  rintro ⟨a, b, d, e, g⟩
  refine ⟨a, b, d, ?_, g⟩
  intro k j
  simp only [onPpu_ppu, vget_vset]
  split
  · exact hc j
  · exact e k j

theorem writeCadenceAct_keeps (index : Byte) (durations : List Half) (rep : Byte) (h : Keeps s0 s) :
    Keeps s0 (writeCadenceAct index durations rep s).state := by
  unfold writeCadenceAct
  split
  · split
    · refine countClamp_keeps _ (keeps_cadence h ?_)
      intro j
      simp [cadenceFrom]
    · exact h
  · exact h

theorem matchFrom_dscp {e : MatchImage} {m : MatchEntry} (h : matchFrom e = some m) : m.dscp ≤ 63 := by
  unfold matchFrom at h
  dsimp only at h
  split at h
  · cases h
    exact Nat.min_le_right _ _
  · cases h

theorem writeMatchAct_keeps (index : Byte) (e : MatchImage) (h : Keeps s0 s) :
    Keeps s0 (writeMatchAct index e s).state := by
  unfold writeMatchAct
  split
  · split
    · rename_i m hm
      exact countClamp_keeps _ (keeps_matchEntry h (.inl (matchFrom_dscp hm)))
    · exact h
  · exact h

theorem writeAnswerAct_keeps (index valid : Byte) (hw : Mac) (ip : Ip) (h : Keeps s0 s) : Keeps s0 (writeAnswerAct index valid hw ip s).state := by
  unfold writeAnswerAct
  (repeat' split) <;> (repeat' first
    | with_reducible assumption | with_reducible apply keeps_onMe | with_reducible apply doneWith_keeps
    | with_reducible apply refuse_keeps | with_reducible rfl)

theorem removeItem_keeps (a : Authority) (k : FaultKind) (h : Keeps s0 s) : Keeps s0 (removeItem a k s) := by
  unfold removeItem
  cases a
  · exact keeps_whenever h fun u hu => keeps_bump (keeps_onList hu fun _ i => i.loc.removeKind k)
  · exact keeps_whenever h fun u hu => keeps_bump (keeps_onList (cutShort_keeps _ _ hu) fun _ i => i.exch.removeKind k)

theorem withLevel_level (r : FaultRecord) (a b : Authority) (l : Nat) :
    (r.withLevel a l).level b = if a = b then l else r.level b := by
  cases a <;> cases b <;> rfl

theorem levelRule_le (k : FaultKind) (a : Authority) : (k.levelRule a).2.1 ≤ (k.levelRule a).2.2 := by
  cases a <;> cases k <;> decide

theorem writeFaultAct_keeps (a : Authority) (index level : Byte) (h : Keeps s0 s) :
    Keeps s0 (writeFaultAct a index level s).state := by
  unfold writeFaultAct
  split
  · exact h
  · rename_i k _
    refine countClamp_keeps _ (keeps_whenever (keeps_setRec h ?_) fun u hu => removeItem_keeps _ _ hu)
    intro i
    refine ⟨?_, ?_, ?_⟩
    · intro b
      rw [withLevel_level]
      split
      · rename_i e
        subst e
        exact clamp_range _ _ _ (levelRule_le k a)
      · exact i.levels k b
    · intro hc
      have := i.events k hc
      cases a <;> exact this
    · have := i.counts k
      cases a <;> exact this

theorem readParamAct_keeps (ident : Byte) (h : Keeps s0 s) : Keeps s0 (readParamAct ident s).state := by
  unfold readParamAct
  (repeat' split) <;> (repeat' first
    | with_reducible assumption | with_reducible apply doneWith_keeps | with_reducible apply refuse_keeps)

/-- A parameter replaced by a value its rule allows (R209). -/
theorem setParam_keeps {p : Param} {v : Nat} (h : Keeps s0 s) (hv : p.allows v) : Keeps s0 (setParam p v s) := by
  refine keeps_store h ?_ rfl rfl rfl rfl rfl rfl rfl rfl
  rintro ⟨a, b, c, d, e⟩
  refine ⟨?_, b, c, d, e⟩
  intro q
  rw [param_setParam]
  split
  · rename_i e
    subst e
    exact hv
  · exact a q

theorem storeParam_keeps {p : Param} {v : Nat} (h : Keeps s0 s) (hv : p.allows v) : Keeps s0 (storeParam p v s) :=
  keeps_whenever (setParam_keeps h hv) fun u hu => floorWritten_keeps _ hu

theorem writeParamAct_keeps (ident : Byte) (value : BitVec 48) (h : Keeps s0 s) :
    Keeps s0 (writeParamAct ident value s).state := by
  unfold writeParamAct
  split
  · exact h
  · rename_i p _
    dsimp only
    split
    · rename_i lo hi hr
      refine countClamp_keeps _ (storeParam_keeps h ?_)
      have hle : lo ≤ hi := by
        cases p <;> simp [Param.rule] at hr <;> omega
      simp only [Param.allows, hr]
      exact clamp_range lo hi _ hle
    · rename_i codes hr
      split
      · rename_i hc
        refine storeParam_keeps h ?_
        simpa [Param.allows, hr] using hc
      · exact h
    · rename_i hr
      refine storeParam_keeps h ?_
      simp only [Param.allows, hr]
      exact value.isLt

theorem clearKind_keeps (a : Authority) (counts : Bool) (k : FaultKind) (h : Keeps s0 s) :
    Keeps s0 (clearKind a counts k s) := by
  unfold clearKind
  split
  · exact h
  · refine keeps_setRec_same h ?_ ?_ ?_ ?_
    · cases a <;> cases counts <;> rfl
    · cases a <;> cases counts <;> rfl
    · cases a <;> cases counts <;> exact fun x => .inr x
    · cases a <;> cases counts <;> first | exact .inr rfl | exact .inl (Nat.zero_le _)

theorem clearFaultAct_keeps (a : Authority) (kind flag : Byte) (h : Keeps s0 s) : Keeps s0 (clearFaultAct a kind flag s).state := by
  unfold clearFaultAct
  (repeat' split) <;> (repeat' first
    | with_reducible assumption | intro u x hu | with_reducible apply keeps_foldl
    | with_reducible apply doneWith_keeps | with_reducible apply refuse_keeps
    | with_reducible apply clearKind_keeps)

theorem startAct_keeps (h : Keeps s0 s) : Keeps s0 (startAct s).state := by
  unfold startAct
  (repeat' split) <;> (repeat' first
    | with_reducible assumption | with_reducible apply startLine_keeps | with_reducible apply newRound_keeps
    | with_reducible apply doneWith_keeps | with_reducible apply refuse_keeps)

theorem retrainAct_keeps (h : Keeps s0 s) : Keeps s0 (retrainAct s).state := by
  unfold retrainAct
  (repeat' split) <;> (repeat' first
    | with_reducible assumption | with_reducible apply retrain_keeps | with_reducible apply doneWith_keeps
    | with_reducible apply refuse_keeps)

theorem stepDownAct_keeps (h : Keeps s0 s) : Keeps s0 (stepDownAct s).state := by
  unfold stepDownAct
  (repeat' split) <;> (repeat' first
    | with_reducible assumption | with_reducible apply stepDownTo_keeps | with_reducible apply doneWith_keeps
    | with_reducible apply refuse_keeps)

theorem stepUpAct_keeps (h : Keeps s0 s) : Keeps s0 (stepUpAct s).state := by
  unfold stepUpAct
  (repeat' split) <;> (repeat' first
    | with_reducible assumption | with_reducible apply stepUpTo_keeps | with_reducible apply doneWith_keeps
    | with_reducible apply refuse_keeps)

theorem loopOnAct_keeps (channel : Byte) (h : Keeps s0 s) : Keeps s0 (loopOnAct channel s).state := by
  unfold loopOnAct
  (repeat' split) <;> (repeat' first
    | with_reducible assumption | with_reducible apply startLoopback_keeps | with_reducible apply doneWith_keeps
    | with_reducible apply refuse_keeps)

theorem lineActionAct_keeps (action channel : Byte) (h : Keeps s0 s) : Keeps s0 (lineActionAct action channel s).state := by
  unfold lineActionAct
  (repeat' split) <;> (repeat' first
    | with_reducible assumption | with_reducible apply endLoopback_keeps | with_reducible apply stopLine_keeps
    | with_reducible apply doneWith_keeps | with_reducible apply refuse_keeps | with_reducible apply startAct_keeps
    | with_reducible apply retrainAct_keeps | with_reducible apply stepDownAct_keeps
    | with_reducible apply stepUpAct_keeps | with_reducible apply loopOnAct_keeps)

theorem testAct_keeps (kind : TestKind) (a : Authority) (tag : Half) (p : Port) (cadence seconds : Byte) (h : Keeps s0 s) : Keeps s0 (testAct kind a tag p cadence seconds s).state := by
  unfold testAct
  (repeat' split) <;> (repeat' first
    | with_reducible assumption | with_reducible apply startTest_keeps | with_reducible apply doneWith_keeps
    | with_reducible apply refuse_keeps)

theorem releaseAct_keeps (p : Port) (h : Keeps s0 s) : Keeps s0 (releaseAct p s).state := by
  unfold releaseAct
  (repeat' split) <;> (repeat' first
    | with_reducible assumption | with_reducible apply releasePortAct_keeps | with_reducible apply doneWith_keeps
    | with_reducible apply refuse_keeps)

theorem disableAct_keeps (p : Port) (h : Keeps s0 s) : Keeps s0 (disableAct p s).state := by
  unfold disableAct
  (repeat' split) <;> (repeat' first
    | with_reducible assumption | with_reducible apply disablePort_keeps | with_reducible apply doneWith_keeps
    | with_reducible apply refuse_keeps)

theorem portActionAct_keeps (a : Authority) (tag : Half) (kind port cadence seconds : Byte) (h : Keeps s0 s) : Keeps s0 (portActionAct a tag kind port cadence seconds s).state := by
  unfold portActionAct
  (repeat' split) <;> (repeat' first
    | with_reducible assumption | with_reducible apply enablePort_keeps | with_reducible apply doneWith_keeps
    | with_reducible apply refuse_keeps | with_reducible apply testAct_keeps
    | with_reducible apply releaseAct_keeps | with_reducible apply disableAct_keeps)

theorem quietEnterAct_keeps (h : Keeps s0 s) : Keeps s0 (quietEnterAct s).state := by
  unfold quietEnterAct
  (repeat' split) <;> (repeat' first
    | with_reducible assumption | with_reducible apply keeps_onMe | with_reducible apply keeps_bump
    | with_reducible apply doneWith_keeps | with_reducible apply refuse_keeps | with_reducible rfl)

theorem keeps_clearHits {f : MatchEngine → MatchEngine} (h : Keeps s0 s)
    (hf : (f s.me).table = s.me.table ∨ (f s.me).table = clearHits s.me.table) : Keeps s0 (onMe f s) := by
  refine keeps_store h ?_ rfl rfl rfl rfl rfl rfl rfl rfl
  rintro ⟨a, b, c, d, e⟩
  refine ⟨a, b, c, d, ?_⟩
  intro i
  rcases hf with hf | hf
  · simpa [hf] using e i
  · have : vget (clearHits s.me.table) i = if (vget s.me.table i).wake then { vget s.me.table i with hits := 0 }
        else vget s.me.table i := by
      simp only [clearHits, vget, Vector.getElem_map]
      rfl
    rw [onMe_me, hf, this]
    split <;> exact e i

theorem quietLeaveAct_keeps (hitClear : Byte) (h : Keeps s0 s) : Keeps s0 (quietLeaveAct hitClear s).state := by
  unfold quietLeaveAct
  split
  · exact h
  · refine offerLocal_keeps (keeps_clearHits h ?_)
    dsimp only
    split
    · exact .inr rfl
    · exact .inl rfl

theorem quietAct_keeps (kind hitClear : Byte) (h : Keeps s0 s) : Keeps s0 (quietAct kind hitClear s).state := by
  unfold quietAct
  (repeat' split) <;> (repeat' first
    | with_reducible assumption | with_reducible apply refuse_keeps | with_reducible apply quietEnterAct_keeps
    | with_reducible apply quietLeaveAct_keeps)

theorem act_keeps (sender : Sender) (tag : Half) (r : Request) (h : Keeps s0 s) : Keeps s0 (act sender tag r s).state := by
  unfold act
  (repeat' split) <;> (repeat' first
    | with_reducible assumption | with_reducible apply doneWith_keeps | with_reducible apply readTableAct_keeps
    | with_reducible apply writeProfileAct_keeps | with_reducible apply writeCadenceAct_keeps
    | with_reducible apply writeMatchAct_keeps | with_reducible apply writeAnswerAct_keeps
    | with_reducible apply writeFaultAct_keeps | with_reducible apply readParamAct_keeps
    | with_reducible apply writeParamAct_keeps | with_reducible apply clearFaultAct_keeps
    | with_reducible apply lineActionAct_keeps | with_reducible apply portActionAct_keeps
    | with_reducible apply quietAct_keeps)

theorem takeRequest_keeps (sender : Sender) (tag : Half) (r : Request) (h : Keeps s0 s) : Keeps s0 (takeRequest sender tag r s) := by
  unfold takeRequest
  (repeat' split) <;> (repeat' first
    | with_reducible assumption | with_reducible apply directedReset_keeps | with_reducible apply answerWith_keeps
    | with_reducible apply act_keeps)

theorem takeBody_keeps (sender : Sender) (code : Nat) (tag : Half) (body : Bytes) (h : Keeps s0 s) : Keeps s0 (takeBody sender code tag body s) := by
  unfold takeBody
  (repeat' split) <;> (repeat' first
    | with_reducible assumption | with_reducible apply refuse_keeps | with_reducible apply answerWith_keeps
    | with_reducible apply refuseOwner_keeps | with_reducible apply takeRequest_keeps)

theorem takeMessage_keeps (sender : Sender) (m : Bytes) (h : Keeps s0 s) : Keeps s0 (takeMessage sender m s) := by
  unfold takeMessage
  dsimp only
  (repeat' split) <;> (repeat' first
    | with_reducible assumption | with_reducible apply keeps_bump | with_reducible apply refuse_keeps
    | with_reducible apply answerWith_keeps | with_reducible apply takeBody_keeps)

theorem receiveDirective_keeps (sender : Sender) (take : State → State) (h : Keeps s0 s)
    (ht : ∀ u, Keeps s0 u → Keeps s0 (take u)) : Keeps s0 (receiveDirective sender take s) := by
  unfold receiveDirective
  split
  · exact ht _ (keeps_bump (keeps_onDu h rfl))
  · dsimp only
    split
    · exact ht _ (keeps_bump h)
    · exact keeps_bump (keeps_bump h)

theorem directive_keeps (sender : Sender) (tag : Half) (r : Request) (h : Keeps s0 s) :
    Keeps s0 (directive sender tag r s) :=
  receiveDirective_keeps _ _ h fun _ hu => takeBody_keeps _ _ _ _ hu

theorem deliverVoice_keeps (n : Slot) (f : Bytes) (h : Keeps s0 s) : Keeps s0 (deliverVoice n f s) := by
  unfold deliverVoice
  (repeat' split) <;> (repeat' first
    | with_reducible assumption | with_reducible apply keeps_bump | with_reducible apply mediaArrives_keeps
    | with_reducible apply signalArrives_keeps)

theorem deliver_keeps (c : Chan) (f : Bytes) (h : Keeps s0 s) : Keeps s0 (deliver c f s) := by
  unfold deliver
  split
  · exact deliverVoice_keeps _ _ h
  · split
    · exact deliverVoice_keeps _ _ h
    · dsimp only
      split
      · exact probeArrives_keeps _ (keeps_bump h)
      · split
        · exact receiveDirective_keeps _ _ (keeps_bump h) fun _ hu => takeMessage_keeps _ _ hu
        · exact downstream_keeps _ (keeps_bump h)

theorem setAsm_keeps (c : Chan) (a : Option Collecting) (h : Keeps s0 s) : Keeps s0 (setAsm c a s) := by
  unfold setAsm
  repeat' first
    | with_reducible assumption | with_reducible apply keeps_onChan

theorem oversizeBlock_keeps (c : Chan) (h : Keeps s0 s) : Keeps s0 (oversizeBlock c s) := by
  unfold oversizeBlock
  repeat' first
    | with_reducible assumption | with_reducible apply keeps_bump | with_reducible apply reportLoss_keeps

theorem orphan_keeps (h : Keeps s0 s) : Keeps s0 (orphan s) := by
  unfold orphan
  repeat' first
    | with_reducible assumption | with_reducible apply keeps_bump

theorem extend_keeps (b : LineBlock) (data : Bytes) (take : Bytes → State → State) (h : Keeps s0 s)
    (ht : ∀ f u, Keeps s0 u → Keeps s0 (take f u)) : Keeps s0 (extend b data take s) := by
  unfold extend
  split
  · exact orphan_keeps h
  · split
    · exact abandon_keeps _ _ h
    · split
      · exact abandon_keeps _ _ h
      · exact ht _ _ h

theorem reassemble_keeps (b : LineBlock) (h : Keeps s0 s) : Keeps s0 (reassemble b s) := by
  unfold reassemble
  dsimp only
  split
  · split
    · exact oversizeBlock_keeps _ (abandon_keeps _ _ h)
    · exact deliver_keeps _ _ (abandon_keeps _ _ h)
  · split
    · exact oversizeBlock_keeps _ (abandon_keeps _ _ h)
    · exact setAsm_keeps _ _ (abandon_keeps _ _ h)
  · exact extend_keeps _ _ _ h fun _ _ hu => setAsm_keeps _ _ hu
  · exact extend_keeps _ _ _ h fun _ _ hu => deliver_keeps _ _ (setAsm_keeps _ _ hu)

theorem badBlock_keeps (h : Keeps s0 s) : Keeps s0 (badBlock s) := by
  unfold badBlock
  repeat' first
    | with_reducible assumption | with_reducible apply keeps_onLs | with_reducible apply keeps_bump
    | with_reducible rfl

theorem checkSequence_keeps (b : LineBlock) (h : Keeps s0 s) : Keeps s0 (checkSequence b s) := by
  unfold checkSequence
  repeat' first
    | with_reducible assumption | intro u hu | with_reducible apply keeps_onChan | with_reducible apply keeps_onLs
    | with_reducible apply keeps_bump | with_reducible apply keeps_whenever | with_reducible apply abandon_keeps
    | with_reducible rfl

theorem takeBlock_keeps (b : LineBlock) (h : Keeps s0 s) : Keeps s0 (takeBlock b s) := by
  unfold takeBlock
  (repeat' split) <;> (repeat' first
    | with_reducible assumption | with_reducible apply keeps_bump | with_reducible apply abandon_keeps
    | with_reducible apply storeLooped_keeps | with_reducible apply reassemble_keeps)

theorem goodBlock_keeps (b : LineBlock) (h : Keeps s0 s) : Keeps s0 (goodBlock b s) := by
  unfold goodBlock
  (repeat' split) <;> (repeat' first
    | with_reducible assumption | with_reducible apply keeps_bump | with_reducible apply checkSequence_keeps
    | with_reducible apply takeBlock_keeps)

theorem blockArrives_keeps (bytes : Bytes) (h : Keeps s0 s) : Keeps s0 (blockArrives bytes s) := by
  unfold blockArrives
  (repeat' split) <;> (repeat' first
    | with_reducible assumption | with_reducible apply keeps_bump | with_reducible apply badBlock_keeps
    | with_reducible apply goodBlock_keeps)

theorem homeFrameTaken_keeps (f : Bytes) (h : Keeps s0 s) : Keeps s0 (homeFrameTaken f s) := by
  unfold homeFrameTaken
  dsimp only
  split
  · exact receiveDirective_keeps _ _ (keeps_bump (keeps_bump h)) fun _ hu => takeMessage_keeps _ _ hu
  · exact upstream_keeps _ (keeps_bump h)

theorem homeFrameArrives_keeps (frame : Bytes) (h : Keeps s0 s) : Keeps s0 (homeFrameArrives frame s) := by
  unfold homeFrameArrives
  dsimp only
  (repeat' split) <;> (repeat' first
    | with_reducible assumption | with_reducible apply keeps_bump | with_reducible apply homeFrameTaken_keeps)

/-- A claim keeps what every slot it takes keeps. -/
theorem nextOn_keeps (c : Chan) (head : State → Option (Source × Bytes)) {t : State} (h : Keeps s0 s)
    (ht : nextOn c head s = some t) : Keeps s0 t := by
  unfold nextOn at ht
  split at ht
  · cases ht
    exact emitNext_keeps _ _ h
  · split at ht
    · cases ht
      exact startFrame_keeps _ _ _ h
    · cases ht

theorem serve_holds (claim : Claim) (ctr : Counter) (n : Nat) (h : Keeps s0 s)
    (hc : ∀ u v, Keeps s0 u → claim u = some v → Keeps s0 v) : Keeps s0 (serve claim ctr n s).1 := by
  induction n generalizing s with
  | zero => exact h
  | succ n ih =>
    unfold serve
    split
    · exact h
    · rename_i v hv
      exact ih (keeps_bump (hc _ _ h hv))

theorem stepOf_holds (claim : Claim) (ctr : Counter) (limit : Nat) (p : State × Nat) (h : Keeps s0 p.1)
    (hc : ∀ u v, Keeps s0 u → claim u = some v → Keeps s0 v) : Keeps s0 (stepOf claim ctr limit p).1 :=
  serve_holds claim ctr _ h hc

theorem emitGasp_keeps (i : PendingItem) (h : Keeps s0 s) : Keeps s0 (emitGasp i s) := by
  unfold emitGasp
  repeat' first
    | with_reducible assumption | with_reducible apply keeps_onLbu | with_reducible apply keeps_onChan
    | with_reducible apply keeps_bump | with_reducible apply noticeDone_keeps | with_reducible apply emitOn_keeps
    | with_reducible apply dropSeg_keeps

theorem urgentClaim_keeps {t : State} (h : Keeps s0 s) (ht : urgentClaim s = some t) : Keeps s0 t := by
  unfold urgentClaim at ht
  split at ht
  · split at ht
    · cases ht
      exact emitGasp_keeps _ h
    · cases ht
  · cases ht

theorem clearDue_keeps (n : Slot) (h : Keeps s0 s) : Keeps s0 (clearDue n s) :=
  keeps_onMedia h (fun _ k => .inr k) (fun _ k => nomatch k)

theorem continueFrame_keeps (c : Chan) (n : Nat) (h : Keeps s0 s) : Keeps s0 (continueFrame c n s) := by
  induction n generalizing s with
  | zero => exact h
  | succ n ih =>
    unfold continueFrame
    split
    · exact ih (emitNext_keeps _ _ h)
    · exact h

theorem emitVoice_keeps (n : Slot) (f : Bytes) (h : Keeps s0 s) : Keeps s0 (emitVoice n f s) := by
  unfold emitVoice
  repeat' first
    | with_reducible assumption | with_reducible apply keeps_bumpBy | with_reducible apply startFrame_keeps
    | with_reducible apply continueFrame_keeps

theorem voiceStep_keeps (n : Slot) (p : State × Nat) (h : Keeps s0 p.1) : Keeps s0 (voiceStep n p).1 := by
  unfold voiceStep
  dsimp only
  (repeat' split) <;> (repeat' first
    | with_reducible assumption | with_reducible apply keeps_bump | with_reducible apply clearDue_keeps
    | with_reducible apply emitVoice_keeps)

theorem dueStale_keeps (n : Slot) (h : Keeps s0 s) : Keeps s0 (dueStale n s) := by
  unfold dueStale
  (repeat' split) <;> (repeat' first
    | with_reducible assumption | with_reducible apply keeps_bump | with_reducible apply clearDue_keeps)

theorem operationsClaim_keeps {t : State} (h : Keeps s0 s) (ht : operationsClaim s = some t) : Keeps s0 t :=
  nextOn_keeps _ _ h ht

theorem signalServed_keeps (n : Slot) {t : State} (h : Keeps s0 s) (ht : signalServed n s = some t) :
    Keeps s0 t := by
  unfold signalServed at ht
  split at ht
  · cases ht
  · simp only [Option.map_eq_some_iff] at ht
    obtain ⟨u, hu, rfl⟩ := ht
    exact keeps_onLbu (nextOn_keeps _ _ h hu)

theorem controlClaim_keeps {t : State} (h : Keeps s0 s) (ht : controlClaim s = some t) : Keeps s0 t := by
  unfold controlClaim at ht
  split at ht
  · rename_i u hu
    cases ht
    exact signalServed_keeps _ h hu
  · split at ht
    · rename_i u hu
      cases ht
      exact signalServed_keeps _ h hu
    · exact operationsClaim_keeps h ht

theorem testClaim_keeps {t : State} (h : Keeps s0 s) (ht : testClaim s = some t) : Keeps s0 t := by
  unfold testClaim at ht
  split at ht
  · exact sendLooped_keeps _ h ht
  · exact nextOn_keeps _ _ h ht

theorem bulkClaim_keeps {t : State} (h : Keeps s0 s) (ht : bulkClaim s = some t) : Keeps s0 t := by
  unfold bulkClaim at ht
  split at ht
  · exact sendLooped_keeps _ h ht
  · exact nextOn_keeps _ _ h ht

theorem priorityClaim_keeps {t : State} (h : Keeps s0 s) (ht : priorityClaim s = some t) : Keeps s0 t :=
  nextOn_keeps _ _ h ht

theorem fillRest_keeps (n : Nat) (h : Keeps s0 s) : Keeps s0 (fillRest n s) := by
  induction n generalizing s with
  | zero => exact h
  | succ n ih => exact ih (emitFill_keeps h)

theorem grantSteps_keeps (k : Nat) (h : Keeps s0 s) : Keeps s0 (grantSteps k s) := by
  unfold grantSteps
  exact fillRest_keeps _ (stepOf_holds _ _ _ _ (stepOf_holds _ _ _ _ (stepOf_holds _ _ _ _ (stepOf_holds _ _ _ _
    (stepOf_holds _ _ _ _ (stepOf_holds _ _ _ _ (voiceStep_keeps _ _ (voiceStep_keeps _ _ (stepOf_holds _ _ _ _ h
    fun _ _ a b => urgentClaim_keeps a b))) fun _ _ a b => controlClaim_keeps a b) fun _ _ a b => testClaim_keeps a b)
    fun _ _ a b => bulkClaim_keeps a b) fun _ _ a b => priorityClaim_keeps a b) fun _ _ a b => bulkClaim_keeps a b)
    fun _ _ a b => operationsClaim_keeps a b)

theorem grantPeriod_keeps (h : Keeps s0 s) : Keeps s0 (grantPeriod s) := by
  unfold grantPeriod
  repeat' first
    | with_reducible assumption | intro u hu | with_reducible apply keeps_onLbu | with_reducible apply keeps_bump
    | with_reducible apply keeps_whenever | with_reducible apply grantSteps_keeps

theorem periodStart_keeps (h : Keeps s0 s) : Keeps s0 (periodStart s) := by
  unfold periodStart
  (repeat' split) <;> (repeat' first
    | with_reducible assumption | with_reducible apply keeps_onClock | with_reducible apply mediaPeriod_keeps
    | with_reducible apply dueStale_keeps | with_reducible apply grantPeriod_keeps)

theorem trainedEvent_keeps (rate : Nat) (margin : Int) (h : Keeps s0 s) : Keeps s0 (trainedEvent rate margin s) := by
  unfold trainedEvent
  (repeat' split) <;> (repeat' first
    | with_reducible assumption | with_reducible apply stray_keeps | with_reducible apply trainedTaken_keeps)

theorem noTrainEvent_keeps (h : Keeps s0 s) : Keeps s0 (noTrainEvent s) := by
  unfold noTrainEvent
  (repeat' split) <;> (repeat' first
    | with_reducible assumption | with_reducible apply keeps_bump | with_reducible apply stray_keeps
    | with_reducible apply trainingFailed_keeps)

theorem syncLostEvent_keeps (h : Keeps s0 s) : Keeps s0 (syncLostEvent s) := by
  unfold syncLostEvent
  (repeat' split) <;> (repeat' first
    | with_reducible assumption | with_reducible apply stray_keeps | with_reducible apply startRide_keeps)

theorem syncBackEvent_keeps (h : Keeps s0 s) : Keeps s0 (syncBackEvent s) := by
  unfold syncBackEvent
  (repeat' split) <;> (repeat' first
    | with_reducible assumption | with_reducible apply stray_keeps | with_reducible apply endRide_keeps)

theorem marginEvent_keeps (margin : Int) (h : Keeps s0 s) : Keeps s0 (marginEvent margin s) := by
  unfold marginEvent
  (repeat' split) <;> (repeat' first
    | with_reducible assumption | with_reducible apply stray_keeps | with_reducible apply marginTaken_keeps)

theorem silentEvent_keeps (h : Keeps s0 s) : Keeps s0 (silentEvent s) := by
  unfold silentEvent
  (repeat' split) <;> (repeat' first
    | with_reducible assumption | with_reducible apply keeps_bump | with_reducible apply startRide_keeps)

theorem trainTimerEvent_keeps (h : Keeps s0 s) : Keeps s0 (trainTimerEvent s) := by
  unfold trainTimerEvent
  (repeat' split) <;> (repeat' first
    | with_reducible assumption | with_reducible apply keeps_bump | with_reducible apply trainingFailed_keeps)

theorem rideTimerEvent_keeps (h : Keeps s0 s) : Keeps s0 (rideTimerEvent s) := by
  unfold rideTimerEvent
  (repeat' split) <;> (repeat' first
    | with_reducible assumption | with_reducible apply rideFails_keeps)

theorem holdTimerEvent_keeps (h : Keeps s0 s) : Keeps s0 (holdTimerEvent s) := by
  unfold holdTimerEvent
  (repeat' split) <;> (repeat' first
    | with_reducible assumption | with_reducible apply holdExpires_keeps)

theorem backoffEvent_keeps (h : Keeps s0 s) : Keeps s0 (backoffEvent s) := by
  unfold backoffEvent
  (repeat' split) <;> (repeat' first
    | with_reducible assumption | with_reducible apply newRound_keeps)

theorem alertEvent_keeps (n : Slot) (h : Keeps s0 s) : Keeps s0 (alertEvent n s) := by
  unfold alertEvent
  (repeat' split) <;> (repeat' first
    | with_reducible assumption | with_reducible apply alertLimit_keeps)

theorem onHookEvent_keeps (p : Port) (h : Keeps s0 s) : Keeps s0 (onHookEvent p s) := by
  unfold onHookEvent
  (repeat' split) <;> (repeat' first
    | with_reducible assumption | with_reducible apply onHookFires_keeps)

theorem interdigitEvent_keeps (p : Port) (h : Keeps s0 s) : Keeps s0 (interdigitEvent p s) := by
  unfold interdigitEvent
  (repeat' split) <;> (repeat' first
    | with_reducible assumption | with_reducible apply interdigitFires_keeps)

theorem keeps_ifDue {due : State → Bool} {event : State → State} (h : Keeps s0 s)
    (he : ∀ u, Keeps s0 u → Keeps s0 (event u)) : Keeps s0 (ifDue due event s) := by
  unfold ifDue
  split
  · exact he _ h
  · exact h

theorem closeFrames_keeps (h : Keeps s0 s) : Keeps s0 (closeFrames s) := closeFrame_keeps _ (closeFrame_keeps _ h)

theorem uptimeSecond_keeps (h : Keeps s0 s) : Keeps s0 (uptimeSecond s) := by
  unfold uptimeSecond
  repeat' first
    | with_reducible assumption | with_reducible apply keeps_onFu | with_reducible apply mediaSecond_keeps
    | with_reducible apply gradeSecond_keeps | with_reducible rfl

theorem advance_keeps (h : Keeps s0 s) : Keeps s0 (advance s) := by
  unfold advance
  exact keeps_onTr (keeps_onCall (keeps_onCall (keeps_onPort (keeps_onPort (keeps_onLs h rfl rfl rfl)))
    (Nat.le_refl _)) (Nat.le_refl _))

theorem timerEvents_keeps (h : Keeps s0 s) : Keeps s0 (timerEvents s) := by
  unfold timerEvents
  repeat' first
    | with_reducible assumption | intro u hu | with_reducible apply keeps_ifDue
    | with_reducible apply testExpiry_keeps | with_reducible apply loopbackExpires_keeps
    | with_reducible apply silentEvent_keeps | with_reducible apply trainTimerEvent_keeps
    | with_reducible apply rideTimerEvent_keeps | with_reducible apply holdTimerEvent_keeps
    | with_reducible apply backoffEvent_keeps | with_reducible apply alertEvent_keeps

theorem powerTick_keeps (h : Keeps s0 s) : Keeps s0 (powerTick s) := by
  unfold powerTick
  repeat' first
    | with_reducible assumption | intro u hu | with_reducible apply keeps_onFu
    | with_reducible apply keeps_whenever | with_reducible apply powerChange_keeps | with_reducible rfl

theorem measureTick_keeps (p : Port) (h : Keeps s0 s) : Keeps s0 (measureTick p s) := by
  unfold measureTick
  dsimp only
  (repeat' split) <;> (repeat' first
    | with_reducible assumption | with_reducible apply keeps_onPort | with_reducible apply onHookEvent_keeps
    | with_reducible apply interdigitEvent_keeps)

theorem senseTick_keeps (p : Port) (h : Keeps s0 s) : Keeps s0 (senseTick p s) := by
  unfold senseTick
  dsimp only
  (repeat' split) <;> (repeat' first
    | with_reducible assumption | with_reducible apply keeps_onPort | with_reducible apply loopChange_keeps
    | with_reducible apply ringTrip_keeps | with_reducible apply measureTick_keeps)

theorem portTick_keeps (p : Port) (h : Keeps s0 s) : Keeps s0 (portTick p s) := by
  unfold portTick
  repeat' first
    | with_reducible assumption | intro u hu | with_reducible apply keeps_ifDue
    | with_reducible apply segmentEnd_keeps | with_reducible apply parkExpires_keeps
    | with_reducible apply senseTick_keeps

theorem periodTick_keeps (h : Keeps s0 s) : Keeps s0 (periodTick s) := by
  unfold periodTick
  (repeat' split) <;> (repeat' first
    | with_reducible assumption | with_reducible apply keeps_onClock | with_reducible apply periodStart_keeps)

theorem secondTick_keeps (h : Keeps s0 s) : Keeps s0 (secondTick s) := by
  unfold secondTick
  (repeat' split) <;> (repeat' first
    | with_reducible assumption | with_reducible apply keeps_onFu | with_reducible apply uptimeSecond_keeps
    | with_reducible rfl)

theorem tick_keeps (h : Keeps s0 s) : Keeps s0 (tick s) := by
  unfold tick
  repeat' first
    | with_reducible assumption | with_reducible apply keeps_onClock | with_reducible apply advance_keeps
    | with_reducible apply timerEvents_keeps | with_reducible apply powerTick_keeps
    | with_reducible apply portTick_keeps | with_reducible apply periodTick_keeps
    | with_reducible apply secondTick_keeps | with_reducible apply closeFrames_keeps

end Sys2Proof.Machine
end

