-- ==== Sys2Proof/Laws/RecordKeeps.lean ====
section
/-! SUPPORT. The relation "the budget record of `t` is within its ranges if that of `s` is" (R50), and the updates that keep
it. -/

namespace Sys2Proof.Machine

/-- The ranges of the budget record hold in `t` if they hold in `s`. -/
structure RecordKeeps (s t : State) : Prop where
  record : RecordOk s → RecordOk t

theorem RecordKeeps.refl (s : State) : RecordKeeps s s := ⟨id⟩

theorem RecordKeeps.trans {s t u : State} (h : RecordKeeps s t) (k : RecordKeeps t u) : RecordKeeps s u :=
  ⟨fun i => k.record (h.record i)⟩

variable {s0 s : State}

theorem recordOk_congr {s t : State} (h : t.lbu = s.lbu) (i : RecordOk s) : RecordOk t := by
  obtain ⟨a, b, c, d, e, f, g⟩ := i
  constructor <;> simp_all

theorem recordKeeps_same {t : State} (h : RecordKeeps s0 s) (h1 : t.lbu = s.lbu) : RecordKeeps s0 t :=
  h.trans ⟨recordOk_congr h1⟩

theorem recordKeeps_onLbu {f : Budget → Budget} (h : RecordKeeps s0 s) (h1 : (f s.lbu).rate = s.lbu.rate)
    (h2 : (f s.lbu).size = s.lbu.size) (h3 : (f s.lbu).eff = s.lbu.eff) (h4 : (f s.lbu).bitsCarry = s.lbu.bitsCarry)
    (h5 : (f s.lbu).blockCarry = s.lbu.blockCarry) (h6 : (f s.lbu).blocks = s.lbu.blocks)
    (h7 : (f s.lbu).floor = s.lbu.floor) (h8 : (f s.lbu).pendingFloor = s.lbu.pendingFloor) :
    RecordKeeps s0 (onLbu f s) := by
  refine h.trans ⟨?_⟩
  rintro ⟨a, b, c, d, e, f', g⟩
  constructor <;> simp_all

theorem recordKeeps_whenever {b : Bool} {f : State → State} (h : RecordKeeps s0 s)
    (hf : ∀ u, RecordKeeps s0 u → RecordKeeps s0 (f u)) : RecordKeeps s0 (whenever b f s) := by
  unfold whenever
  split
  · exact hf s h
  · exact h

theorem recordKeeps_ifDue {b : State → Bool} {f : State → State} (h : RecordKeeps s0 s)
    (hf : ∀ u, RecordKeeps s0 u → RecordKeeps s0 (f u)) : RecordKeeps s0 (ifDue b f s) := by
  unfold ifDue
  split
  · exact hf s h
  · exact h

theorem recordKeeps_bumpBy {c : Counter} {n : Nat} (h : RecordKeeps s0 s) : RecordKeeps s0 (bumpBy c n s) :=
  recordKeeps_same h (by simp)
theorem recordKeeps_bump {c : Counter} (h : RecordKeeps s0 s) : RecordKeeps s0 (bump c s) := recordKeeps_same h (by simp)
theorem recordKeeps_onBf {f : Framer → Framer} (h : RecordKeeps s0 s) : RecordKeeps s0 (onBf f s) := recordKeeps_same h rfl
theorem recordKeeps_onLs {f : Supervisor → Supervisor} (h : RecordKeeps s0 s) : RecordKeeps s0 (onLs f s) :=
  recordKeeps_same h rfl
theorem recordKeeps_onMe {f : MatchEngine → MatchEngine} (h : RecordKeeps s0 s) : RecordKeeps s0 (onMe f s) :=
  recordKeeps_same h rfl
theorem recordKeeps_onQm {f : QueueManager → QueueManager} (h : RecordKeeps s0 s) : RecordKeeps s0 (onQm f s) :=
  recordKeeps_same h rfl
theorem recordKeeps_onPpu {f : PhoneUnit → PhoneUnit} (h : RecordKeeps s0 s) : RecordKeeps s0 (onPpu f s) :=
  recordKeeps_same h rfl
theorem recordKeeps_onPort {p : Port} {f : PortUnit → PortUnit} (h : RecordKeeps s0 s) : RecordKeeps s0 (onPort p f s) :=
  recordKeeps_same h rfl
theorem recordKeeps_onCc {f : CallController → CallController} (h : RecordKeeps s0 s) : RecordKeeps s0 (onCc f s) :=
  recordKeeps_same h rfl
theorem recordKeeps_onCall {n : Slot} {f : CallSlot → CallSlot} (h : RecordKeeps s0 s) : RecordKeeps s0 (onCall n f s) :=
  recordKeeps_same h rfl
theorem recordKeeps_onChan {c : Chan} {f : Channel → Channel} (h : RecordKeeps s0 s) : RecordKeeps s0 (onChan c f s) :=
  recordKeeps_same h rfl
theorem recordKeeps_onMdu {f : MediaUnit → MediaUnit} (h : RecordKeeps s0 s) : RecordKeeps s0 (onMdu f s) :=
  recordKeeps_same h rfl
theorem recordKeeps_onMedia {n : Slot} {f : MediaSlot → MediaSlot} (h : RecordKeeps s0 s) : RecordKeeps s0 (onMedia n f s) :=
  recordKeeps_same h rfl
theorem recordKeeps_onMediaPort {p : Port} {f : MediaPort → MediaPort} (h : RecordKeeps s0 s) :
    RecordKeeps s0 (onMediaPort p f s) := recordKeeps_same h rfl
theorem recordKeeps_onFu {f : FaultUnit → FaultUnit} (h : RecordKeeps s0 s) : RecordKeeps s0 (onFu f s) :=
  recordKeeps_same h rfl
theorem recordKeeps_onDu {f : DirectiveUnit → DirectiveUnit} (h : RecordKeeps s0 s) : RecordKeeps s0 (onDu f s) :=
  recordKeeps_same h rfl
theorem recordKeeps_onTr {f : TestResponder → TestResponder} (h : RecordKeeps s0 s) : RecordKeeps s0 (onTr f s) :=
  recordKeeps_same h rfl
theorem recordKeeps_onClock {f : Clock → Clock} (h : RecordKeeps s0 s) : RecordKeeps s0 (onClock f s) :=
  recordKeeps_same h rfl
theorem recordKeeps_onOut {f : Outputs → Outputs} (h : RecordKeeps s0 s) : RecordKeeps s0 (onOut f s) :=
  recordKeeps_same h rfl

end Sys2Proof.Machine
end

