-- ==== Sys2Proof/Laws/RecordKeepsA.lean ====
section
/-! SUPPORT. Each operation of Machine/Ops.lean to Machine/Phone.lean keeps the invariants of Laws/RecordKeeps.lean. One lemma per
operation. -/

namespace Sys2Proof.Machine

variable {s0 s : State}

theorem setParam_recordKeeps (p : Param) (v : Nat) (h : RecordKeeps s0 s) : RecordKeeps s0 (setParam p v s) :=
  recordKeeps_same h (by simp)

theorem onList_recordKeeps (a : Authority) (f : List PendingItem → List PendingItem) (h : RecordKeeps s0 s) : RecordKeeps s0 (onList a f s) :=
  recordKeeps_same h (by simp)

theorem occurrence_recordKeeps (k : FaultKind) (detail : Nat) (h : RecordKeeps s0 s) : RecordKeeps s0 (occurrence k detail s) :=
  recordKeeps_same h (by simp)

theorem endCondition_recordKeeps (k : FaultKind) (h : RecordKeeps s0 s) : RecordKeeps s0 (endCondition k s) :=
  recordKeeps_same h (by simp)

theorem noticeDone_recordKeeps (k : FaultKind) (carried : Nat) (h : RecordKeeps s0 s) : RecordKeeps s0 (noticeDone k carried s) :=
  recordKeeps_same h (by simp)

theorem emitOn_recordKeeps (c : Chan) (kind : BlockKind) (urgent : Bool) (used : Nat) (frameNo : Byte) (payload : Bytes) (h : RecordKeeps s0 s) : RecordKeeps s0 (emitOn c kind urgent used frameNo payload s) :=
  recordKeeps_same h (by simp)

theorem dropSeg_recordKeeps (c : Chan) (h : RecordKeeps s0 s) : RecordKeeps s0 (dropSeg c s) :=
  recordKeeps_same h (by simp)

theorem cutShort_recordKeeps (c : Chan) (removed : Source → Bool) (h : RecordKeeps s0 s) : RecordKeeps s0 (cutShort c removed s) :=
  recordKeeps_same h (by simp)

theorem abandon_recordKeeps (c : Chan) (cause : LossCause) (h : RecordKeeps s0 s) : RecordKeeps s0 (abandon c cause s) :=
  recordKeeps_same h (by simp)

theorem abandonAll_recordKeeps (h : RecordKeeps s0 s) : RecordKeeps s0 (abandonAll s) :=
  recordKeeps_same h (by simp)

theorem dropAllSegs_recordKeeps (h : RecordKeeps s0 s) : RecordKeeps s0 (dropAllSegs s) :=
  recordKeeps_same h (by simp)

theorem endLoopback_recordKeeps (h : RecordKeeps s0 s) : RecordKeeps s0 (endLoopback s) :=
  recordKeeps_same h (by simp)

theorem storeLooped_recordKeeps (b : Looped) (h : RecordKeeps s0 s) : RecordKeeps s0 (storeLooped b s) :=
  recordKeeps_same h (by simp)

theorem countAdmission_recordKeeps (granted : Bool) (h : RecordKeeps s0 s) : RecordKeeps s0 (countAdmission granted s) :=
  recordKeeps_same h (by simp)

theorem refuseAdmission_recordKeeps (needs : Nat) (h : RecordKeeps s0 s) : RecordKeeps s0 (refuseAdmission needs s) :=
  recordKeeps_same h (by simp)

theorem floorCheck_recordKeeps (h : RecordKeeps s0 s) : RecordKeeps s0 (floorCheck s) := by
  unfold floorCheck
  split
  · rename_i d hd
    split
    · exact h.trans ⟨fun i => ⟨i.rate, i.eff, i.bitsCarry, i.blockCarry, i.blocks, i.pendingFloor d hd, by simp⟩⟩
    · exact h
  · exact h

theorem followCall_recordKeeps (n : Slot) (h : RecordKeeps s0 s) : RecordKeeps s0 (followCall n s) :=
  recordKeeps_same h (by simp)

theorem mediaArrives_recordKeeps (n : Slot) (frame : Bytes) (h : RecordKeeps s0 s) : RecordKeeps s0 (mediaArrives n frame s) :=
  recordKeeps_same h (by simp)

theorem mediaPeriod_recordKeeps (n : Slot) (h : RecordKeeps s0 s) : RecordKeeps s0 (mediaPeriod n s) :=
  recordKeeps_same h (by simp)

theorem mediaSecond_recordKeeps (h : RecordKeeps s0 s) : RecordKeeps s0 (mediaSecond s) :=
  recordKeeps_same h (by simp)

theorem sendHalt_recordKeeps (h : RecordKeeps s0 s) : RecordKeeps s0 (sendHalt s) :=
  recordKeeps_same h (by simp)

theorem sendTrain_recordKeeps (i : Fin 8) (h : RecordKeeps s0 s) : RecordKeeps s0 (sendTrain i s) :=
  recordKeeps_same h (by simp)

theorem enterLink_recordKeeps (new : LinkState) (h : RecordKeeps s0 s) : RecordKeeps s0 (enterLink new s) :=
  recordKeeps_same h (by simp)

theorem dropClaim_recordKeeps (h : RecordKeeps s0 s) : RecordKeeps s0 (dropClaim s) := by
  unfold dropClaim
  (repeat' split) <;> (repeat' first
    | with_reducible assumption | with_reducible apply recordKeeps_onLbu | with_reducible apply recordKeeps_bump
    | with_reducible rfl)

theorem leaveCarrying_recordKeeps (h : RecordKeeps s0 s) : RecordKeeps s0 (leaveCarrying s) := by
  unfold leaveCarrying
  repeat' first
    | with_reducible assumption | with_reducible apply recordKeeps_onLs
    | with_reducible apply endCondition_recordKeeps | with_reducible apply abandonAll_recordKeeps
    | with_reducible apply dropAllSegs_recordKeeps | with_reducible apply endLoopback_recordKeeps
    | with_reducible apply dropClaim_recordKeeps

theorem stepUpTo_recordKeeps (i : Fin 8) (h : RecordKeeps s0 s) : RecordKeeps s0 (stepUpTo i s) := by
  unfold stepUpTo
  repeat' first
    | with_reducible assumption | with_reducible apply recordKeeps_bump | with_reducible apply sendHalt_recordKeeps
    | with_reducible apply sendTrain_recordKeeps | with_reducible apply enterLink_recordKeeps
    | with_reducible apply leaveCarrying_recordKeeps

theorem lastSlotFree_recordKeeps (h : RecordKeeps s0 s) : RecordKeeps s0 (lastSlotFree s) := by
  unfold lastSlotFree
  (repeat' split) <;> (repeat' first
    | with_reducible assumption | with_reducible apply recordKeeps_onLs
    | with_reducible apply enterLink_recordKeeps | with_reducible apply stepUpTo_recordKeeps)

theorem toReleased_recordKeeps (p : Port) (h : RecordKeeps s0 s) : RecordKeeps s0 (toReleased p s) :=
  recordKeeps_same h (by simp)

theorem toIdle_recordKeeps (p : Port) (h : RecordKeeps s0 s) : RecordKeeps s0 (toIdle p s) :=
  recordKeeps_same h (by simp)

theorem leftParked_recordKeeps (h : RecordKeeps s0 s) : RecordKeeps s0 (leftParked s) :=
  recordKeeps_same h (by simp)

theorem unpair_recordKeeps (p : Port) (h : RecordKeeps s0 s) : RecordKeeps s0 (unpair p s) :=
  recordKeeps_same h (by simp)

theorem stopRinging_recordKeeps (p : Port) (h : RecordKeeps s0 s) : RecordKeeps s0 (stopRinging p s) :=
  recordKeeps_same h (by simp)

theorem ringPorts_recordKeeps (ports : PortSet) (cad : Fin 8) (group : Bool) (h : RecordKeeps s0 s) : RecordKeeps s0 (ringPorts ports cad group s).1 :=
  recordKeeps_same h (by simp)

theorem segmentEnd_recordKeeps (p : Port) (h : RecordKeeps s0 s) : RecordKeeps s0 (segmentEnd p s) :=
  recordKeeps_same h (by simp)

end Sys2Proof.Machine
end

