-- ==== Sys2Proof/Laws/RecordKeepsB.lean ====
section
/-! SUPPORT. Each operation of Machine/Calls.lean to Machine/Resets.lean keeps the invariants of Laws/RecordKeeps.lean. One lemma per
operation. -/

namespace Sys2Proof.Machine

variable {s0 s : State}

theorem queueSignal_recordKeeps (n : Slot) (g : Signal) (h : RecordKeeps s0 s) : RecordKeeps s0 (queueSignal n g s) :=
  recordKeeps_same h (by simp)

theorem occupy_recordKeeps (n : Slot) (st : SlotState) (dir : CallDir) (h : RecordKeeps s0 s) : RecordKeeps s0 (occupy n st dir s) :=
  recordKeeps_same h (by simp)

theorem freeSlot_recordKeeps (n : Slot) (cause : Cause) (h : RecordKeeps s0 s) : RecordKeeps s0 (freeSlot n cause s) := by
  unfold freeSlot
  repeat' first
    | with_reducible assumption | with_reducible apply recordKeeps_onCall
    | with_reducible apply floorCheck_recordKeeps | with_reducible apply followCall_recordKeeps

theorem reportIfIdle_recordKeeps (h : RecordKeeps s0 s) : RecordKeeps s0 (reportIfIdle s) := by
  unfold reportIfIdle
  (repeat' split) <;> (repeat' first
    | with_reducible assumption | with_reducible apply lastSlotFree_recordKeeps)

theorem takeIfLifted_recordKeeps (p : Port) (h : RecordKeeps s0 s) : RecordKeeps s0 (takeIfLifted p s) :=
  recordKeeps_same h (by simp)

theorem takeLifted_recordKeeps (ports : PortSet) (h : RecordKeeps s0 s) : RecordKeeps s0 (takeLifted ports s) :=
  recordKeeps_same h (by simp)

theorem stopAll_recordKeeps (ports : PortSet) (h : RecordKeeps s0 s) : RecordKeeps s0 (stopAll ports s) :=
  recordKeeps_same h (by simp)

theorem releaseAll_recordKeeps (ports : PortSet) (h : RecordKeeps s0 s) : RecordKeeps s0 (releaseAll ports s) :=
  recordKeeps_same h (by simp)

theorem refuseAlert_recordKeeps (n : Slot) (cause : Cause) (h : RecordKeeps s0 s) : RecordKeeps s0 (refuseAlert n cause s) :=
  recordKeeps_same h (by simp)

theorem alertRings_recordKeeps (n : Slot) (ports : PortSet) (cad : Fin 8) (group : Bool) (h : RecordKeeps s0 s) : RecordKeeps s0 (alertRings n ports cad group s) := by
  unfold alertRings
  dsimp only
  (repeat' split) <;> (repeat' first
    | with_reducible assumption | with_reducible apply recordKeeps_onCall | with_reducible apply recordKeeps_bump
    | with_reducible apply followCall_recordKeeps | with_reducible apply ringPorts_recordKeeps
    | with_reducible apply occupy_recordKeeps | with_reducible apply freeSlot_recordKeeps
    | with_reducible apply reportIfIdle_recordKeeps | with_reducible apply refuseAlert_recordKeeps)

theorem alert_recordKeeps (n : Slot) (cadence : Nat) (ports : PortSet) (group : Bool) (h : RecordKeeps s0 s) : RecordKeeps s0 (alert n cadence ports group s) := by
  unfold alert
  (repeat' split) <;> (repeat' first
    | with_reducible assumption | with_reducible apply countAdmission_recordKeeps
    | with_reducible apply refuseAdmission_recordKeeps | with_reducible apply refuseAlert_recordKeeps
    | with_reducible apply alertRings_recordKeeps)

theorem leaveRingSet_recordKeeps (p : Port) (cause : Cause) (h : RecordKeeps s0 s) : RecordKeeps s0 (leaveRingSet p cause s) := by
  unfold leaveRingSet
  dsimp only
  (repeat' split) <;> (repeat' first
    | with_reducible assumption | with_reducible apply recordKeeps_onCall
    | with_reducible apply queueSignal_recordKeeps | with_reducible apply freeSlot_recordKeeps
    | with_reducible apply reportIfIdle_recordKeeps)

theorem alertLimit_recordKeeps (n : Slot) (h : RecordKeeps s0 s) : RecordKeeps s0 (alertLimit n s) := by
  unfold alertLimit
  repeat' first
    | with_reducible assumption | with_reducible apply recordKeeps_bump
    | with_reducible apply queueSignal_recordKeeps | with_reducible apply freeSlot_recordKeeps
    | with_reducible apply reportIfIdle_recordKeeps | with_reducible apply takeLifted_recordKeeps
    | with_reducible apply stopAll_recordKeeps

theorem cancel_recordKeeps (n : Slot) (h : RecordKeeps s0 s) : RecordKeeps s0 (cancel n s) := by
  unfold cancel
  repeat' first
    | with_reducible assumption | with_reducible apply freeSlot_recordKeeps
    | with_reducible apply reportIfIdle_recordKeeps | with_reducible apply takeLifted_recordKeeps
    | with_reducible apply stopAll_recordKeeps

theorem connect_recordKeeps (n : Slot) (h : RecordKeeps s0 s) : RecordKeeps s0 (connect n s) :=
  recordKeeps_same h (by simp)

theorem release_recordKeeps (n : Slot) (code : Nat) (h : RecordKeeps s0 s) : RecordKeeps s0 (release n code s) := by
  unfold release
  repeat' first
    | with_reducible assumption | with_reducible apply freeSlot_recordKeeps
    | with_reducible apply reportIfIdle_recordKeeps | with_reducible apply takeLifted_recordKeeps
    | with_reducible apply stopAll_recordKeeps | with_reducible apply releaseAll_recordKeeps

theorem ignoreSignal_recordKeeps (h : RecordKeeps s0 s) : RecordKeeps s0 (ignoreSignal s) :=
  recordKeeps_same h (by simp)

theorem signalArrives_recordKeeps (n : Slot) (frame : Bytes) (h : RecordKeeps s0 s) : RecordKeeps s0 (signalArrives n frame s) := by
  unfold signalArrives
  dsimp only
  (repeat' split) <;> (repeat' first
    | with_reducible assumption | with_reducible apply recordKeeps_bump
    | with_reducible apply refuseAlert_recordKeeps | with_reducible apply alert_recordKeeps
    | with_reducible apply cancel_recordKeeps | with_reducible apply connect_recordKeeps
    | with_reducible apply release_recordKeeps | with_reducible apply ignoreSignal_recordKeeps)

theorem detach_recordKeeps (p : Port) (h : RecordKeeps s0 s) : RecordKeeps s0 (detach p s) := by
  unfold detach
  dsimp only
  (repeat' split) <;> (repeat' first
    | with_reducible assumption | with_reducible apply recordKeeps_onCall
    | with_reducible apply queueSignal_recordKeeps | with_reducible apply freeSlot_recordKeeps
    | with_reducible apply reportIfIdle_recordKeeps)

theorem holdSlots_recordKeeps (h : RecordKeeps s0 s) : RecordKeeps s0 (holdSlots s) :=
  recordKeeps_same h (by simp)

theorem cutSlot_recordKeeps (n : Slot) (h : RecordKeeps s0 s) : RecordKeeps s0 (cutSlot n s) := by
  unfold cutSlot
  repeat' first
    | with_reducible assumption | with_reducible apply recordKeeps_bump
    | with_reducible apply occurrence_recordKeeps | with_reducible apply queueSignal_recordKeeps
    | with_reducible apply freeSlot_recordKeeps | with_reducible apply reportIfIdle_recordKeeps
    | with_reducible apply takeLifted_recordKeeps | with_reducible apply stopAll_recordKeeps
    | with_reducible apply releaseAll_recordKeeps

theorem preemptOnce_recordKeeps (h : RecordKeeps s0 s) : RecordKeeps s0 (preemptOnce s) := by
  unfold preemptOnce
  (repeat' split) <;> (repeat' first
    | with_reducible assumption | with_reducible apply cutSlot_recordKeeps)

theorem preempt_recordKeeps (h : RecordKeeps s0 s) : RecordKeeps s0 (preempt s) := by
  unfold preempt
  repeat' first
    | with_reducible assumption | with_reducible apply preemptOnce_recordKeeps

theorem refreshSlot_recordKeeps (n : Slot) (h : RecordKeeps s0 s) : RecordKeeps s0 (refreshSlot n s) :=
  recordKeeps_same h (by simp)

theorem endHold_recordKeeps (n : Slot) (h : RecordKeeps s0 s) : RecordKeeps s0 (endHold n s) :=
  recordKeeps_same h (by simp)

theorem lineReturns_recordKeeps (h : RecordKeeps s0 s) : RecordKeeps s0 (lineReturns s) := by
  unfold lineReturns
  repeat' first
    | with_reducible assumption | with_reducible apply preempt_recordKeeps
    | with_reducible apply refreshSlot_recordKeeps | with_reducible apply endHold_recordKeeps

theorem dropSlot_recordKeeps (n : Slot) (h : RecordKeeps s0 s) : RecordKeeps s0 (dropSlot n s) := by
  unfold dropSlot
  (repeat' split) <;> (repeat' first
    | with_reducible assumption | with_reducible apply recordKeeps_onCall | with_reducible apply recordKeeps_bumpBy
    | with_reducible apply recordKeeps_bump | with_reducible apply occurrence_recordKeeps
    | with_reducible apply cutShort_recordKeeps | with_reducible apply freeSlot_recordKeeps
    | with_reducible apply takeLifted_recordKeeps | with_reducible apply stopAll_recordKeeps
    | with_reducible apply releaseAll_recordKeeps)

theorem dropAll_recordKeeps (h : RecordKeeps s0 s) : RecordKeeps s0 (dropAll s) := by
  unfold dropAll
  repeat' first
    | with_reducible assumption | with_reducible apply dropSlot_recordKeeps

theorem probeArrives_recordKeeps (frame : Bytes) (h : RecordKeeps s0 s) : RecordKeeps s0 (probeArrives frame s) :=
  recordKeeps_same h (by simp)

theorem endProbe_recordKeeps (h : RecordKeeps s0 s) : RecordKeeps s0 (endProbe s) :=
  recordKeeps_same h (by simp)

theorem testExpiry_recordKeeps (h : RecordKeeps s0 s) : RecordKeeps s0 (testExpiry s) :=
  recordKeeps_same h (by simp)

theorem testOnHook_recordKeeps (p : Port) (h : RecordKeeps s0 s) : RecordKeeps s0 (testOnHook p s) :=
  recordKeeps_same h (by simp)

theorem testPowerLimited_recordKeeps (p : Port) (h : RecordKeeps s0 s) : RecordKeeps s0 (testPowerLimited p s) :=
  recordKeeps_same h (by simp)

theorem batteryLow_recordKeeps (detail : Nat) (h : RecordKeeps s0 s) : RecordKeeps s0 (batteryLow detail s) := by
  unfold batteryLow
  repeat' first
    | with_reducible assumption | intro u hu | with_reducible apply recordKeeps_onLbu
    | with_reducible apply recordKeeps_onFu | with_reducible apply recordKeeps_whenever
    | with_reducible apply occurrence_recordKeeps | with_reducible rfl

theorem mainsLost_recordKeeps (detail : Nat) (h : RecordKeeps s0 s) : RecordKeeps s0 (mainsLost detail s) :=
  recordKeeps_same h (by simp)

theorem powerConditions_recordKeeps (old new : PowerState) (h : RecordKeeps s0 s) : RecordKeeps s0 (powerConditions old new s) := by
  unfold powerConditions
  (repeat' split) <;> (repeat' first
    | with_reducible assumption | with_reducible apply endCondition_recordKeeps
    | with_reducible apply batteryLow_recordKeeps | with_reducible apply mainsLost_recordKeeps)

theorem shedBulk_recordKeeps (h : RecordKeeps s0 s) : RecordKeeps s0 (shedBulk s) :=
  recordKeeps_same h (by simp)

theorem limitRinger_recordKeeps (h : RecordKeeps s0 s) : RecordKeeps s0 (limitRinger s) := by
  unfold limitRinger
  (repeat' split) <;> (repeat' first
    | with_reducible assumption | with_reducible apply occurrence_recordKeeps
    | with_reducible apply stopRinging_recordKeeps | with_reducible apply takeIfLifted_recordKeeps
    | with_reducible apply leaveRingSet_recordKeeps | with_reducible apply testPowerLimited_recordKeeps)

theorem powerChange_recordKeeps (mains low : Bool) (h : RecordKeeps s0 s) : RecordKeeps s0 (powerChange mains low s) := by
  unfold powerChange
  dsimp only
  (repeat' split) <;> (repeat' first
    | with_reducible assumption | intro u hu | with_reducible apply recordKeeps_onFu
    | with_reducible apply recordKeeps_bump | with_reducible apply recordKeeps_whenever
    | with_reducible apply powerConditions_recordKeeps | with_reducible apply shedBulk_recordKeeps
    | with_reducible apply limitRinger_recordKeeps)

theorem loopChange_recordKeeps (p : Port) (h : RecordKeeps s0 s) : RecordKeeps s0 (loopChange p s) :=
  recordKeeps_same h (by simp)

theorem ringTrip_recordKeeps (p : Port) (h : RecordKeeps s0 s) : RecordKeeps s0 (ringTrip p s) :=
  recordKeeps_same h (by simp)

theorem onHookTaken_recordKeeps (p : Port) (h : RecordKeeps s0 s) : RecordKeeps s0 (onHookTaken p s) := by
  unfold onHookTaken
  (repeat' split) <;> (repeat' first
    | with_reducible assumption | with_reducible apply toIdle_recordKeeps
    | with_reducible apply leftParked_recordKeeps | with_reducible apply detach_recordKeeps
    | with_reducible apply testOnHook_recordKeeps)

theorem onHookFires_recordKeeps (p : Port) (h : RecordKeeps s0 s) : RecordKeeps s0 (onHookFires p s) := by
  unfold onHookFires
  repeat' first
    | with_reducible assumption | intro u hu | with_reducible apply recordKeeps_onPort
    | with_reducible apply recordKeeps_bump | with_reducible apply recordKeeps_whenever
    | with_reducible apply onHookTaken_recordKeeps

theorem parkExpires_recordKeeps (p : Port) (h : RecordKeeps s0 s) : RecordKeeps s0 (parkExpires p s) :=
  recordKeeps_same h (by simp)

theorem toDisabled_recordKeeps (p : Port) (h : RecordKeeps s0 s) : RecordKeeps s0 (toDisabled p s) :=
  recordKeeps_same h (by simp)

theorem disablePort_recordKeeps (p : Port) (h : RecordKeeps s0 s) : RecordKeeps s0 (disablePort p s) := by
  unfold disablePort
  (repeat' split) <;> (repeat' first
    | with_reducible assumption | with_reducible apply leftParked_recordKeeps
    | with_reducible apply unpair_recordKeeps | with_reducible apply leaveRingSet_recordKeeps
    | with_reducible apply detach_recordKeeps | with_reducible apply toDisabled_recordKeeps)

theorem enablePort_recordKeeps (p : Port) (h : RecordKeeps s0 s) : RecordKeeps s0 (enablePort p s) :=
  recordKeeps_same h (by simp)

theorem releasePortAct_recordKeeps (p : Port) (h : RecordKeeps s0 s) : RecordKeeps s0 (releasePortAct p s) := by
  unfold releasePortAct
  (repeat' split) <;> (repeat' first
    | with_reducible assumption | with_reducible apply toReleased_recordKeeps
    | with_reducible apply stopRinging_recordKeeps | with_reducible apply takeIfLifted_recordKeeps
    | with_reducible apply leaveRingSet_recordKeeps | with_reducible apply detach_recordKeeps)

theorem stray_recordKeeps (h : RecordKeeps s0 s) : RecordKeeps s0 (stray s) :=
  recordKeeps_same h (by simp)

theorem enterTraining_recordKeeps (h : RecordKeeps s0 s) : RecordKeeps s0 (enterTraining s) :=
  recordKeeps_same h (by simp)

theorem startLine_recordKeeps (h : RecordKeeps s0 s) : RecordKeeps s0 (startLine s) :=
  recordKeeps_same h (by simp)

theorem newRound_recordKeeps (h : RecordKeeps s0 s) : RecordKeeps s0 (newRound s) :=
  recordKeeps_same h (by simp)

theorem enterWaiting_recordKeeps (h : RecordKeeps s0 s) : RecordKeeps s0 (enterWaiting s) := by
  unfold enterWaiting
  repeat' first
    | with_reducible assumption | with_reducible apply recordKeeps_onLs | with_reducible apply recordKeeps_bump
    | with_reducible apply occurrence_recordKeeps | with_reducible apply sendHalt_recordKeeps
    | with_reducible apply enterLink_recordKeeps | with_reducible apply dropAll_recordKeeps

theorem trainingFailed_recordKeeps (halt : Bool) (h : RecordKeeps s0 s) : RecordKeeps s0 (trainingFailed halt s) := by
  unfold trainingFailed
  (repeat' split) <;> (repeat' first
    | with_reducible assumption | intro u hu | with_reducible apply recordKeeps_whenever
    | with_reducible apply sendHalt_recordKeeps | with_reducible apply sendTrain_recordKeeps
    | with_reducible apply enterWaiting_recordKeeps)

theorem startCarrying_recordKeeps (h : RecordKeeps s0 s) : RecordKeeps s0 (startCarrying s) :=
  recordKeeps_same h (by simp)

theorem copyFloor_recordOk (h : s.param .dataFloor ≤ 8) (i : RecordOk s) : RecordOk (copyFloor s) :=
  ⟨i.rate, i.eff, i.bitsCarry, i.blockCarry, i.blocks, h, by simp [copyFloor, onLbu]⟩

/-- The budget staged on an entry to CARRYING by training lies in its ranges, the rate and the rung being in theirs. -/
theorem enterCarrying_recordOk (rate : Nat) (margin : Int) (h : s.param .dataFloor ≤ 8) (h1 : 32 ≤ rate) (h2 : rate ≤ 16383)
    (h3 : 256 ≤ (vget s.ls.profile s.ls.rung).eff ∧ (vget s.ls.profile s.ls.rung).eff ≤ 512) (i : RecordOk s) :
    RecordOk (enterCarrying rate margin s) := by
  have h0 : ∀ v u : State, v.lbu = u.lbu → RecordOk u → RecordOk (lineReturns v) := fun v u e k =>
    (lineReturns_recordKeeps (recordKeeps_same (RecordKeeps.refl u) e)).record k
  unfold enterCarrying stageBudget
  dsimp only
  refine h0 _ (copyFloor (onLbu (fun b =>
    { b with rate := rate, size := (vget s.ls.profile s.ls.rung).size, eff := (vget s.ls.profile s.ls.rung).eff,
             bitsCarry := 0, blockCarry := 0 }) s)) ?_ ?_
  · simp [copyFloor, startCarrying, State.param]
  · refine copyFloor_recordOk h ⟨.inr ⟨h1, h2⟩, h3, by simp, ?_, i.blocks, i.floor, i.pendingFloor⟩
    show 0 < 8 * (vget s.ls.profile s.ls.rung).size.bytes
    cases (vget s.ls.profile s.ls.rung).size <;> decide

theorem trainedTaken_recordOk (rate : Nat) (margin : Int) (hs : SettingsOk s) (i : RecordOk s) :
    RecordOk (trainedTaken rate margin s) := by
  have hr := hs.rungs s.ls.rung
  obtain ⟨h1, h2, h3, h4, -, -⟩ := hr
  have hf : 32 ≤ s.param .floorRate := (hs.params .floorRate).1
  have hd : s.param .dataFloor ≤ 8 := (hs.params .dataFloor).2
  unfold trainedTaken
  dsimp only
  have hw : ∀ b, (whenever b (bump Ctr.ratesClamped) s).param .floorRate = s.param .floorRate ∧
      (whenever b (bump Ctr.ratesClamped) s).param .dataFloor = s.param .dataFloor ∧
      (whenever b (bump Ctr.ratesClamped) s).ls = s.ls ∧ (whenever b (bump Ctr.ratesClamped) s).lbu = s.lbu := by
    intro b
    cases b <;> exact ⟨rfl, rfl, rfl, rfl⟩
  obtain ⟨w1, w2, w3, w4⟩ := hw (decide ((vget s.ls.profile s.ls.rung).cap < rate))
  split
  · exact (trainingFailed_recordKeeps false (recordKeeps_bump (recordKeeps_bump (RecordKeeps.refl _)))).record
      (recordOk_congr w4 i)
  · rename_i hn
    refine enterCarrying_recordOk _ _ (by rw [w2]; exact hd) ?_ ?_ (by rw [w3]; exact ⟨h3, h4⟩) (recordOk_congr w4 i)
    · rw [w1] at hn
      omega
    · exact Nat.le_trans (Nat.min_le_right _ _) h2

theorem rideFails_recordKeeps (h : RecordKeeps s0 s) : RecordKeeps s0 (rideFails s) :=
  recordKeeps_same h (by simp)

theorem startRide_recordKeeps (h : RecordKeeps s0 s) : RecordKeeps s0 (startRide s) := by
  unfold startRide
  dsimp only
  (repeat' split) <;> (repeat' first
    | with_reducible assumption | with_reducible apply recordKeeps_onLs | with_reducible apply recordKeeps_bump
    | with_reducible apply enterLink_recordKeeps | with_reducible apply leaveCarrying_recordKeeps
    | with_reducible apply holdSlots_recordKeeps | with_reducible apply rideFails_recordKeeps)

theorem endRide_recordOk (h : s.param .dataFloor ≤ 8) (i : RecordOk s) : RecordOk (endRide s) := by
  have h0 : ∀ v u : State, v.lbu = u.lbu → RecordOk u → RecordOk (lineReturns v) := fun v u e k =>
    (lineReturns_recordKeeps (recordKeeps_same (RecordKeeps.refl u) e)).record k
  unfold endRide
  refine h0 _ (copyFloor s) ?_ (copyFloor_recordOk h i)
  simp [copyFloor, startCarrying, State.param]

theorem holdExpires_recordKeeps (h : RecordKeeps s0 s) : RecordKeeps s0 (holdExpires s) := by
  unfold holdExpires
  repeat' first
    | with_reducible assumption | with_reducible apply recordKeeps_onLs | with_reducible apply recordKeeps_bump
    | with_reducible apply enterLink_recordKeeps | with_reducible apply dropAll_recordKeeps

theorem stepDownTo_recordKeeps (i : Fin 8) (h : RecordKeeps s0 s) : RecordKeeps s0 (stepDownTo i s) := by
  unfold stepDownTo
  repeat' first
    | with_reducible assumption | with_reducible apply recordKeeps_bump
    | with_reducible apply occurrence_recordKeeps | with_reducible apply sendHalt_recordKeeps
    | with_reducible apply sendTrain_recordKeeps | with_reducible apply leaveCarrying_recordKeeps
    | with_reducible apply enterTraining_recordKeeps

theorem askStepDown_recordKeeps (h : RecordKeeps s0 s) : RecordKeeps s0 (askStepDown s) := by
  unfold askStepDown
  (repeat' split) <;> (repeat' first
    | with_reducible assumption | with_reducible apply stepDownTo_recordKeeps)

theorem evalSevere_recordKeeps (h : RecordKeeps s0 s) : RecordKeeps s0 (evalSevere s) := by
  unfold evalSevere
  dsimp only
  (repeat' split) <;> (repeat' first
    | with_reducible assumption | with_reducible apply occurrence_recordKeeps
    | with_reducible apply endCondition_recordKeeps | with_reducible apply askStepDown_recordKeeps)

theorem evalStepUp_recordKeeps (h : RecordKeeps s0 s) : RecordKeeps s0 (evalStepUp s) := by
  unfold evalStepUp
  (repeat' split) <;> (repeat' first
    | with_reducible assumption | with_reducible apply recordKeeps_onLs | with_reducible apply stepUpTo_recordKeeps)

theorem gradeSecond_recordKeeps (h : RecordKeeps s0 s) : RecordKeeps s0 (gradeSecond s) := by
  unfold gradeSecond
  (repeat' split) <;> (repeat' first
    | with_reducible assumption | with_reducible apply recordKeeps_onLs
    | with_reducible apply evalSevere_recordKeeps | with_reducible apply evalStepUp_recordKeeps)

theorem marginTaken_recordKeeps (margin : Int) (h : RecordKeeps s0 s) : RecordKeeps s0 (marginTaken margin s) := by
  unfold marginTaken
  dsimp only
  (repeat' split) <;> (repeat' first
    | with_reducible assumption | with_reducible apply recordKeeps_onLs
    | with_reducible apply occurrence_recordKeeps | with_reducible apply endCondition_recordKeeps
    | with_reducible apply askStepDown_recordKeeps)

theorem stopLine_recordKeeps (h : RecordKeeps s0 s) : RecordKeeps s0 (stopLine s) := by
  unfold stopLine
  repeat' first
    | with_reducible assumption | intro u hu | with_reducible apply recordKeeps_onLs
    | with_reducible apply recordKeeps_whenever | with_reducible apply endCondition_recordKeeps
    | with_reducible apply sendHalt_recordKeeps | with_reducible apply enterLink_recordKeeps
    | with_reducible apply leaveCarrying_recordKeeps | with_reducible apply dropAll_recordKeeps
    | with_reducible apply endProbe_recordKeeps

theorem retrainFromUp_recordKeeps (h : RecordKeeps s0 s) : RecordKeeps s0 (retrainFromUp s) := by
  unfold retrainFromUp
  repeat' first
    | with_reducible assumption | intro u hu | with_reducible apply recordKeeps_onLs
    | with_reducible apply recordKeeps_whenever | with_reducible apply occurrence_recordKeeps
    | with_reducible apply sendHalt_recordKeeps | with_reducible apply sendTrain_recordKeeps
    | with_reducible apply leaveCarrying_recordKeeps | with_reducible apply enterTraining_recordKeeps

theorem retrain_recordKeeps (h : RecordKeeps s0 s) : RecordKeeps s0 (retrain s) := by
  unfold retrain
  (repeat' split) <;> (repeat' first
    | with_reducible assumption | with_reducible apply sendHalt_recordKeeps
    | with_reducible apply sendTrain_recordKeeps | with_reducible apply newRound_recordKeeps
    | with_reducible apply retrainFromUp_recordKeeps)

theorem loopbackExpires_recordKeeps (h : RecordKeeps s0 s) : RecordKeeps s0 (loopbackExpires s) :=
  recordKeeps_same h (by simp)

theorem upstream_recordKeeps (f : Bytes) (h : RecordKeeps s0 s) : RecordKeeps s0 (upstream f s) :=
  recordKeeps_same h (by simp)

theorem downstream_recordKeeps (f : Bytes) (h : RecordKeeps s0 s) : RecordKeeps s0 (downstream f s) :=
  recordKeeps_same h (by simp)

theorem endAtReset_recordKeeps (h : RecordKeeps s0 s) : RecordKeeps s0 (endAtReset s) :=
  recordKeeps_same h (by simp)

theorem directedReset_recordOk (a : Authority) (h : s.param .dataFloor ≤ 8) : RecordOk (directedReset a s) := by
  have h0 : RecordOk (resetBlocks a s) := by
    refine ⟨.inl rfl, ⟨Nat.le_of_ble_eq_true rfl, Nat.le_of_ble_eq_true rfl⟩, Nat.le_of_ble_eq_true rfl,
      Nat.le_of_ble_eq_true rfl, Nat.zero_le _, ?_, ?_⟩
    · show vget (keptParams s.du.params) Param.dataFloor.index ≤ 8
      have : vget (keptParams s.du.params) Param.dataFloor.index = s.param .dataFloor := rfl
      rw [this]
      exact h
    · intro d hd
      cases hd
  unfold directedReset
  dsimp only
  refine recordOk_congr ?_ h0
  unfold whenever
  split <;> split <;> simp [endAtReset, startLine]

end Sys2Proof.Machine
end

