-- ==== Sys2Proof/Laws/RecordKeepsC.lean ====
section
/-! SUPPORT. Each operation of Machine/Directives.lean to Machine/Events.lean keeps the invariants of Laws/RecordKeeps.lean. One lemma per
operation. -/

namespace Sys2Proof.Machine

variable {s0 s : State}

theorem doneWith_recordKeeps (body : Bytes) (h : RecordKeeps s0 s) : RecordKeeps s0 (doneWith body s).state := h

theorem refuse_recordKeeps (status : Status) (h : RecordKeeps s0 s) : RecordKeeps s0 (refuse status s).state := h

theorem refuseOwner_recordKeeps (sender : Sender) (code : Nat) (tag : Half) (table : Nat) (h : RecordKeeps s0 s) : RecordKeeps s0 (refuseOwner sender code tag table s) :=
  recordKeeps_same h (by simp)

theorem readTableAct_recordKeeps (table first count : Byte) (h : RecordKeeps s0 s) : RecordKeeps s0 (readTableAct table first count s).state :=
  recordKeeps_same h (by simp)

theorem countClamp_recordKeeps (differs : Bool) (h : RecordKeeps s0 s) : RecordKeeps s0 (countClamp differs s) :=
  recordKeeps_same h (by simp)

theorem writeProfileAct_recordKeeps (index : Byte) (e : ProfileImage) (h : RecordKeeps s0 s) : RecordKeeps s0 (writeProfileAct index e s).state :=
  recordKeeps_same h (by simp)

theorem writeCadenceAct_recordKeeps (index : Byte) (durations : List Half) (rep : Byte) (h : RecordKeeps s0 s) : RecordKeeps s0 (writeCadenceAct index durations rep s).state :=
  recordKeeps_same h (by simp)

theorem writeMatchAct_recordKeeps (index : Byte) (e : MatchImage) (h : RecordKeeps s0 s) : RecordKeeps s0 (writeMatchAct index e s).state :=
  recordKeeps_same h (by simp)

theorem writeAnswerAct_recordKeeps (index valid : Byte) (hw : Mac) (ip : Ip) (h : RecordKeeps s0 s) : RecordKeeps s0 (writeAnswerAct index valid hw ip s).state :=
  recordKeeps_same h (by simp)

theorem writeFaultAct_recordKeeps (a : Authority) (index level : Byte) (h : RecordKeeps s0 s) : RecordKeeps s0 (writeFaultAct a index level s).state :=
  recordKeeps_same h (by simp)

theorem readParamAct_recordKeeps (ident : Byte) (h : RecordKeeps s0 s) : RecordKeeps s0 (readParamAct ident s).state :=
  recordKeeps_same h (by simp)

theorem storeParam_recordOk (p : Param) (v : Nat) (hv : p = .dataFloor → v ≤ 8) (i : RecordOk s) :
    RecordOk (storeParam p v s) := by
  have i0 : RecordOk (setParam p v s) := recordOk_congr (by simp) i
  unfold storeParam whenever
  split
  · rename_i hp
    have hp : p = .dataFloor := by simpa using hp
    have h8 := hv hp
    unfold floorWritten
    split
    · split
      · exact ⟨i0.rate, i0.eff, i0.bitsCarry, i0.blockCarry, i0.blocks, h8, by simp⟩
      · exact ⟨i0.rate, i0.eff, i0.bitsCarry, i0.blockCarry, i0.blocks, i0.floor, by
          intro d hd
          cases hd
          exact h8⟩
    · refine ⟨i0.rate, i0.eff, i0.bitsCarry, i0.blockCarry, i0.blocks, i0.floor, ?_⟩
      intro d hd
      obtain ⟨_, _, rfl⟩ := Option.map_eq_some_iff.mp hd
      exact h8
  · exact i0

theorem writeParamAct_recordOk (ident : Byte) (value : BitVec 48) (i : RecordOk s) :
    RecordOk (writeParamAct ident value s).state := by
  unfold writeParamAct
  split
  · exact i
  · rename_i p _
    dsimp only
    split
    · rename_i lo hi hr
      refine recordOk_congr (s := storeParam p (clamp lo hi value.toNat) s) ?_ (storeParam_recordOk p _ ?_ i)
      · simp [doneWith]
      · rintro rfl
        cases hr
        unfold clamp
        omega
    · rename_i codes hr
      split
      · refine storeParam_recordOk p _ ?_ i
        rintro rfl
        cases hr
      · exact i
    · rename_i hr
      refine storeParam_recordOk p _ ?_ i
      rintro rfl
      cases hr

theorem clearFaultAct_recordKeeps (a : Authority) (kind flag : Byte) (h : RecordKeeps s0 s) : RecordKeeps s0 (clearFaultAct a kind flag s).state :=
  recordKeeps_same h (by simp)

theorem startAct_recordKeeps (h : RecordKeeps s0 s) : RecordKeeps s0 (startAct s).state :=
  recordKeeps_same h (by simp)

theorem retrainAct_recordKeeps (h : RecordKeeps s0 s) : RecordKeeps s0 (retrainAct s).state := by
  unfold retrainAct
  (repeat' split) <;> (repeat' first
    | with_reducible assumption | with_reducible apply retrain_recordKeeps
    | with_reducible apply doneWith_recordKeeps | with_reducible apply refuse_recordKeeps)

theorem stepDownAct_recordKeeps (h : RecordKeeps s0 s) : RecordKeeps s0 (stepDownAct s).state := by
  unfold stepDownAct
  (repeat' split) <;> (repeat' first
    | with_reducible assumption | with_reducible apply stepDownTo_recordKeeps
    | with_reducible apply doneWith_recordKeeps | with_reducible apply refuse_recordKeeps)

theorem stepUpAct_recordKeeps (h : RecordKeeps s0 s) : RecordKeeps s0 (stepUpAct s).state := by
  unfold stepUpAct
  (repeat' split) <;> (repeat' first
    | with_reducible assumption | with_reducible apply stepUpTo_recordKeeps
    | with_reducible apply doneWith_recordKeeps | with_reducible apply refuse_recordKeeps)

theorem loopOnAct_recordKeeps (channel : Byte) (h : RecordKeeps s0 s) : RecordKeeps s0 (loopOnAct channel s).state :=
  recordKeeps_same h (by simp)

theorem lineActionAct_recordKeeps (action channel : Byte) (h : RecordKeeps s0 s) : RecordKeeps s0 (lineActionAct action channel s).state := by
  unfold lineActionAct
  (repeat' split) <;> (repeat' first
    | with_reducible assumption | with_reducible apply endLoopback_recordKeeps
    | with_reducible apply stopLine_recordKeeps | with_reducible apply doneWith_recordKeeps
    | with_reducible apply refuse_recordKeeps | with_reducible apply startAct_recordKeeps
    | with_reducible apply retrainAct_recordKeeps | with_reducible apply stepDownAct_recordKeeps
    | with_reducible apply stepUpAct_recordKeeps | with_reducible apply loopOnAct_recordKeeps)

theorem testAct_recordKeeps (kind : TestKind) (a : Authority) (tag : Half) (p : Port) (cadence seconds : Byte) (h : RecordKeeps s0 s) : RecordKeeps s0 (testAct kind a tag p cadence seconds s).state :=
  recordKeeps_same h (by simp)

theorem releaseAct_recordKeeps (p : Port) (h : RecordKeeps s0 s) : RecordKeeps s0 (releaseAct p s).state := by
  unfold releaseAct
  (repeat' split) <;> (repeat' first
    | with_reducible assumption | with_reducible apply releasePortAct_recordKeeps
    | with_reducible apply doneWith_recordKeeps | with_reducible apply refuse_recordKeeps)

theorem disableAct_recordKeeps (p : Port) (h : RecordKeeps s0 s) : RecordKeeps s0 (disableAct p s).state := by
  unfold disableAct
  (repeat' split) <;> (repeat' first
    | with_reducible assumption | with_reducible apply disablePort_recordKeeps
    | with_reducible apply doneWith_recordKeeps | with_reducible apply refuse_recordKeeps)

theorem portActionAct_recordKeeps (a : Authority) (tag : Half) (kind port cadence seconds : Byte) (h : RecordKeeps s0 s) : RecordKeeps s0 (portActionAct a tag kind port cadence seconds s).state := by
  unfold portActionAct
  (repeat' split) <;> (repeat' first
    | with_reducible assumption | with_reducible apply enablePort_recordKeeps
    | with_reducible apply doneWith_recordKeeps | with_reducible apply refuse_recordKeeps
    | with_reducible apply testAct_recordKeeps | with_reducible apply releaseAct_recordKeeps
    | with_reducible apply disableAct_recordKeeps)

theorem quietAct_recordKeeps (kind hitClear : Byte) (h : RecordKeeps s0 s) : RecordKeeps s0 (quietAct kind hitClear s).state :=
  recordKeeps_same h (by simp)

theorem act_recordOk (sender : Sender) (tag : Half) (r : Request) (i : RecordOk s) :
    RecordOk (act sender tag r s).state := by
  cases r with
  | writeParam p v => exact writeParamAct_recordOk p v i
  | lineAction x c => exact (lineActionAct_recordKeeps x c (RecordKeeps.refl s)).record i
  | portAction k p c n => exact (portActionAct_recordKeeps _ tag k p c n (RecordKeeps.refl s)).record i
  | _ => exact recordOk_congr (by simp [act]) i

theorem takeBody_recordOk (sender : Sender) (code : Nat) (tag : Half) (body : Bytes) (h : s.param .dataFloor ≤ 8)
    (i : RecordOk s) : RecordOk (takeBody sender code tag body s) := by
  have ha : ∀ c r, RecordOk r.state → RecordOk (answerWith sender c tag r) := fun c r hr => recordOk_congr (by simp) hr
  unfold takeBody
  split
  · exact ha _ _ i
  · split
    · exact recordOk_congr (by simp) i
    · split
      · exact ha _ _ i
      · rename_i r _
        unfold takeRequest
        split
        · exact directedReset_recordOk _ h
        · exact ha _ _ (act_recordOk _ _ _ i)

theorem takeMessage_recordOk (sender : Sender) (m : Bytes) (h : s.param .dataFloor ≤ 8)
    (i : RecordOk s) : RecordOk (takeMessage sender m s) := by
  unfold takeMessage
  split
  · exact recordOk_congr (by simp) i
  · dsimp only
    split
    · exact recordOk_congr (by simp) i
    · split
      · exact recordOk_congr (by simp) i
      · exact takeBody_recordOk _ _ _ _ h i

theorem receiveDirective_recordOk (sender : Sender) (take : State → State) (h : s.param .dataFloor ≤ 8)
    (i : RecordOk s) (ht : ∀ u, u.param .dataFloor ≤ 8 → RecordOk u → RecordOk (take u)) :
    RecordOk (receiveDirective sender take s) := by
  cases sender with
  | loc source => exact ht _ h (recordOk_congr (s := s) rfl i)
  | exch =>
    unfold receiveDirective
    dsimp only
    split
    · exact ht _ h (recordOk_congr (s := s) rfl i)
    · exact recordOk_congr (s := s) rfl i

theorem deliverVoice_recordKeeps (n : Slot) (f : Bytes) (h : RecordKeeps s0 s) : RecordKeeps s0 (deliverVoice n f s) := by
  unfold deliverVoice
  (repeat' split) <;> (repeat' first
    | with_reducible assumption | with_reducible apply recordKeeps_bump
    | with_reducible apply mediaArrives_recordKeeps | with_reducible apply signalArrives_recordKeeps)

theorem deliver_recordOk (c : Chan) (f : Bytes) (h : s.param .dataFloor ≤ 8) (i : RecordOk s) :
    RecordOk (deliver c f s) := by
  unfold deliver
  dsimp only
  repeat' split
  · exact (deliverVoice_recordKeeps _ _ (RecordKeeps.refl s)).record i
  · exact (deliverVoice_recordKeeps _ _ (RecordKeeps.refl s)).record i
  · exact recordOk_congr (by simp) i
  · exact receiveDirective_recordOk _ _ h (recordOk_congr (s := s) rfl i) fun u hu ku => takeMessage_recordOk _ _ hu ku
  · exact recordOk_congr (by simp) i

theorem setAsm_recordKeeps (c : Chan) (a : Option Collecting) (h : RecordKeeps s0 s) : RecordKeeps s0 (setAsm c a s) :=
  recordKeeps_same h (by simp)

theorem oversizeBlock_recordKeeps (c : Chan) (h : RecordKeeps s0 s) : RecordKeeps s0 (oversizeBlock c s) :=
  recordKeeps_same h (by simp)

theorem extend_recordOk (b : LineBlock) (data : Bytes) (take : Bytes → State → State) (h : s.param .dataFloor ≤ 8)
    (i : RecordOk s) (ht : ∀ f u, u.param .dataFloor ≤ 8 → RecordOk u → RecordOk (take f u)) :
    RecordOk (extend b data take s) := by
  unfold extend
  split
  · exact recordOk_congr (by simp) i
  · split
    · exact recordOk_congr (by simp) i
    · split
      · exact recordOk_congr (by simp) i
      · exact ht _ _ h i

theorem badBlock_recordKeeps (h : RecordKeeps s0 s) : RecordKeeps s0 (badBlock s) :=
  recordKeeps_same h (by simp)

theorem checkSequence_recordKeeps (b : LineBlock) (h : RecordKeeps s0 s) : RecordKeeps s0 (checkSequence b s) :=
  recordKeeps_same h (by simp)

theorem reassemble_recordOk (b : LineBlock) (h : s.param .dataFloor ≤ 8) (i : RecordOk s) : RecordOk (reassemble b s) := by
  have ha : ∀ c l, (abandon c l s).param .dataFloor ≤ 8 ∧ RecordOk (abandon c l s) := by
    intro c l
    exact ⟨by rw [param_congr (s := s) (by simp)]; exact h, recordOk_congr (by simp) i⟩
  unfold reassemble
  dsimp only
  split
  · split
    · exact recordOk_congr (by simp) i
    · exact deliver_recordOk _ _ (ha _ _).1 (ha _ _).2
  · split <;> exact recordOk_congr (by simp) i
  · exact extend_recordOk _ _ _ h i fun f u _ ku => recordOk_congr (by simp) ku
  · exact extend_recordOk _ _ _ h i fun f u hu ku =>
      deliver_recordOk _ _ (by rw [param_congr (s := u) (by simp)]; exact hu) (recordOk_congr (by simp) ku)

theorem blockArrives_recordOk (bytes : Bytes) (h : s.param .dataFloor ≤ 8) (i : RecordOk s) :
    RecordOk (blockArrives bytes s) := by
  unfold blockArrives
  split
  · exact recordOk_congr (by simp) i
  · split
    · unfold goodBlock
      split
      · exact recordOk_congr (by simp) i
      · split
        · generalize hu : checkSequence (readBlock s.lbu.size bytes) (bump Ctr.goodReceived s) = u
          have h1 : u.du = s.du := by rw [← hu]; simp
          have h2 : RecordOk u := recordOk_congr (by rw [← hu]; simp) i
          unfold takeBlock
          split
          · exact recordOk_congr (by simp) h2
          · split
            · exact recordOk_congr (by simp) h2
            · exact reassemble_recordOk _ (by rw [param_congr h1]; exact h) h2
        · exact recordOk_congr (by simp) i
    · exact recordOk_congr (by simp) i

theorem homeFrameArrives_recordOk (frame : Bytes) (h : s.param .dataFloor ≤ 8) (i : RecordOk s) :
    RecordOk (homeFrameArrives frame s) := by
  unfold homeFrameArrives homeFrameTaken
  dsimp only
  repeat' split
  · exact i
  · exact recordOk_congr (by simp) i
  · exact receiveDirective_recordOk _ _ h (recordOk_congr (s := s) rfl i) fun u hu ku => takeMessage_recordOk _ _ hu ku
  · exact recordOk_congr (by simp) i
  · exact recordOk_congr (by simp) i

theorem voiceStep_recordKeeps (n : Slot) (p : State × Nat) (h : RecordKeeps s0 p.1) : RecordKeeps s0 (voiceStep n p).1 :=
  recordKeeps_same h (by simp)

theorem dueStale_recordKeeps (n : Slot) (h : RecordKeeps s0 s) : RecordKeeps s0 (dueStale n s) :=
  recordKeeps_same h (by simp)

theorem fillRest_recordKeeps (n : Nat) (h : RecordKeeps s0 s) : RecordKeeps s0 (fillRest n s) :=
  recordKeeps_same h (by simp)

theorem periodBlocks_le (b : Budget) (h1 : b.rate ≤ 16383) (h2 : b.eff ≤ 512) (h3 : b.bitsCarry < 512)
    (h4 : b.blockCarry < 8 * b.size.bytes) : b.periodBlocks ≤ 640 := by
  have hm : b.rate * b.eff ≤ 16383 * 512 := Nat.mul_le_mul h1 h2
  have hu : b.product / 512 ≤ 163830 := by
    have : b.product < 163831 * 512 := by
      unfold Budget.product Budget.bits
      have : 10 * b.rate * b.eff = 10 * (b.rate * b.eff) := Nat.mul_assoc ..
      omega
    omega
  unfold Budget.periodBlocks Budget.credit Budget.available Budget.blockBits
  cases hs : b.size <;> simp only [hs, BlockSize.bytes] at h4 ⊢ <;> omega

theorem period_recordOk (i : RecordOk s) : RecordOk (onLbu Budget.period s) := by
  have h0 : 0 < s.lbu.blockBits := by
    unfold Budget.blockBits
    cases s.lbu.size <;> decide
  refine ⟨i.rate, i.eff, Nat.mod_lt _ (by decide), Nat.mod_lt _ h0, ?_, i.floor, i.pendingFloor⟩
  refine periodBlocks_le s.lbu ?_ i.eff.2 i.bitsCarry i.blockCarry
  rcases i.rate with h | h
  · omega
  · exact h.2

/-- Some number of blocks emitted, the budget record kept but for the turn and the urgent claim. -/
theorem Emits.recordOk {n : Nat} {t : State} (h : Emits n s t) (i : RecordOk s) : RecordOk t := by
  obtain ⟨a, b, c, d, e, f, g⟩ := i
  constructor <;> rw [h.record] <;> assumption

theorem continueFrame_some (c : Chan) (n : Nat) (s : State) : ∃ m, Emits m s (continueFrame c n s) := by
  induction n generalizing s with
  | zero => exact ⟨0, emits_none rfl rfl⟩
  | succ n ih =>
    unfold continueFrame
    split
    · obtain ⟨m, h⟩ := ih (emitNext c _ s)
      exact ⟨_, (emitNext_emits ..).trans h⟩
    · exact ⟨0, emits_none rfl rfl⟩

theorem voiceStep_some (n : Slot) (p : State × Nat) : ∃ m, Emits m p.1 (voiceStep n p).1 := by
  unfold voiceStep
  split
  · exact ⟨0, emits_none rfl rfl⟩
  · dsimp only
    split
    · rename_i f _ _
      obtain ⟨m, h⟩ := continueFrame_some n.chan (p.1.lbu.size.voiceBlocks - 1) (startFrame n.chan (.voice n) f p.1)
      exact ⟨_, ((startFrame_emits n.chan (.voice n) f p.1).trans h).then_none (by simp [emitVoice]) (by simp [emitVoice])⟩
    · exact ⟨0, emits_none (by simp) (by simp)⟩

theorem stepOf_some {claim : Claim} (ctr : Counter) (limit : Nat) (hc : ∀ u v, claim u = some v → Emits 1 u v)
    (p : State × Nat) : ∃ m, Emits m p.1 (stepOf claim ctr limit p).1 :=
  ⟨_, (serve_emits ctr hc (min limit p.2) p.1).1⟩

theorem grantSteps_some (k : Nat) (s : State) : ∃ m, Emits m s (grantSteps k s) := by
  unfold grantSteps
  dsimp only
  obtain ⟨m1, h1⟩ := stepOf_some Ctr.grantedUrgent 1 (fun _ _ => urgentClaim_emits) (s, k)
  generalize stepOf urgentClaim Ctr.grantedUrgent 1 (s, k) = p1 at h1 ⊢
  obtain ⟨m2, h2⟩ := voiceStep_some .zero p1
  generalize voiceStep .zero p1 = p2 at h2 ⊢
  obtain ⟨m3, h3⟩ := voiceStep_some .one p2
  generalize voiceStep .one p2 = p3 at h3 ⊢
  obtain ⟨m4, h4⟩ := stepOf_some Ctr.grantedControl 1 (fun _ _ => controlClaim_emits) p3
  generalize stepOf controlClaim Ctr.grantedControl 1 p3 = p4 at h4 ⊢
  obtain ⟨m5, h5⟩ := stepOf_some Ctr.grantedTest 1 (fun _ _ => testClaim_emits) p4
  generalize stepOf testClaim Ctr.grantedTest 1 p4 = p5 at h5 ⊢
  obtain ⟨m6, h6⟩ := stepOf_some Ctr.grantedData (s.param .bulkFloor) (fun _ _ => bulkClaim_emits) p5
  generalize stepOf bulkClaim Ctr.grantedData (s.param .bulkFloor) p5 = p6 at h6 ⊢
  obtain ⟨m7, h7⟩ := stepOf_some Ctr.grantedData k (fun _ _ => priorityClaim_emits) p6
  generalize stepOf priorityClaim Ctr.grantedData k p6 = p7 at h7 ⊢
  obtain ⟨m8, h8⟩ := stepOf_some Ctr.grantedData k (fun _ _ => bulkClaim_emits) p7
  generalize stepOf bulkClaim Ctr.grantedData k p7 = p8 at h8 ⊢
  obtain ⟨m9, h9⟩ := stepOf_some Ctr.grantedOperations k (fun _ _ => operationsClaim_emits) p8
  generalize stepOf operationsClaim Ctr.grantedOperations k p8 = p9 at h9 ⊢
  exact ⟨_, ((((((((h1.trans h2).trans h3).trans h4).trans h5).trans h6).trans h7).trans h8).trans h9).trans
    (fillRest_emits p9.2 p9.1)⟩

theorem periodStart_recordKeeps (h : RecordKeeps s0 s) : RecordKeeps s0 (periodStart s) := by
  unfold periodStart
  refine recordKeeps_onClock (mediaPeriod_recordKeeps _ (mediaPeriod_recordKeeps _ ?_))
  split
  · refine h.trans ⟨fun i => ?_⟩
    unfold grantPeriod
    obtain ⟨m, hm⟩ := grantSteps_some s.lbu.periodBlocks
      (s |> onLbu Budget.period |> bump Ctr.periodsCarried |> whenever (s.lbu.periodBlocks == 0) (bump Ctr.emptyPeriods))
    refine hm.recordOk (recordOk_congr (s := onLbu Budget.period s) ?_ (period_recordOk i))
    unfold whenever
    split <;> simp
  · exact recordKeeps_same h (by simp)

theorem noTrainEvent_recordKeeps (h : RecordKeeps s0 s) : RecordKeeps s0 (noTrainEvent s) := by
  unfold noTrainEvent
  (repeat' split) <;> (repeat' first
    | with_reducible assumption | with_reducible apply recordKeeps_bump | with_reducible apply stray_recordKeeps
    | with_reducible apply trainingFailed_recordKeeps)

theorem syncLostEvent_recordKeeps (h : RecordKeeps s0 s) : RecordKeeps s0 (syncLostEvent s) := by
  unfold syncLostEvent
  (repeat' split) <;> (repeat' first
    | with_reducible assumption | with_reducible apply stray_recordKeeps
    | with_reducible apply startRide_recordKeeps)

theorem marginEvent_recordKeeps (margin : Int) (h : RecordKeeps s0 s) : RecordKeeps s0 (marginEvent margin s) := by
  unfold marginEvent
  (repeat' split) <;> (repeat' first
    | with_reducible assumption | with_reducible apply stray_recordKeeps
    | with_reducible apply marginTaken_recordKeeps)

theorem silentEvent_recordKeeps (h : RecordKeeps s0 s) : RecordKeeps s0 (silentEvent s) := by
  unfold silentEvent
  (repeat' split) <;> (repeat' first
    | with_reducible assumption | with_reducible apply recordKeeps_bump
    | with_reducible apply startRide_recordKeeps)

theorem trainTimerEvent_recordKeeps (h : RecordKeeps s0 s) : RecordKeeps s0 (trainTimerEvent s) := by
  unfold trainTimerEvent
  (repeat' split) <;> (repeat' first
    | with_reducible assumption | with_reducible apply recordKeeps_bump
    | with_reducible apply trainingFailed_recordKeeps)

theorem rideTimerEvent_recordKeeps (h : RecordKeeps s0 s) : RecordKeeps s0 (rideTimerEvent s) :=
  recordKeeps_same h (by simp)

theorem holdTimerEvent_recordKeeps (h : RecordKeeps s0 s) : RecordKeeps s0 (holdTimerEvent s) := by
  unfold holdTimerEvent
  (repeat' split) <;> (repeat' first
    | with_reducible assumption | with_reducible apply holdExpires_recordKeeps)

theorem backoffEvent_recordKeeps (h : RecordKeeps s0 s) : RecordKeeps s0 (backoffEvent s) :=
  recordKeeps_same h (by simp)

theorem alertEvent_recordKeeps (n : Slot) (h : RecordKeeps s0 s) : RecordKeeps s0 (alertEvent n s) := by
  unfold alertEvent
  (repeat' split) <;> (repeat' first
    | with_reducible assumption | with_reducible apply alertLimit_recordKeeps)

theorem onHookEvent_recordKeeps (p : Port) (h : RecordKeeps s0 s) : RecordKeeps s0 (onHookEvent p s) := by
  unfold onHookEvent
  (repeat' split) <;> (repeat' first
    | with_reducible assumption | with_reducible apply onHookFires_recordKeeps)

theorem interdigitEvent_recordKeeps (p : Port) (h : RecordKeeps s0 s) : RecordKeeps s0 (interdigitEvent p s) :=
  recordKeeps_same h (by simp)

theorem closeFrames_recordKeeps (h : RecordKeeps s0 s) : RecordKeeps s0 (closeFrames s) :=
  recordKeeps_same h (by simp)

theorem uptimeSecond_recordKeeps (h : RecordKeeps s0 s) : RecordKeeps s0 (uptimeSecond s) := by
  unfold uptimeSecond
  repeat' first
    | with_reducible assumption | with_reducible apply recordKeeps_onFu
    | with_reducible apply mediaSecond_recordKeeps | with_reducible apply gradeSecond_recordKeeps

theorem advance_recordKeeps (h : RecordKeeps s0 s) : RecordKeeps s0 (advance s) :=
  recordKeeps_same h (by simp)

theorem timerEvents_recordKeeps (h : RecordKeeps s0 s) : RecordKeeps s0 (timerEvents s) := by
  unfold timerEvents
  repeat' first
    | with_reducible assumption | intro u hu | with_reducible apply recordKeeps_ifDue
    | with_reducible apply testExpiry_recordKeeps | with_reducible apply loopbackExpires_recordKeeps
    | with_reducible apply silentEvent_recordKeeps | with_reducible apply trainTimerEvent_recordKeeps
    | with_reducible apply rideTimerEvent_recordKeeps | with_reducible apply holdTimerEvent_recordKeeps
    | with_reducible apply backoffEvent_recordKeeps | with_reducible apply alertEvent_recordKeeps

theorem powerTick_recordKeeps (h : RecordKeeps s0 s) : RecordKeeps s0 (powerTick s) := by
  unfold powerTick
  repeat' first
    | with_reducible assumption | intro u hu | with_reducible apply recordKeeps_onFu
    | with_reducible apply recordKeeps_whenever | with_reducible apply powerChange_recordKeeps

theorem measureTick_recordKeeps (p : Port) (h : RecordKeeps s0 s) : RecordKeeps s0 (measureTick p s) := by
  unfold measureTick
  dsimp only
  (repeat' split) <;> (repeat' first
    | with_reducible assumption | with_reducible apply recordKeeps_onPort
    | with_reducible apply onHookEvent_recordKeeps | with_reducible apply interdigitEvent_recordKeeps)

theorem senseTick_recordKeeps (p : Port) (h : RecordKeeps s0 s) : RecordKeeps s0 (senseTick p s) := by
  unfold senseTick
  dsimp only
  (repeat' split) <;> (repeat' first
    | with_reducible assumption | with_reducible apply recordKeeps_onPort
    | with_reducible apply loopChange_recordKeeps | with_reducible apply ringTrip_recordKeeps
    | with_reducible apply measureTick_recordKeeps)

theorem portTick_recordKeeps (p : Port) (h : RecordKeeps s0 s) : RecordKeeps s0 (portTick p s) := by
  unfold portTick
  repeat' first
    | with_reducible assumption | intro u hu | with_reducible apply recordKeeps_ifDue
    | with_reducible apply segmentEnd_recordKeeps | with_reducible apply parkExpires_recordKeeps
    | with_reducible apply senseTick_recordKeeps

theorem periodTick_recordKeeps (h : RecordKeeps s0 s) : RecordKeeps s0 (periodTick s) := by
  unfold periodTick
  (repeat' split) <;> (repeat' first
    | with_reducible assumption | with_reducible apply recordKeeps_onClock
    | with_reducible apply periodStart_recordKeeps)

theorem secondTick_recordKeeps (h : RecordKeeps s0 s) : RecordKeeps s0 (secondTick s) := by
  unfold secondTick
  (repeat' split) <;> (repeat' first
    | with_reducible assumption | with_reducible apply recordKeeps_onFu
    | with_reducible apply uptimeSecond_recordKeeps)

theorem tick_recordKeeps (h : RecordKeeps s0 s) : RecordKeeps s0 (tick s) := by
  unfold tick
  repeat' first
    | with_reducible assumption | with_reducible apply recordKeeps_onClock
    | with_reducible apply advance_recordKeeps | with_reducible apply timerEvents_recordKeeps
    | with_reducible apply powerTick_recordKeeps | with_reducible apply portTick_recordKeeps
    | with_reducible apply periodTick_recordKeeps | with_reducible apply secondTick_recordKeeps
    | with_reducible apply closeFrames_recordKeeps

end Sys2Proof.Machine
end

