-- ==== Sys2Proof/Laws/Ringing.lean ====
section
/-! SUPPORT. What a ring request does to its ports: which of them ring, which the power limit holds back, and what starting a
ringing channel leaves alone (R105, R116, R120). -/

namespace Sys2Proof.Machine

variable {s : State}

theorem port_bump (c : Counter) (q : Port) : (bump c s).port q = s.port q := rfl

theorem port_occurrence (k : FaultKind) (d : Nat) (q : Port) : (occurrence k d s).port q = s.port q :=
  port_congr (by simp) q

theorem port_enterRinging (p q : Port) :
    (enterPort p .ringing s).port q = if q = p then { s.port q with state := .ringing } else s.port q := by
  cases p <;> cases q <;> rfl

/-- A channel started in ring mode changes the channel of its port, with its differ and trip counts, and no other port. -/
theorem startRing_port (p : Port) (cad : Fin 8) :
    (startRing p cad s).port p =
      { s.port p with chan := ((startRing p cad s).port p).chan, differ := ((startRing p cad s).port p).differ,
                      trip := ((startRing p cad s).port p).trip } ∧
    (startRing p cad s).port p.other = s.port p.other ∧ (startRing p cad s).ppu.cadences = s.ppu.cadences := by
  unfold startRing
  split
  · unfold loadChannel
    refine ⟨?_, by cases p <;> rfl, by cases p <;> rfl⟩
    simp only [port_onPort_same]
    split <;> rfl
  · unfold stopChannel
    exact ⟨by simp, by cases p <;> rfl, by cases p <;> rfl⟩

/-- One port of a ring request outside MAINS, with the other port holding the ringer: it is held back (R120). -/
theorem ringOne_held (p : Port) (h : (s.port p).state = .idle) (hb : s.onBattery = true)
    (hh : s.holdsRinger p.other = true) : ringOne p s = occurrence .ringLimited p.code s := by
  simp [ringOne, h, hb, hh]

/-- One port of a ring request, with the other port not holding the ringer: it enters RINGING (R105, R120). -/
theorem ringOne_rings (p : Port) (h : (s.port p).state = .idle) (hh : s.holdsRinger p.other = false) :
    ringOne p s = bump (Ctr.ringStarts p) (enterPort p .ringing s) := by
  simp [ringOne, h, hh]

theorem idle_beq_ringing : (PortState.idle == PortState.ringing) = false := rfl

/-- A ring request for one IDLE port that the power limit holds back: no port rings (R120). -/
theorem ringPorts_held (p : Port) (cad : Fin 8) (group : Bool) (h : (s.port p).state = .idle) (hb : s.onBattery = true)
    (hh : s.holdsRinger p.other = true) :
    ringPorts (noPorts.put p true) cad group s = (occurrence .ringLimited p.code s, noPorts) := by
  cases p
  · have h1 := ringOne_held .a h hb hh
    simp [ringPorts, idle_beq_ringing, PortSet.put, noPorts, h, h1, port_occurrence, startRings]
  · have h1 := ringOne_held .b h hb hh
    simp [ringPorts, idle_beq_ringing, PortSet.put, noPorts, h, h1, port_occurrence, startRings]

/-- A ring request for one IDLE port, with the other port not holding the ringer: the port rings (R105). -/
theorem ringPorts_one (p : Port) (cad : Fin 8) (group : Bool) (h : (s.port p).state = .idle)
    (hh : s.holdsRinger p.other = false) :
    ringPorts (noPorts.put p true) cad group s =
      (startRing p cad (bump (Ctr.ringStarts p) (enterPort p .ringing s)), noPorts.put p true) := by
  cases p
  · have h1 := ringOne_rings .a h hh
    simp [ringPorts, idle_beq_ringing, PortSet.put, noPorts, h, h1, port_bump, port_enterRinging, startRings]
  · have h1 := ringOne_rings .b h hh
    simp [ringPorts, idle_beq_ringing, PortSet.put, noPorts, h, h1, port_bump, port_enterRinging, startRings]

/-- A ring request for two IDLE ports outside MAINS: port A rings and port B is held back (R120). -/
theorem ringPorts_both_limited (cad : Fin 8) (group : Bool) (ha : (s.port .a).state = .idle)
    (hb : (s.port .b).state = .idle) (ho : s.onBattery = true) :
    ringPorts { a := true, b := true } cad group s =
      (startRing .a cad (occurrence .ringLimited 2 (bump (Ctr.ringStarts .a) (enterPort .a .ringing s))),
        noPorts.put .a true) := by
  have h1 := ringOne_rings .a ha (show s.holdsRinger .b = false by simp [State.holdsRinger, hb])
  have h2 : ringOne .b (bump (Ctr.ringStarts .a) (enterPort .a .ringing s)) =
      occurrence .ringLimited 2 (bump (Ctr.ringStarts .a) (enterPort .a .ringing s)) := by
    refine ringOne_held .b ?_ ?_ ?_
    · simpa [port_bump, port_enterRinging] using hb
    · simpa [State.onBattery] using ho
    · simp [State.holdsRinger, Port.other, port_bump, port_enterRinging]
  simp [ringPorts, idle_beq_ringing, PortSet.put, noPorts, ha, hb, h1, h2, port_bump, port_enterRinging, port_occurrence,
    startRings]

end Sys2Proof.Machine
end

