-- ==== Sys2Proof/Tests/Slice0.lean ====
section
/-! SUPPORT. Small tests of one command each, with results worked out from the rules named, and for every statement with
hypotheses a state and operands that meet them. -/

namespace Sys2Proof.Tests

set_option Elab.async false

open Sys2Proof Sys2Proof.Machine

/-! ## Helpers -/

/-- The state a command answers. -/
def after (c : Instr) (s : State) : State :=
  match exec c s with
  | .next t => t
  | .fault _ | .refused _ => s

/-- A line that carries: 1024 kb/s, 64-byte blocks, efficiency 480, so that s is 18 (R51); the home link up. -/
def up : State :=
  State.reset
    |> onLs (fun l => { l with link := .carrying, rate := 1024, margin := 60, silence := some 0 })
    |> onLbu (fun b => { b with rate := 1024, size := .b64, eff := 480 })
    |> onQm (fun q => { q with homeUp := true })

/-- A port in a call on slot 0. -/
def talking (p : Port) (s : State) : State :=
  s |> onPort p (fun u => { u with state := .inCall, closed := true })
    |> onCall .zero (fun c => { c with state := .connected, attached := noPorts.put p true })

/-- The link state replaced. -/
def inLink (l : LinkState) (s : State) : State := onLs (fun x => { x with link := l }) s

/-- Training at rung 0. -/
def training : State := State.reset |> inLink .training |> onLs (fun l => { l with train := some { limit := 90000, elapsed := 5 } })

/-- A ladder of rungs 0 to 2, where the default one has rung 0 alone (R25). -/
def ladder (s : State) : State :=
  onLs (fun l => { l with profile := Vector.ofFn fun i : Fin 8 => { vget l.profile i with valid := i.val < 3 } }) s

/-- The four exchange replies that fill their queue. -/
def fullReplies (s : State) : State := onQm (fun q => { q with replies := List.replicate 4 [0] }) s

/-! ## Well-formed commands -/

theorem test_wellFormed_block_31_bytes : (Instr.lineBlockReceived (List.replicate 31 0)).wellFormed = false := by decide
theorem test_wellFormed_block_32_bytes : (Instr.lineBlockReceived (List.replicate 32 0)).wellFormed = true := by decide
theorem test_wellFormed_profile_local :
    (Instr.writeTableProfile (.loc 5) 1 0 ⟨1, 64, 0, 480, 0⟩).wellFormed = false := by decide
theorem test_wellFormed_cadence_seven :
    (Instr.writeTableCadence .exch 1 0 [1, 2, 3, 4, 5, 6, 7] 1).wellFormed = false := by decide
theorem test_wellFormed_cadence_local :
    (Instr.writeTableCadence (.loc 5) 1 0 [1, 2, 3, 4, 5, 6, 7, 8] 1).wellFormed = false := by decide
theorem test_wellFormed_match_exchange :
    (Instr.writeTableMatch .exch 1 0 ⟨1, 0x57, 0, 0, 0, 0, 0, 0, 0, 0⟩).wellFormed = false := by decide
theorem test_wellFormed_answer_exchange : (Instr.writeTableAnswer .exch 1 0 1 5 6).wellFormed = false := by decide
theorem test_wellFormed_refused_owner : (Instr.writeTableRefused .exch 1 1 0 []).wellFormed = false := by decide
theorem test_wellFormed_refused_table_9 : (Instr.writeTableRefused .exch 1 9 0 []).wellFormed = false := by decide
theorem test_wellFormed_fault_both :
    (Instr.writeTableFault .exch 1 3 2).wellFormed = true ∧ (Instr.writeTableFault (.loc 5) 1 3 2).wellFormed = true := by
  decide

/-! ## Words, checks and codes -/

/-- No word spells a command: the table gives no bits (log entry 15). -/
theorem test_no_word : decodeTableWord 16 0x1234 = none := rfl

/-- The digits 1 to 9 in ASCII, the usual input for naming a CRC. -/
def digits : Bytes := [0x31, 0x32, 0x33, 0x34, 0x35, 0x36, 0x37, 0x38, 0x39]

/-- The check value of the CRC that R3 describes (polynomial 0x1021, all ones, not inverted) is the well known 0x29B1. -/
theorem test_crc16_digits : crc16 digits = 0x29B1 := by decide +kernel
/-- The check value of the Ethernet frame check sequence (R74) is the well known 0xCBF43926. -/
theorem test_fcs_digits : fcs32 digits = 0xCBF43926 := by decide +kernel

/-- R130: the middle of the first step, of the last, and of one between, by hand. -/
theorem test_expand : expand 0 = 8 ∧ expand 128 = -8 ∧ expand 127 = 32256 ∧ expand 0x25 = 688 := by decide +kernel
/-- R129: 700 lies in the step of 672 to 703, segment 2 and mantissa 5, and the most negative sample saturates. -/
theorem test_compress : compress 700 = 0x25 ∧ compress (-32768) = 0xFF ∧ compress 0 = 0 := by decide +kernel

/-! ## Commands -/

/-- R28, R20: the default ladder starts at rung 0, whose cap is 16383, with the 90 s train timeout. -/
theorem test_powerUpReset :
    (after .powerUpReset State.reset).ls.train = some { limit := 90000, elapsed := 0 } ∧
      (after .powerUpReset State.reset).out.xcvr = [.train 16383] := by decide +kernel
/-- R52 by hand: B × E = 10240 × 480 = 4915200 = 9600 × 512, and 9600 bits are 18 blocks of 512 with 384 over. -/
theorem test_budgetPeriodStart :
    (after .budgetPeriodStart up).lbu.blocks = 18 ∧ (after .budgetPeriodStart up).lbu.blockCarry = 384 := by decide +kernel
/-- R132: 80 codes close a frame of 84 bytes. -/
theorem test_voiceFrameClose :
    ((after .voiceFrameClose (onMedia .one (fun m => { m with builder := some { codes := List.replicate 80 7, muted := false } })
      up)).media .one).due = some ([2, 0, 0, 0] ++ List.replicate 80 7) := by decide +kernel
/-- R132, R133: the on-hook compare fires in the last tick of a period; the frame, full 125 µs before, is built and goes stale. -/
theorem test_lastTickClosesFirst :
    let t := tick (talking .a up |> onPort .a (fun u =>
          { u with closed := false, measure := 800, compare := some { kind := .onHook, value := 801 } })
        |> onMedia .zero (fun m => { m with media := .flowing, builder := some { codes := List.replicate 80 7, muted := false } })
        |> onClock fun c => { c with tickInPeriod := 9 })
    (t.port .a).state = .idle ∧ t.counter (Ctr.framesBuilt .zero) = 1 ∧ t.counter Ctr.staleVoice = 1 ∧
      (t.media .zero).due = none ∧ (t.media .zero).seq = 1 := by decide +kernel
/-- R183: the uptime wraps. -/
theorem test_uptimeSecond :
    (after .uptimeSecond (onFu (fun u => { u with uptime := 4294967295 }) up)).fu.uptime = 0 := by decide +kernel
/-- R41: a second with as many CRC-bad blocks as the threshold, 10 by default, is severe. -/
theorem test_uptimeSecond_severe :
    (after .uptimeSecond (onLs (fun l => { l with crcBad := 10 }) up)).ls.history = [.severe] := by decide +kernel
/-- R22: the rate is clamped to the cap of the rung. -/
theorem test_trained_clamped : (after (.trained 20000 60) training).ls.rate = 16383 := by decide +kernel
/-- R22: a rate below the floor rate, 64 by default, is a failure; rung 1 is next (R31). -/
theorem test_trained_below_floor : (after (.trained 63 60) (ladder training)).ls.rung = 1 := by decide +kernel
/-- R32: the first wait is 30 s, the next 60 s. -/
theorem test_noTrain_waits :
    (after .noTrain training).ls.backoff = some { limit := 30000, elapsed := 0 } ∧
      (after .noTrain training).ls.backoffLength = 60 := by decide +kernel
/-- R33: the ride time is 400 ms by default. -/
theorem test_syncLost : (after .syncLost up).ls.ride = some { limit := 400, elapsed := 0 } := by decide +kernel
/-- R21: SYNC_LOST is stray outside CARRYING. -/
theorem test_syncLost_stray : (after .syncLost State.reset).counter Ctr.strayMessages = 1 := by decide +kernel
/-- R34: the RIDE event's detail is the length of the ride. -/
theorem test_syncBack :
    ((after .syncBack (up |> inLink .riding |> onLs fun l => { l with ride := some { limit := 400, elapsed := 123 } })).fault
      .ride).detail = 123 := by decide +kernel
/-- R43: a margin is two's complement tenths of dB. -/
theorem test_margin : (after (.margin 0xFFFB) up).ls.margin = -5 := by decide +kernel
/-- R23: the silence watch's expiry rides like SYNC_LOST. -/
theorem test_transceiverSilent : (after .transceiverSilent up).ls.link = .riding := by decide +kernel
/-- R31: the train timer's expiry sends HALT before the TRAIN at the next rung. -/
theorem test_trainTimerExpiry :
    (after .trainTimerExpiry (ladder training)).out.xcvr = [.halt, .train 32] := by decide +kernel
/-- R27: with no call, the failed ride trains without holding. -/
theorem test_rideTimerExpiry :
    (after .rideTimerExpiry (up |> inLink .riding |> onLs fun l => { l with ride := some { limit := 400, elapsed := 400 } })).ls.link
      = .training := by decide +kernel
/-- R36, R163: the hold limit drops the call. -/
theorem test_holdTimerExpiry :
    ((after .holdTimerExpiry (up |> talking .a |> inLink .retraining
      |> onLs fun l => { l with hold := some { limit := 20000, elapsed := 20000 } })).call .zero).endCause = some .line := by
  decide +kernel
/-- R32: the backoff's expiry trains at the start rung. -/
theorem test_backoffExpiry :
    (after .backoffExpiry (State.reset |> inLink .waiting
      |> onLs fun l => { l with rung := 3, backoff := some { limit := 30000, elapsed := 30000 } })).ls.rung = 0 := by decide +kernel
/-- R195: the limit ends loopback. -/
theorem test_loopbackLimitExpiry :
    (after .loopbackLimitExpiry (onLs (fun l => { l with loopback := some { channel := .three, limit := { limit := 9, elapsed := 9 } } })
      up)).ls.loopback = none := by decide +kernel
/-- R40: a block that fails its CRC is counted for the second and for table 8. -/
theorem test_lineBlockReceived_bad :
    (after (.lineBlockReceived (List.replicate 64 0)) up).ls.crcBad = 1 ∧
      (after (.lineBlockReceived (List.replicate 64 0)) up).counter Ctr.crcBad = 1 := by decide +kernel
/-- A frame of one WHOLE block on channel 3 reaches the downstream FIFO (R14, R15, R84). -/
theorem test_lineBlockReceived_whole :
    (after (.lineBlockReceived (blockBytes .b64 3 .whole false false 9 20 0 (List.replicate 20 1))) up).qm.fifo =
      [{ kind := .delivered, bytes := List.replicate 20 1 }] := by decide +kernel

/-- A home frame of 64 bytes with a good check sequence. -/
def homeFrame : Bytes := List.replicate 60 1 ++ fcsBytes (List.replicate 60 1)

/-- R82, R74: an unmatched frame takes the default class, BULK; a wrong check sequence is counted. -/
theorem test_homeFrameReceived :
    (after (.homeFrameReceived homeFrame) up).qm.bulk = [List.replicate 60 1] ∧
      (after (.homeFrameReceived (List.replicate 64 1)) up).counter Ctr.fcsErrors = 1 := by decide +kernel
/-- R91: a short item is padded to 60 bytes before its check sequence. -/
theorem test_homeItemSent :
    ((after .homeItemSent (onQm (fun q => { q with fifo := [{ kind := .arpAnswer, bytes := [1, 2] }] }) up)).out.home.map
      List.length) = [64] := by decide +kernel
theorem test_homeLinkUp : (after .homeLinkUp State.reset).qm.homeUp = true := by decide +kernel
/-- R92, R175, section 11.4: the notice of LINE_DOWN, level 2, 1 repeat, ended, count 3, detail 1024, last seen in second 9, to the
broadcast address from the default own address. -/
theorem test_homeLinkUp_notice :
    ((after .homeLinkUp (setRec .lineDown { State.reset.fault .lineDown with count := 3, detail := 1024, last := 9 }
      (onFu (fun u => { u with locList := [⟨.lineDown, 2, 8, 1⟩] }) State.reset))).qm.fifo.map fun i => i.bytes) =
      [List.replicate 6 0xFF ++ [2, 0, 0, 0, 0, 1, 0x9A, 0x21, 1, 0x90, 0, 0, 0, 12, 1, 2, 1, 0, 0, 3, 4, 0, 0, 0, 0, 9]] := by
  decide +kernel
/-- R93: the FIFO is emptied, each item counted under its kind. -/
theorem test_homeLinkDown :
    (after .homeLinkDown (onQm (fun q => { q with fifo := [{ kind := .arpAnswer, bytes := [1, 2] }] }) up)).counter
      (Ctr.lostLinkDown .arpAnswer) = 1 := by decide +kernel
/-- R104, R151: an off-hook seizes the lowest FREE slot. -/
theorem test_loopChange : ((after (.loopChange .b) up).call .zero).signals = [.seize .b] := by decide +kernel
/-- R104: with the line down an off-hook hears the line-down tone. -/
theorem test_loopChange_line_down : ((after (.loopChange .a) State.reset).port .a).tone = some .lineDown := by decide +kernel

/-- Port B rings on slot 1. -/
def ringing : State :=
  up |> onCall .one (fun c => { c with state := .alerting, ringSet := noPorts.put .b true, alert := some { limit := 120000, elapsed := 0 } })
    |> onPort .b (fun u => { u with state := .ringing }) |> startRing .b 0

/-- R99, R154: ring trip answers. -/
theorem test_ringTrip : ((after (.ringTrip .b) ringing).call .one).state = .connected := by decide +kernel
/-- R102, R159: on-hook at the last port clears the call. -/
theorem test_onHook :
    ((after (.onHook .a) (up |> talking .a |> onPort .a fun u => { u with compare := some { kind := .onHook, value := 801 } })).call
      .zero).signals = [.clear .normal] := by decide +kernel
/-- R103: ten pulses are the digit 0. -/
theorem test_interdigit :
    ((after (.interdigit .a) (up |> talking .a
      |> onPort .a fun u => { u with pulses := 10, compare := some { kind := .interdigit, value := 300 } })).call .zero).signals =
      [.digit 0] := by decide +kernel
/-- R109, R110. -/
theorem test_park : ((after (.park .b) (toReleased .b up)).fault .portParked).detail = 2 := by decide +kernel
/-- R115: after the 1 s on segment of cadence 0 come its 4 s off. -/
theorem test_cadenceSegmentEnd :
    ((after (.cadenceSegmentEnd .b) ringing).port .b).chan =
      some { mode := .ring 0, pos := 2, on := false, endAt := some 4000, count := 0 } := by decide +kernel
/-- R156. -/
theorem test_alertLimitExpiry : ((after (.alertLimitExpiry .one) ringing).call .one).signals = [.clear .noAnswer] := by
  decide +kernel

/-- A ring test of port A for the exchange, with tag 7. -/
def ringTest : PortTest :=
  { kind := .ring, port := .a, auth := .exch, tag := 7, cadence := 0, seconds := 5, phase := .ring,
    timer := some { limit := 5000, elapsed := 5000 }, answerTime := 0, delay := 0, line := [] }

/-- R198, section 11.4: TEST_RESULT, port 1, kind 1, outcome 2, time 0. -/
theorem test_testPhaseExpiry :
    (after .testPhaseExpiry (up |> onPort .a (fun u => { u with state := .testing }) |> onTr fun t =>
      { t with test := some ringTest })).qm.replies = [[1, 0x91, 0, 7, 0, 7, 1, 1, 2, 0, 0, 0, 0]] := by decide +kernel
/-- R87, R181: on battery the Bulk queue is emptied. -/
theorem test_powerStateChange :
    (after (.powerStateChange false false) (onQm (fun q => { q with bulk := [[1]] }) up)).qm.bulk = [] ∧
      (after (.powerStateChange false false) up).fu.power = .battery := by decide +kernel
/-- R180: the differ count of an input that changes its value returns to 0. -/
theorem test_powerStateChange_differ :
    let t := after (.powerStateChange false false) (onFu (fun u => { u with mainsDiffer := 6, batteryDiffer := 5 }) up)
    t.fu.mainsDiffer = 0 ∧ t.fu.batteryDiffer = 5 := by decide +kernel
/-- R126: the first sample of a call, by hand: y = (32000 × 32768 + 16384) / 32768 = 32000. -/
theorem test_sampleInstant :
    ((after (.sampleInstant 32000 0 ⟨true, false, false, false, true, false⟩) (talking .a up)).mediaPort .a).dcOut = 32000 := by
  decide +kernel

/-! ## Directives -/

/-- Section 11.4, R210: READ_TABLE of the Match Table from 30 with count 8 returns two entries of 30 bytes. -/
theorem test_readTable :
    ((after (.readTable .exch 7 3 30 8) up).qm.replies.map fun m => (m.length, m.take 10)) =
      [(70, [1, 0x81, 0, 7, 0, 64, 0, 3, 30, 2])] := by decide +kernel
/-- R24: a cap of 20 is stored as 32. -/
theorem test_writeTableProfile :
    (vget (after (.writeTableProfile .exch 7 1 ⟨1, 20, 0, 480, 0xFF9C⟩) up).ls.profile 1) =
      { valid := true, cap := 32, size := .b32, eff := 480, minMargin := -100 } := by decide +kernel
/-- R24: the current rung is not rewritten while training. -/
theorem test_writeTableProfile_busy :
    (after (.writeTableProfile .exch 7 0 ⟨1, 64, 0, 480, 0⟩) training).qm.replies = [[1, 0x82, 0, 7, 0, 1, 6]] := by
  decide +kernel
/-- R114: 801 is stored as 800. -/
theorem test_writeTableCadence :
    (vget (after (.writeTableCadence .exch 7 7 [801, 2, 3, 4, 5, 6, 7, 8] 1) up).ppu.cadences 7) =
      { durations := #v[800, 2, 3, 4, 5, 6, 7, 8], rep := true } := by decide +kernel
/-- R81: direction up, class bulk, no answer record; DSCP 64 is stored as 63. -/
theorem test_writeTableMatch :
    let m := vget (after (.writeTableMatch (.loc 5) 7 31 ⟨1, 0x67, 0, 0, 0x0800, 17, 64, 0, 1, 65535⟩) up).me.table 31
    (m.dir, m.cls, m.dscp, m.answer) = (some .up, some .bulk, 63, none) := by decide +kernel
theorem test_writeTableAnswer :
    vget (after (.writeTableAnswer (.loc 5) 7 3 1 0x0A 0x0B) up).me.answers 3 = { valid := true, hw := 0x0A, ip := 0x0B } := by
  decide +kernel
/-- R172: a level of 0 written to LINE_DOWN is stored as 1. -/
theorem test_writeTableFault : ((after (.writeTableFault .exch 7 1 0) up).fault .lineDown).exchLevel = 1 := by decide +kernel
/-- R206: an exchange write to the Match Table records detail 515. -/
theorem test_writeTableRefused : ((after (.writeTableRefused .exch 7 3 0 []) up).fault .directiveRefused).detail = 515 := by
  decide +kernel
/-- R214: the status record has 23 bytes and begins with CARRYING, rung 0, 1024 kb/s. -/
theorem test_readStatus :
    ((after (.readStatus .exch 7) up).qm.replies.map fun m => (m.length, m.take 11)) =
      [(30, [1, 0x83, 0, 7, 0, 24, 0, 2, 0, 4, 0])] := by decide +kernel
/-- R209: the ride time, identifier 1, is 400 by default. -/
theorem test_readParam :
    (after (.readParam .exch 7 1) up).qm.replies = [[1, 0x84, 0, 7, 0, 8, 0, 1, 0, 0, 0, 0, 1, 0x90]] := by decide +kernel
/-- R209: a ride time of 3000 is clamped to 2000. -/
theorem test_writeParam : (after (.writeParam .exch 7 1 3000) up).param .rideTime = 2000 := by decide +kernel
/-- R59: a data floor that the bound of R57 cannot carry with the call in progress waits; outside CARRYING a further write replaces
the pending value, and the effective floor is unchanged. -/
theorem test_writeParam_data_floor :
    (after (.writeParam .exch 7 11 8) (up |> talking .a |> onLbu fun b => { b with rate := 512, size := .b128 })).lbu.pendingFloor =
      some 8 ∧
    (let t := after (.writeParam .exch 7 11 3) (up |> inLink .riding |> onLbu fun b => { b with floor := 1, pendingFloor := some 8 })
     t.lbu.pendingFloor = some 3 ∧ t.lbu.floor = 1) := by decide +kernel
/-- R173: the local latch alone is cleared. -/
theorem test_clearFault :
    let s := setRec .ride { State.reset.fault .ride with locLatch := true, exchLatch := true, count := 3 } up
    (((after (.clearFault (.loc 5) 7 2 0) s).fault .ride).locLatch, ((after (.clearFault (.loc 5) 7 2 0) s).fault .ride).exchLatch,
      ((after (.clearFault (.loc 5) 7 2 0) s).fault .ride).count) = (false, true, 3) := by decide +kernel
theorem test_lineActionStart : (after (.lineActionStart .exch 7) State.reset).ls.link = .training := by decide +kernel
theorem test_lineActionStop : (after (.lineActionStop .exch 7) up).out.xcvr = [.halt] := by decide +kernel
/-- R38: the event's detail is the rung. -/
theorem test_lineActionRetrain :
    ((after (.lineActionRetrain .exch 7) (onLs (fun l => { l with rung := 2 }) (ladder up))).fault .retrain).detail = 2 := by
  decide +kernel
theorem test_lineActionStepDown : (after (.lineActionStepDown .exch 7) (ladder up)).ls.rung = 1 := by decide +kernel
theorem test_lineActionStepUp :
    (after (.lineActionStepUp .exch 7) (onLs (fun l => { l with rung := 2 }) (ladder up))).ls.rung = 1 := by decide +kernel
/-- R195: channel 14 with the 600 s default limit. -/
theorem test_loopOn :
    (after (.loopOn .exch 7 14) up).ls.loopback = some { channel := .fourteen, limit := { limit := 600000, elapsed := 0 } } := by
  decide +kernel
theorem test_loopOff : (after (.loopOff .exch 7) (after (.loopOn .exch 7 3) up)).ls.loopback = none := by decide +kernel
/-- R197: 61 seconds are stored as 60, and the reply says so. -/
theorem test_testRing :
    (after (.testRing .exch 7 1 0 61) up).qm.replies = [[1, 0x88, 0, 7, 0, 2, 0, 60]] ∧
      ((after (.testRing .exch 7 1 0 61) up).port .a).state = .testing := by decide +kernel
/-- R120, R197, R205, R206: on battery a test ring is refused with BUSY while the other port rings, and no fault is recorded. -/
theorem test_testRing_limited :
    let t := after (.testRing .exch 7 1 0 5) (onFu (fun u => { u with power := .battery }) ringing)
    t.fu = (onFu (fun u => { u with power := .battery }) ringing).fu ∧ t.qm.replies = [[1, 0x88, 0, 7, 0, 1, 6]] ∧
      t.tr.test = none := by decide +kernel
/-- R197: cadence 2 is empty by default. -/
theorem test_echoTest_empty : (after (.echoTest .exch 7 2 2 5) up).qm.replies = [[1, 0x88, 0, 7, 0, 1, 5]] := by decide +kernel
theorem test_releasePort : ((after (.releasePort .exch 7 1) (talking .a up)).port .a).tone = some .release := by decide +kernel
theorem test_disable : ((after (.disable .exch 7 2) up).port .b).state = .disabled := by decide +kernel
/-- R112, R104: a port enabled with its handset lifted originates. -/
theorem test_enable :
    ((after (.enable .exch 7 2) (onPort .b (fun u => { u with state := .disabled, closed := true }) up)).call .zero).signals =
      [.seize .b] := by decide +kernel
/-- R187: WRONG_STATE while the host address is zero, the default. -/
theorem test_quietEnter : (after (.quietEnter (.loc 5) 7) up).me.quiet = false := by decide +kernel
theorem test_quietLeave :
    (after (.quietLeave (.loc 5) 7 0) (onMe (fun m => { m with quiet := true, wake := true }) up)).me.wake = false := by
  decide +kernel
/-- R216, R39: no reply, and LINE_DOWN afresh. -/
theorem test_reset :
    (after (.reset .exch 7) (fullReplies (onQm (fun q => { q with replies := [] }) up))).qm.replies = List.replicate 4 [0] ∧
      ((after (.reset .exch 7) up).fault .lineDown).active = true ∧ (after (.reset .exch 7) up).qm.replies = [] := by decide +kernel
/-- R204: an exchange directive finds the reply queue full. -/
theorem test_exchange_discarded : (after (.readStatus .exch 7) (fullReplies up)).counter Ctr.exchangeDiscarded = 1 := by
  decide +kernel

/-! ## Witnesses: a state and operands that meet the hypotheses of each statement -/

/-! ### The machine and its invariants -/

theorem witness_StepRunsFrontCommand :
    { up with pending := [.noTrain, .syncLost] }.pending = .noTrain :: [.syncLost] := rfl

theorem witness_IdleStepKeepsTime :
    up.pending = [] ∧ (onFu (fun u => { u with tick := 998 }) up).fu.tick < 999 ∧
      ¬ (onFu (fun u => { u with tick := 999 }) up).fu.tick < 999 := by decide +kernel

/-- Every queue, store and history at its capacity, every counter at its limit. -/
def full : State :=
  { up with
    pending := [.homeLinkUp], counters := Vector.replicate 176 4294967295,
    qm := { priority := List.replicate 64 (List.replicate 256 0), bulk := List.replicate 128 (List.replicate 256 0),
            replies := List.replicate 4 [0], homeUp := true,
            fifo := List.replicate 16 { kind := .delivered, bytes := List.replicate 1536 0 } } }
    |> onCall .one (fun c => { c with signals := List.replicate 8 .flash })
    |> onBf (fun b => { b with loopStore := List.replicate 16 { kind := .whole, frameNo := 0, used := 1, payload := [1] } })
    |> onLs (fun l => { l with history := List.replicate 60 .clean, gradesSince := 60 })

theorem witness_StepKeepsCapacities : (CapacitiesOk full ∧ CountersOk full) ∧ step full = .next (after .homeLinkUp { full with pending := [] }) := by
  refine ⟨⟨⟨?_, ?_, ?_, ?_, ?_, ?_, ?_, ?_, ?_, ?_, ?_⟩, ?_⟩, rfl⟩
  case refine_8 => intro n; cases n <;> decide +kernel
  case refine_12 => unfold CountersOk; decide +kernel
  all_goals decide +kernel

/-- Both lists hold items in their order, and a record has counted to its limit. -/
def reported : State :=
  { up with pending := [.homeLinkUp] }
    |> setRec .ride { State.reset.fault .ride with count := 65535, locLatch := true }
    |> onFu fun u =>
      { u with exchList := [⟨.batteryLow, 3, 7, 1⟩, ⟨.ride, 1, 2, 255⟩], locList := [⟨.lineDown, 2, 2, 1⟩, ⟨.ride, 1, 2, 2⟩] }

theorem reported_ok : FaultsOk reported := by
  refine ⟨?_, ?_, ?_, ⟨?_, ?_, ?_, ?_⟩, ⟨?_, ?_, ?_, ?_⟩⟩
  case refine_1 => intro k a; cases k <;> cases a <;> decide +kernel
  case refine_2 => intro k; cases k <;> decide +kernel
  case refine_3 => intro k; cases k <;> decide +kernel
  all_goals decide +kernel

/-- A parameter at the end of its range, a rung at its lower ends, a cadence at its longest. -/
def settled : State :=
  reported |> setParam .rideTime 2000 |> setParam .ownAddress 0xFFFFFFFFFFFF
    |> onLs (fun l => { l with profile := vset l.profile 7 { valid := true, cap := 32, size := .b32, eff := 256, minMargin := -100 } })
    |> onPpu (fun u => { u with cadences := vset u.cadences 5 { durations := Vector.replicate 8 800, rep := false } })

theorem settled_ok : SettingsOk settled := by
  refine ⟨?_, ?_, ?_, ?_, ?_⟩
  case refine_1 => intro p; cases p <;> (simp only [Param.allows, Param.rule]; decide +kernel)
  case refine_2 => unfold Rung.allowed; decide +kernel
  case refine_3 => exact ⟨7, by decide +kernel⟩
  all_goals decide +kernel

theorem witness_StepKeepsRecordsAndSettings :
    (FaultsOk settled ∧ SettingsOk settled) ∧ step settled = .next (after .homeLinkUp { settled with pending := [] }) :=
  ⟨⟨⟨reported_ok.levels, reported_ok.events, reported_ok.counts, reported_ok.exch, reported_ok.loc⟩, settled_ok⟩, rfl⟩

/-- A budget record with every field at the end of its range. -/
def budgeted : State :=
  onLbu (fun _ => { rate := 16383, size := .b32, eff := 512, bitsCarry := 511, blockCarry := 255, blocks := 640, floor := 8,
                    pendingFloor := some 8, turn := .one, urgent := true }) settled

theorem budgeted_ok : RecordOk budgeted := by
  refine ⟨?_, ?_, ?_, ?_, ?_, ?_, ?_⟩
  case refine_7 =>
    intro d h
    cases h
    decide
  all_goals decide +kernel

theorem witness_StepKeepsTheBudgetRecord :
    (SettingsOk budgeted ∧ RecordOk budgeted) ∧ step budgeted = .next (after .homeLinkUp { budgeted with pending := [] }) :=
  ⟨⟨⟨settled_ok.params, settled_ok.rungs, settled_ok.ladder, settled_ok.cadences, settled_ok.dscp⟩, budgeted_ok⟩, rfl⟩

/-- A call on slot 0 with a full builder and a frame due, port B ringing on slot 1. -/
def voiced : State :=
  { ringing with pending := [.homeLinkUp] } |> talking .a
    |> onMedia .zero (fun m => { m with media := .flowing, builder := some { codes := List.replicate 80 7, muted := false },
                                        due := some (List.replicate 84 1) })

theorem voiced_calls : CallsOk voiced := by
  intro n
  cases n <;> refine ⟨?_, ?_, ?_⟩ <;> decide +kernel

theorem voiced_frames : VoiceOk voiced := by
  refine ⟨?_, ?_⟩
  · intro n b h
    cases n <;> cases h
    decide +kernel
  · intro n f h
    cases n <;> cases h
    decide +kernel

theorem witness_StepKeepsCallsAndVoiceFrames :
    (CallsOk voiced ∧ VoiceOk voiced) ∧ step voiced = .next (after .homeLinkUp { voiced with pending := [] }) :=
  ⟨⟨voiced_calls, voiced_frames⟩, rfl⟩

/-- Two calls on a line whose s, 13, is just what v × F(S) + 1 + Dmin comes to: 2 × 2 + 1 + 8. -/
def tight : State := voiced |> onLbu fun b => { b with rate := 710, floor := 8 }

theorem witness_StepKeepsTheBudgetBound :
    (CallsOk tight ∧ BudgetOk tight) ∧ step tight = .next (after .homeLinkUp { tight with pending := [] }) :=
  ⟨⟨voiced_calls, by unfold BudgetOk; decide +kernel⟩, rfl⟩

theorem tight_is_tight : 2 * tight.lbu.size.voiceBlocks + 1 + tight.lbu.floor = tight.lbu.sustained ∧ tight.reserved = 2 := by
  decide +kernel

/-! ### The line budget and voice -/

theorem voiced_record : RecordOk voiced := by
  refine ⟨?_, ?_, ?_, ?_, ?_, ?_, ?_⟩
  case refine_7 =>
    intro d h
    cases h
  all_goals decide +kernel

theorem witness_PeriodsEmitTheirBlocks :
    (voiced.ls.link = .carrying ∧ VoiceOk voiced ∧ CountersOk voiced ∧ RecordOk voiced) ∧ training.ls.link ≠ .carrying := by
  refine ⟨⟨by decide +kernel, voiced_frames, ?_, voiced_record⟩, by decide +kernel⟩
  unfold CountersOk
  decide +kernel

/-- Every step of the grant order has something to send: BATTERY_LOW claims the first slot, both slots have signals, a probe reply,
frames of both classes and a reply wait. -/
def busy : State :=
  voiced |> onLbu (fun b => { b with urgent := true }) |> onTr (fun t => { t with probe := some [0x42, 0, 0, 0] })
    |> onCall .zero (fun c => { c with signals := [.flash] }) |> onCall .one (fun c => { c with signals := [.flash] })
    |> onQm (fun q => { q with priority := [List.replicate 60 1], bulk := [List.replicate 1500 2], replies := [[3]] })
    |> onFu fun u => { u with exchList := [⟨.batteryLow, 3, 7, 1⟩] }

/-- R61 by hand, 18 slots: the claim, two voice blocks, slot 0's control block, the probe reply, the bulk floor's block, two blocks
of a 60-byte frame, ten more of the Bulk frame. -/
theorem test_budgetPeriodStart_order :
    ((after .budgetPeriodStart (setParam .bulkFloor 1 busy)).out.line.map fun b => (b.headD 0).toNat / 16) =
      [15, 0, 0, 0, 14, 3, 2, 2] ++ List.replicate 10 3 := by decide +kernel

/-- Periods taken one after another. -/
def periods : Nat → State
  | 0 => voiced
  | n + 1 => after .budgetPeriodStart (periods n)

theorem witness_CarriesKeepTheAccount :
    (periods 0).ls.link = .carrying ∧ VoiceOk (periods 0) ∧
      ∀ i, i < 100 → exec .budgetPeriodStart (periods i) = .next (periods (i + 1)) :=
  ⟨by decide +kernel, voiced_frames, fun _ _ => rfl⟩

theorem witness_CodesExpandToTheMiddleOfTheirStep : (-32768 : Int) ≤ -32768 ∧ (32767 : Int) ≤ 32767 := by decide

/-- Port A in a call whose builder is one code short of full, port B idle. -/
def building : State :=
  talking .a up |> onMedia .zero fun m => { m with media := .flowing, builder := some { codes := List.replicate 79 7, muted := false } }

theorem witness_SampleMovesTheMedia :
    (building.port .a).state = .inCall ∧ building.slotOf .a = some .zero ∧ (building.port .b).state = .idle ∧
      (building.media .zero).builder = some { codes := List.replicate 79 7, muted := false } ∧
      (List.replicate 79 (7 : Byte)).length < 80 := by decide +kernel

theorem witness_FullBuildersClose :
    (voiced.media .zero).builder = some { codes := List.replicate 80 7, muted := false } ∧
      (List.replicate 80 (7 : Byte)).length = 80 ∧ (building.media .one).builder = none := by decide +kernel

/-- Slot 0 plays from sequence 65535, which the ring holds at its last place. -/
def playing : State :=
  onMedia .zero (fun m => { m with media := .flowing, play := .playing, base := some 65535, miss := 4,
                                   ring := vset m.ring 15 (some { seq := 65535, silent := false, codes := List.replicate 80 7 }) })
    (talking .a up)

theorem witness_PeriodPlaysTheNextFrame :
    (playing.media .zero).play = .playing ∧ (playing.media .zero).base = some 65535 ∧
      vget (playing.media .zero).ring (Fin.ofNat 16 65535) =
        some { seq := 65535, silent := false, codes := List.replicate 80 7 } := by decide +kernel

/-- The same slot with the place of the next frame empty, after four misses. -/
def missing : State := onMedia .zero (fun m => { m with ring := Vector.replicate 16 none }) playing

theorem witness_PeriodPlaysTheNextFrame_missing :
    (missing.media .zero).play = .playing ∧ (missing.media .zero).base = some 65535 ∧ (missing.media .zero).miss = 4 ∧
      vget (missing.media .zero).ring (Fin.ofNat 16 65535) = none := by decide +kernel

/-! ### The Fault Unit -/

theorem witness_ReportsAreRecordedAndListed :
    (FaultKind.ride.isCondition = false ∧ (onQm (fun q => { q with homeUp := false }) reported).qm.homeUp = false) ∧
      (FaultKind.lineDown.isCondition = true ∧ (reported.fault .lineDown).active = false ∧
        (onMe (fun m => { m with quiet := true }) reported).me.quiet = true) := by decide +kernel

theorem witness_EndsOnlyClearActive :
    FaultKind.lineDown.isCondition = true ∧ (reported.fault .lineDown).active = false ∧
      ((setRec .lineDown { reported.fault .lineDown with active := true } reported).fault .lineDown).active = true := by
  decide +kernel

/-! ### The Line Supervisor -/

theorem witness_StrayMessagesAreOnlyCounted :
    State.reset.ls.link ≠ .training ∧ State.reset.ls.link ≠ .retraining ∧ State.reset.ls.link ≠ .carrying ∧
      up.ls.link ≠ .riding := by decide +kernel

/-- Retraining with a call on slot 0. -/
def retraining : State :=
  up |> talking .a |> inLink .retraining
    |> onLs fun l => { l with train := some { limit := 90000, elapsed := 5 }, hold := some { limit := 20000, elapsed := 5 } }

/-- Retraining with a call on slot 0 and port B ringing on slot 1. -/
def crowded : State := inLink .retraining voiced

/-- What the rung in use makes of a rate: the bound of R60 that a training there is judged by. -/
def trainedBound (rate : Nat) (s : State) : Nat → Bool :=
  let rung := vget s.ls.profile s.ls.rung
  boundMet rung.size (10 * min rate rung.cap * rung.eff / 512 / (8 * rung.size.bytes)) (s.param .dataFloor)

/-- The floor rate itself is accepted. With two slots 256 kb/s give s = 5, which is the bound; 160 kb/s give 3, which holds one slot,
so that the ringing one, of the higher number at equal stamps, is cut; 64 kb/s give 1, which holds none. -/
theorem witness_TrainedEntersCarrying :
    (training.ls.link = .training ∧ training.param .floorRate ≤ min 64 (vget training.ls.profile training.ls.rung).cap ∧
      cutsAtReturn (trainedBound 64 training) training = []) ∧
    (crowded.ls.link = .retraining ∧ crowded.param .floorRate ≤ min 64 (vget crowded.ls.profile crowded.ls.rung).cap ∧
      crowded.ppu.pair = .apart ∧ (crowded.call .one).ringSet = { a := false, b := true } ∧
      (crowded.call .zero).ringSet = { a := false, b := false } ∧ (crowded.port .b).closed = false ∧
      cutsAtReturn (trainedBound 256 crowded) crowded = [] ∧ cutsAtReturn (trainedBound 160 crowded) crowded = [.one] ∧
      cutsAtReturn (trainedBound 64 crowded) crowded = [.one, .zero]) := by decide +kernel

/-- R60: the last admitted slot goes first, whatever its number; CLEAR(BUDGET) is signalled, CALL_CUT has the slot's number. -/
theorem witness_FailedTrainingGoesDownTheLadder :
    (ladder training).ls.link = .training ∧ (ladder training).rungBelow (ladder training).ls.rung = some 1 ∧
      min 63 (vget (ladder training).ls.profile (ladder training).ls.rung).cap < (ladder training).param .floorRate ∧
      (ladder training).ls.train ≠ none := by decide +kernel

theorem witness_FailedRoundWaits :
    (training.ls.link = .training ∧ training.rungBelow training.ls.rung = none ∧ training.ls.train ≠ none ∧
      min 63 (vget training.ls.profile training.ls.rung).cap < training.param .floorRate) ∧
    (retraining.ls.link = .retraining ∧ retraining.rungBelow retraining.ls.rung = none) := by decide +kernel

theorem witness_LostSyncStartsARide : voiced.ls.link = .carrying ∧ voiced.param .rideTime ≠ 0 := by decide +kernel

/-- Riding with two calls on a line whose s is just enough for them. -/
def riding : State := tight |> setParam .dataFloor 8 |> inLink .riding |> onLs fun l => { l with ride := some { limit := 400, elapsed := 399 } }

/-- The same at a floor that one slot can carry, and the ringing one is cut. -/
theorem witness_SyncBackEndsTheRide :
    let bound (s : State) := boundMet s.lbu.size s.lbu.sustained (s.param .dataFloor)
    let slow := onLbu (fun b => { b with rate := 640 }) riding
    (riding.ls.link = .riding ∧ cutsAtReturn (bound riding) riding = []) ∧
    (slow.ls.link = .riding ∧ cutsAtReturn (bound slow) slow = [.one] ∧ slow.ls.stepUpDeferred = false ∧ slow.ppu.pair = .apart ∧
      (slow.call .one).ringSet = { a := false, b := true } ∧ (slow.port .b).closed = false) := by decide +kernel

/-- R60: the last admitted slot goes first, whatever its number; CLEAR(BUDGET) is signalled, CALL_CUT has the slot's number. -/
theorem test_syncBack_preempts :
    let t := after .syncBack (riding |> onLbu (fun b => { b with rate := 640 }) |> onCall .zero fun c => { c with stamp := 1 })
    (t.call .zero).signals = [.clear .budget] ∧ (t.fault .callCut).detail = 0 ∧ (t.call .one).state = .alerting := by
  decide +kernel

theorem witness_RideTimerExpiryRetrains : riding.ls.link = .riding ∧ riding.ls.ride ≠ none := by decide +kernel

/-- Waiting for the next round. -/
def waiting : State := State.reset |> inLink .waiting |> onLs fun l => { l with backoff := some { limit := 30000, elapsed := 0 } }

theorem witness_HoldAndBackoffTimersExpire :
    (retraining.ls.link = .retraining ∧ retraining.ls.hold ≠ none) ∧ waiting.ls.link = .waiting ∧ waiting.ls.backoff ≠ none := by
  decide +kernel

theorem witness_MarginsAreJudged :
    up.ls.link = .carrying ∧ up.ls.inUse.minMargin ≤ (0 : Half).toInt ∧ (0xFFFF : Half).toInt < up.ls.inUse.minMargin ∧
      min (up.ls.lowMargin + 1) 255 ≠ 10 ∧ (onLs (fun l => { l with lowMargin := 9 }) (ladder up)).ls.lowMargin = 9 ∧
      (up.fault .marginLow).active = false ∧ (ladder up).rungBelow (ladder up).ls.rung = some 1 := by decide +kernel

/-- The second that makes the severe count, on rung 0 of three. -/
def failing : State := onLs (fun l => { l with history := List.replicate 59 .severe, gradesSince := 59, crcBad := 65535 }) (ladder up)

/-- The second that makes the clean run, on rung 2 of three. -/
def clearing : State := onLs (fun l => { l with rung := 2, cleanRun := 65534, margin := 400 }) (ladder up)

/-- Each case of a second: outside CARRYING; neither step; down with and without a call; up with and without one. -/
theorem witness_SecondsAreGraded :
    training.ls.link ≠ .carrying ∧ (up.ls.link = .carrying ∧ up.rungBelow up.ls.rung = none ∧ up.rungAbove up.ls.rung = none) ∧
    (failing.ls.link = .carrying ∧ failing.param .severeThreshold ≤ failing.ls.crcBad ∧ failing.param .stepDownCount ≤ 60 ∧
      (failing.fault .severeRun).active = false ∧ failing.rungBelow failing.ls.rung = some 1 ∧ failing.reserved = 0 ∧
      (talking .a failing).reserved = 1) ∧
    (clearing.ls.link = .carrying ∧ clearing.rungBelow clearing.ls.rung = none ∧ clearing.rungAbove clearing.ls.rung = some 1 ∧
      clearing.param .startRung ≤ 1 ∧ min (clearing.param .stepUpPeriod) 65535 ≤ min (clearing.ls.cleanRun + 1) 65535 ∧
      (vget clearing.ls.profile 1).minMargin + (clearing.param .marginHysteresis : Int) ≤ clearing.ls.margin ∧
      clearing.reserved = 0 ∧ (talking .a clearing).reserved = 1) := by decide +kernel

/-! ### Line blocks and frames -/

theorem witness_LineBlocksReadBack : (List.replicate 58 (7 : Byte)).length ≤ BlockSize.b64.payload ∧ 255 < 256 := by decide +kernel

theorem witness_FramesCrossTheLine :
    assigned 3 = true ∧ 1 ≤ (List.replicate 1518 (7 : Byte)).length ∧ (List.replicate 1518 (7 : Byte)).length ≤ largestFrame 3 ∧
      up.lbu.size = up.lbu.size ∧ up.ls.link = .carrying ∧ up.ls.loopback = none ∧ (up.chan 3).asm = none ∧
      (up.chan 3).expected = none := by decide +kernel

/-- A block for channel 3 of the line `up`. -/
def block (kind : BlockKind) (fill : Bool) (used : Nat) : Bytes := blockBytes .b64 3 kind false fill 9 used 0 (List.replicate 58 1)

theorem witness_MalformedBlocksAreDiscarded :
    up.ls.link = .carrying ∧ blockGood up.lbu.size (block .first false 57) = true ∧
      blockGood up.lbu.size (block .whole false 0) = true ∧ blockGood up.lbu.size (block .last false 59) = true ∧
      ((readBlock .b64 (block .first false 57)).used, (readBlock .b64 (block .whole false 0)).used,
        (readBlock .b64 (block .last false 59)).used) = (57, 0, 59) ∧
      (readBlock .b64 (block .first false 57)).fill = false ∧ assigned (readBlock .b64 (block .first false 57)).chan = true ∧
      (up.chan 3).expected = none := by decide +kernel

theorem witness_BlocksAreCheckedInOrder :
    training.ls.link ≠ .carrying ∧ up.ls.link = .carrying ∧ blockGood up.lbu.size (List.replicate 64 0) = false ∧
      (readBlock .b64 (block .whole true 1)).fill = true ∧ blockGood .b64 (block .whole true 1) = true ∧
      ((readBlock .b64 (blockBytes .b64 4 .whole false false 0 1 0 [1])).chan,
        (readBlock .b64 (blockBytes .b64 13 .whole false false 0 1 0 [1])).chan) = (4, 13) ∧
      (readBlock .b64 (block .first false 58)).used = up.lbu.size.payload ∧ (readBlock .b64 (block .first false 58)).kind = .first ∧
      58 ≤ largestFrame 3 ∧ up.looped 3 = false ∧ (up.chan 3).asm = none ∧ blockGood .b64 (block .first false 58) = true := by
  decide +kernel

/-- Slot 0 in use, slot 1 FREE, port B IDLE; s is 18, and with a quarter of the rate 4, one short of the bound. -/
theorem witness_AlertsRingTheirPorts :
    let s := talking .a up
    let slow := onLbu (fun b => { b with rate := 256 }) s
    ((s.call .zero).state ≠ .free ∧ (s.call .one).state = .free ∧ (s.port .a).state ≠ .idle ∧ (s.port .b).state = .idle ∧
      (2 : Byte).getLsbD 1 = true ∧ (7 : Byte).toNat < 8 ∧
      ¬ (∀ i, vget (vget s.ppu.cadences (Fin.ofNat 8 1)).durations i = 0) ∧
      (∀ i, vget (vget s.ppu.cadences (Fin.ofNat 8 7)).durations i = 0) ∧ s.ls.link = .carrying ∧ s.fu.power = .mains) ∧
    ((s.reserved + 1) * s.lbu.size.voiceBlocks + 1 + s.lbu.floor ≤ s.lbu.sustained) ∧
    ¬ ((slow.reserved + 1) * slow.lbu.size.voiceBlocks + 1 + slow.lbu.floor ≤ slow.lbu.sustained) := by decide +kernel

/-- Outside MAINS: both ports IDLE, of which port A rings, and port A alone, held back while port B rings. -/
theorem witness_AlertsRingTheirPorts_limited :
    let both := onFu (fun u => { u with power := .battery }) up
    let held := onFu (fun u => { u with power := .battery }) ringing
    ((both.call .zero).state = .free ∧ (both.port .a).state = .idle ∧ (both.port .b).state = .idle ∧
      (3 : Byte).getLsbD 0 = true ∧ (3 : Byte).getLsbD 1 = true ∧ both.holdsRinger .b = false ∧ both.fu.power ≠ .mains ∧
      both.ls.link = .carrying ∧
      (both.reserved + 1) * both.lbu.size.voiceBlocks + 1 + both.lbu.floor ≤ both.lbu.sustained) ∧
    ((held.call .zero).state = .free ∧ (held.port .a).state = .idle ∧ (held.port .b).state ≠ .idle ∧
      held.holdsRinger .b = true ∧ held.fu.power ≠ .mains ∧ held.ls.link = .carrying ∧
      (held.reserved + 1) * held.lbu.size.voiceBlocks + 1 + held.lbu.floor ≤ held.lbu.sustained ∧
      ¬ (∀ i, vget (vget held.ppu.cadences (Fin.ofNat 8 1)).durations i = 0)) := by decide +kernel

/-- Base 65535: sequence 65535 is held, 14 lies 15 ahead, 15 lies 16 ahead, 32766 is the farthest overrun, 32767 is late. -/
theorem witness_VoiceFramesFillTheRing :
    (List.replicate 80 (5 : Byte)).length = 80 ∧ (up.media .zero).play = .off ∧ (playing.media .zero).play ≠ .off ∧
      (playing.media .zero).base = some 65535 ∧
      vget (playing.media .zero).ring (Fin.ofNat 16 65535) =
        some { seq := 65535, silent := false, codes := List.replicate 80 7 } ∧
      ((14 : Half) - 65535).toNat = 15 ∧ vget (playing.media .zero).ring (Fin.ofNat 16 14) = none ∧
      ((15 : Half) - 65535).toNat = 16 ∧ ((32766 : Half) - 65535).toNat = 32767 ∧ ((32767 : Half) - 65535).toNat = 32768 ∧
      (onMedia .zero (fun m => { m with play := .filling }) up |>.media .zero).base = none := by decide +kernel

theorem witness_ProbesAreAnswered :
    let longest : Bytes := [0x41, 200, 1, 2] ++ List.replicate 200 9
    4 ≤ longest.length ∧ longest.getD 0 0 = 0x41 ∧ (longest.getD 1 0).toNat ≤ 200 ∧
      longest.length = (longest.getD 1 0).toNat + 4 ∧ ([0x41, 0, 1, 2] : Bytes).length = 0 + 4 := by decide +kernel

/-! ### The home port -/

/-- One place left in each queue, in frames and in bytes; the first entry of the Match Table sends everything up to PRIORITY or
drops it. -/
def queued (cls : Option FrameClass) : State :=
  let first : MatchEntry := { matchReset with valid := cls.isSome, dir := some .both, dscpAny := true, cls := cls }
  up |> onQm (fun q => { q with priority := List.replicate 63 (List.replicate 259 0), bulk := List.replicate 127 [] })
    |> onMe fun m => { m with table := vset m.table 0 first }

theorem witness_HomeFramesAreQueuedByClass :
    (List.replicate 63 (1 : Byte)).length < 64 ∧ 1522 < (List.replicate 1523 (1 : Byte)).length ∧
      homeFrame.length = 64 ∧ homeFrame.drop 60 = fcsBytes (homeFrame.take 60) ∧
      numAt (homeFrame.take 60) (typeOffset (homeFrame.take 60)) 2 ≠ some 0x9A21 ∧ up.me.quiet = false ∧ up.qm.homeUp = true ∧
      up.fu.power = .mains ∧ (List.replicate 64 (1 : Byte)).drop 60 ≠ fcsBytes ((List.replicate 64 1).take 60) := by
  decide +kernel

theorem witness_HomeFramesAreQueuedByClass_classes :
    let f := homeFrame.take 60
    let s (c : Option FrameClass) := queued c
    (s (some .drop)).classFor true ((s (some .drop)).matchFor true (parseFrame f)) = .drop ∧
      (s (some .priority)).classFor true ((s (some .priority)).matchFor true (parseFrame f)) = .priority ∧
      (s none).classFor true ((s none).matchFor true (parseFrame f)) = .bulk ∧
      (s none).qm.priority.length < 64 ∧ ((s none).qm.priority.map List.length).sum + f.length ≤ 16384 ∧
      (s none).qm.bulk.length < 128 ∧ ((s none).qm.bulk.map List.length).sum + f.length ≤ 32768 := by decide +kernel

/-- The queues one place fuller, by frames, and by bytes with few frames. -/
theorem witness_HomeFramesAreQueuedByClass_refused :
    let f := homeFrame.take 60
    let fuller := onQm (fun q => { q with priority := List.replicate 64 [], bulk := List.replicate 128 [] }) (queued (some .priority))
    let heavy := onQm (fun q => { q with priority := [List.replicate 16325 0], bulk := [List.replicate 32709 0] }) (queued (some .priority))
    (64 ≤ fuller.qm.priority.length ∧ 128 ≤ fuller.qm.bulk.length) ∧
      (heavy.qm.priority.length < 64 ∧ 16384 < (heavy.qm.priority.map List.length).sum + f.length) ∧
      (heavy.qm.bulk.length < 128 ∧ 32768 < (heavy.qm.bulk.map List.length).sum + f.length) ∧
      fuller.classFor true (fuller.matchFor true (parseFrame f)) = .priority ∧
      heavy.classFor true (heavy.matchFor true (parseFrame f)) = .priority ∧
      (onFu (fun u => { u with power := .battery }) up).fu.power ≠ .mains := by decide +kernel

/-- An ARP request for 10.0.0.9, from 10.0.0.7. -/
def arpRequest : Bytes :=
  List.replicate 6 0xFF ++ be48 7 ++ [8, 6] ++ [0, 1, 8, 0, 6, 4, 0, 1] ++ be48 7 ++ [10, 0, 0, 7] ++ be48 0 ++ [10, 0, 0, 9] ++
    List.replicate 18 0

/-- Quiet, with an Answer record for 10.0.0.9 at the entry that ARP takes, and a host address of 9. -/
def sleeping (wake forward : Bool) : State :=
  let first : MatchEntry :=
    { matchReset with valid := true, dir := some .both, dscpAny := true, wake := wake, forward := forward, answer := some 0 }
  setParam .hostAddress 9 up |> onMe fun m =>
    { m with quiet := true, table := vset m.table 0 first, answers := vset m.answers 0 { valid := true, hw := 9, ip := 0x0A000009 } }

theorem witness_HomeFramesAreQueuedByClass_answered :
    let s := sleeping false true
    let p := payloadOf arpRequest
    arpRequest.length = 60 ∧ (arpRequest ++ fcsBytes arpRequest).drop 60 = fcsBytes arpRequest ∧ s.me.quiet = true ∧
      numAt arpRequest (typeOffset arpRequest) 2 = some 0x0806 ∧ 28 ≤ p.length ∧ p.take 8 = [0, 1, 8, 0, 6, 4, 0, 1] ∧
      (vget s.me.answers 0).valid = true ∧ (p.drop 24).take 4 = be32 (vget s.me.answers 0).ip.toNat ∧
      s.matchFor true (parseFrame arpRequest) = some 0 ∧ (vget s.me.table 0).answer = some 0 ∧
      (vget s.me.table 0).forward = true ∧ (vget (sleeping false false).me.table 0).forward = false := by decide +kernel

/-- R192: the reply goes to the requester from the record's address; the request is discarded. -/
theorem test_homeFrameReceived_arp :
    let t := after (.homeFrameReceived (arpRequest ++ fcsBytes arpRequest)) (sleeping false false)
    let answer := be48 7 ++ be48 9 ++ [8, 6, 0, 1, 8, 0, 6, 4, 0, 2] ++ be48 9 ++ [10, 0, 0, 9] ++ be48 7 ++ [10, 0, 0, 7]
    t.qm.fifo = [{ kind := .arpAnswer, bytes := answer }] ∧ t.qm.bulk = [] := by decide +kernel

/-- A frame to the sleeping host, to another, a runt and one over 1518 bytes. -/
theorem witness_HomeFramesAreQueuedByClass_downstream :
    let toHost := be48 9 ++ be48 5 ++ [8, 0] ++ List.replicate 46 0
    let s := sleeping true false
    s.me.quiet = true ∧ s.param .hostAddress ≠ 0 ∧ numAt toHost 0 6 = some (s.param .hostAddress) ∧
      numAt arpRequest 0 6 ≠ some (s.param .hostAddress) ∧ s.matchFor false (parseFrame toHost) = some 0 ∧
      ((vget s.me.table 0).wake = true ∧ (vget s.me.table 0).forward = false ∧
        (vget (sleeping true true).me.table 0).forward = true ∧ (vget (sleeping false true).me.table 0).wake = false) ∧
      (queued (some .drop)).classFor false ((queued (some .drop)).matchFor false (parseFrame toHost)) = .drop ∧
      s.classFor false (s.matchFor false (parseFrame toHost)) ≠ .drop ∧ ¬ toHost.length < 14 ∧
      numAt toHost 12 2 ≠ some 0x8100 ∧ toHost.length ≤ 1518 ∧ (List.replicate 13 (1 : Byte)).length < 14 ∧
      1518 < (List.replicate 1519 (1 : Byte)).length := by decide +kernel

theorem witness_HomeItemsLeaveInOrder :
    full.qm.homeUp = true ∧ full.qm.fifo = { kind := .delivered, bytes := List.replicate 1536 0 } ::
      List.replicate 15 { kind := .delivered, bytes := List.replicate 1536 0 } := by decide +kernel

theorem witness_HomeLinkChanges :
    (onQm (fun q => { q with fifo := [{ kind := .arpAnswer, bytes := [1] }] }) up).counter (Ctr.lostLinkDown .arpAnswer) ≤
      Config.max32 := by decide +kernel

/-! ### Phone ports -/

/-- No call yet, and s is 3: one call, the block kept for data and no floor. -/
def narrow : State := onLbu (fun b => { b with rate := 171, eff := 480 }) up

theorem witness_OffHookOriginatesACall :
    (narrow.port .b).state = .idle ∧ (narrow.port .b).closed = false ∧ (narrow.port .b).inRingOn = false ∧
      narrow.joinSlot = none ∧ narrow.ls.link = .carrying ∧ narrow.lowestFree = some .zero ∧
      (narrow.call .zero).signals.length < 8 ∧
      (narrow.reserved + 1) * narrow.lbu.size.voiceBlocks + 1 + narrow.lbu.floor = narrow.lbu.sustained := by decide +kernel

/-- Port A in a call with its loop and its measure count as given. -/
def loop (closed : Bool) (measure : Nat) : State :=
  talking .a up |> onPort .a fun u => { u with closed := closed, measure := measure }

theorem witness_LoopOpensAndPulsesInACall :
    ((loop true 7).port .a).state = .inCall ∧ ((loop true 7).port .a).inRingOn = false ∧ ((loop true 7).port .a).closed = true ∧
      ((loop false 20).port .a).closed = false ∧ 20 ≤ ((loop false 20).port .a).measure ∧
      ((loop false 120).port .a).measure ≤ 120 ∧ ((loop false 19).port .a).measure ≤ 19 := by decide +kernel

/-- Port A in a call with pulses in hand and its interdigit compare armed. -/
def pulsed (pulses : Nat) : State :=
  talking .a up |> onPort .a fun u => { u with pulses := pulses, compare := some { kind := .interdigit, value := 300 } }

theorem witness_InterdigitMakesADigit :
    ((pulsed 1).port .a).state = .inCall ∧ ((pulsed 1).port .a).compare = some { kind := .interdigit, value := 300 } ∧
      (pulsed 1).slotOf .a = some .zero ∧ 1 ≤ ((pulsed 1).port .a).pulses ∧ ((pulsed 10).port .a).pulses ≤ 10 ∧
      ((pulsed 1).call .zero).signals.length < 8 ∧ 11 ≤ ((pulsed 11).port .a).pulses := by decide +kernel

theorem witness_RingTripAnswersTheCall :
    (ringing.port .b).state = .ringing ∧ (ringing.port .b).inRingOn = true ∧ ringing.ppu.pair = .apart ∧
      ringing.ringSlotOf .b = some .one ∧ (ringing.call .one).ringSet.put .b false = { a := false, b := false } ∧
      (ringing.call .one).signals.length < 8 := by decide +kernel

/-- Port A is the last port of slot 0, while slot 1 alerts and a data floor waits. -/
def lastPort : State :=
  ringing |> talking .a |> onPort .a (fun u => { u with compare := some { kind := .onHook, value := 801 } })
    |> onLbu fun b => { b with pendingFloor := some 8 }

theorem witness_LastOnHookEndsTheCall :
    (lastPort.port .a).state = .inCall ∧ (lastPort.port .a).compare = some { kind := .onHook, value := 801 } ∧
      lastPort.slotOf .a = some .zero ∧ (lastPort.call .zero).attached.put .a false = { a := false, b := false } ∧
      (lastPort.call .zero).state ≠ .free ∧ (lastPort.call .one).state ≠ .free ∧ (lastPort.call .zero).signals.length < 8 := by
  decide +kernel

theorem witness_ParkTimeParksThePort :
    ((toReleased .b up).port .b).state = .released ∧ ((toReleased .b up).port .b).park ≠ none ∧
      ((toLocalTone .b .refusal up).port .b).state = .localTone ∧ ((toLocalTone .b .refusal up).port .b).park ≠ none := by
  decide +kernel

theorem witness_CadencesStep :
    ((toReleased .b up).port .b).chan = some { mode := .tone .release, pos := 1, on := true, endAt := some 150, count := 0 } ∧
      ToneKind.release.times = some 150 ∧
      (ringing.port .b).chan = some { mode := .ring 0, pos := 1, on := true, endAt := some 1000, count := 0 } ∧
      ringing.ppu.pair = .apart ∧ vget (vget ringing.ppu.cadences 0).durations 1 ≠ 0 := by decide +kernel

theorem witness_AlertLimitEndsTheCall :
    let s := onLbu (fun b => { b with pendingFloor := none }) lastPort
    (s.call .one).state = .alerting ∧ (s.call .one).alert ≠ none ∧ (s.call .zero).state ≠ .free ∧ s.ppu.pair = .apart ∧
      ((s.call .one).ringSet.has .b = true ∧ (s.port .b).closed = false) ∧ (s.call .one).ringSet.has .a = false ∧
      (s.call .one).signals.length < 8 ∧ s.lbu.pendingFloor = none := by decide +kernel

/-- A port test in a phase, its timer run. -/
def testing (phase : TestPhase) : State :=
  up |> onPort .a (fun u => { u with state := .testing }) |> onTr fun t => { t with test := some { ringTest with kind := .echo, phase := phase } }

theorem witness_TestPhasesEnd :
    (testing .ring).tr.test = some { ringTest with kind := .echo, phase := .ring } ∧ ringTest.timer ≠ none ∧
      (testing .echo).tr.test = some { ringTest with kind := .echo, phase := .echo } := by decide +kernel

theorem witness_PowerFollowsItsInputs :
    up.fu.power = .mains ∧ (up.holdsRinger .a = false ∨ up.holdsRinger .b = false) ∧
      (onFu (fun u => { u with power := .battery }) up).fu.power = .battery := by decide +kernel

/-! ### Directives -/

theorem up_accepts (sender : Sender) : accepts sender up := by
  cases sender with
  | loc => trivial
  | exch => exact (by decide +kernel : up.qm.replies.length < Config.replies)

theorem up_accepts_last : accepts .exch (onQm (fun q => { q with replies := List.replicate 3 [0] }) up) :=
  (by decide : 3 < Config.replies)

theorem witness_ReadsAnswerFromTheState :
    accepts .exch up ∧ ((8 : Byte).toNat, 0, 175) ∈
        [(1, 0, 7), (2, 0, 7), (3, 0, 31), (4, 0, 3), (5, 1, 20), (6, 0, 1), (7, 0, 59), (8, 0, 175)] ∧
      (175 : Byte).toNat ≤ 175 ∧ 175 < (176 : Byte).toNat ∧ (0 : Byte).toNat < 1 ∧
      Param.ofIdent (1 : Byte).toNat = some .rideTime ∧ Param.ofIdent (0 : Byte).toNat = none :=
  ⟨up_accepts _, by decide +kernel⟩

/-- Rung 0 is the current rung of `ladder training`, and the last valid one of `up`. -/
theorem witness_ExchangeWritesReplaceEntries :
    accepts .exch up ∧ (8 ≤ (8 : Byte).toNat ∧ (7 : Byte).toNat < 8) ∧ ((1 : Byte) = 1 ∧ (2 : Byte).toNat ≤ 2 ∧ ¬ (3 : Byte).toNat ≤ 2) ∧
      ((ladder training).ls.link = .training ∧ (0 : Byte).toNat = (ladder training).ls.rung.val) ∧
      ((vget up.ls.profile (Fin.ofNat 8 (0 : Byte).toNat)).valid = true ∧
        ∀ j : Fin 8, j.val = (0 : Byte).toNat ∨ (vget up.ls.profile j).valid = false) ∧
      up.ls.link ≠ .training ∧ up.ls.link ≠ .retraining ∧ [(801 : Half), 2, 3, 4, 5, 6, 7, 8].length = 8 :=
  ⟨up_accepts _, by decide +kernel⟩

/-- The codes 0x57 (direction 1, class 1, none) and 0x53 (answer record 3) are good, 0x17, 0x47 and 0x54 are not. -/
theorem witness_LocalWritesReplaceEntries :
    (directionOf (0x57 / 64) ≠ none ∧ classOf (0x57 / 16 % 4) ≠ none ∧ 0x57 % 8 = 7 ∧ 0x53 % 8 < 4) ∧
      directionOf (0x17 / 64) = none ∧ classOf (0x47 / 16 % 4) = none ∧ ¬ (0x54 % 8 < 4 ∨ 0x54 % 8 = 7) ∧
      (31 : Byte).toNat < 32 ∧ 32 ≤ (32 : Byte).toNat ∧ (3 : Byte).toNat < 4 ∧ 4 ≤ (4 : Byte).toNat := by decide +kernel

theorem witness_LevelsAndLatchesAreTheRequesters :
    accepts .exch reported ∧ FaultKind.ofNumber (0 : Byte).toNat = none ∧ FaultKind.ofNumber (21 : Byte).toNat = none ∧
      FaultKind.ofNumber (1 : Byte).toNat = some .lineDown ∧ FaultKind.ofNumber (20 : Byte).toNat = some .directiveRefused ∧
      (reported.fault .lineDown).active = false ∧
      ((setRec .lineDown { reported.fault .lineDown with active := true } reported).fault .lineDown).active = true :=
  ⟨(by decide +kernel : reported.qm.replies.length < Config.replies), by decide +kernel⟩

/-- A data floor is written in CARRYING, and outside it with none pending and with one. -/
theorem witness_ParametersAreStoredAndClamped_floor :
    let away := up |> inLink .riding
    (up.ls.link = .carrying ∧ up.reserved = 0) ∧ (away.ls.link ≠ .carrying ∧ away.lbu.pendingFloor = none) ∧
      (onLbu (fun b => { b with pendingFloor := some 8 }) away).lbu.pendingFloor ≠ none := by decide +kernel

theorem witness_ParametersAreStoredAndClamped :
    accepts .exch up ∧ Param.ofIdent (49 : Byte).toNat = none ∧
      (Param.ofIdent (10 : Byte).toNat = some .autoStart ∧ Param.owner .autoStart = senderAuthority .exch) ∧
      (∃ codes, Param.rule .autoStart = .coded codes ∧ 2 ∉ codes ∧ 1 ∈ codes) ∧
      (Param.ofIdent (11 : Byte).toNat = some .dataFloor ∧ Param.owner .dataFloor = senderAuthority .exch) ∧
      ∀ codes, Param.rule .dataFloor = .coded codes → 9 ∈ codes :=
  ⟨up_accepts _, by decide +kernel, by decide +kernel, ⟨_, rfl, by decide, by decide⟩, by decide +kernel, fun _ h => nomatch h⟩

/-- The local list is not on offer with the home link down, nor while quiet. -/
theorem witness_OthersAreRefused_list :
    ¬ noticesOffered State.reset ∧ ¬ noticesOffered (onMe (fun m => { m with quiet := true }) up) ∧ noticesOffered up := by
  unfold noticesOffered
  decide +kernel

theorem witness_OthersAreRefused :
    accepts .exch up ∧ Sender.ownsTable .exch 8 = false ∧ (8 : Byte).toNat ≤ 8 ∧ Sender.ownsTable (.loc 5) 1 = false ∧
      1 ≤ (1 : Byte).toNat ∧ (Param.ofIdent (33 : Byte).toNat = some .hostAddress ∧ Param.owner .hostAddress ≠ senderAuthority .exch) ∧
      senderAuthority (.loc 5) = .loc :=
  ⟨up_accepts _, by decide +kernel⟩

/-- One state for each link state that an action is taken or refused in. -/
theorem witness_LineActionsMoveTheLine :
    accepts .exch State.reset ∧ State.reset.ls.link = .stopped ∧ waiting.ls.link = .waiting ∧ training.ls.link = .training ∧
      retraining.ls.link = .retraining ∧ riding.ls.link = .riding ∧ (ladder up).ls.link = .carrying ∧
      (ladder up).rungBelow (ladder up).ls.rung = some 1 ∧ up.rungBelow up.ls.rung = none ∧
      (let high := onLs (fun l => { l with rung := 2 }) (ladder up)
       high.rungAbove high.ls.rung = some 1 ∧ high.param .startRung ≤ 1 ∧ (high.call .zero).state = .free ∧
         (high.call .one).state = .free ∧ 1 < (setParam .startRung 2 high).param .startRung) ∧
      (voiced.call .zero).state ≠ .free :=
  ⟨(by decide +kernel : State.reset.qm.replies.length < Config.replies), by decide +kernel⟩

/-- Loopback on channel 3 with its limit run. -/
def looping : State :=
  onLs (fun l => { l with loopback := some { channel := .three, limit := { limit := 600000, elapsed := 600000 } } }) up

theorem witness_LoopbackStartsAndEnds :
    accepts .exch up ∧ (4 : Byte) ≠ 3 ∧ (4 : Byte) ≠ 14 ∧ (3 : Byte).toNat = LoopChannel.three.chan.val ∧
      (14 : Byte).toNat = LoopChannel.fourteen.chan.val ∧ training.ls.link ≠ .carrying ∧ up.ls.link = .carrying ∧
      up.ls.loopback = none ∧ (looping.ls.loopback.map fun l => l.channel) = some .three ∧ LoopChannel.three ≠ .fourteen :=
  ⟨up_accepts _, by decide +kernel⟩

/-- Port B in a state, its loop open. -/
def portIn (st : PortState) (closed : Bool) : State := onPort .b (fun u => { u with state := st, closed := closed }) up

theorem witness_PortActionsActOnThePort :
    accepts .exch up ∧ (0 : Byte) ≠ 1 ∧ (3 : Byte) ≠ 2 ∧ (1 : Byte).toNat = (if Port.a = .a then 1 else 2) ∧
      (2 : Byte).toNat = (if Port.b = .a then 1 else 2) ∧ (7 : Byte).toNat < 8 ∧ 8 ≤ (8 : Byte).toNat ∧
      (∀ i, vget (vget up.ppu.cadences (Fin.ofNat 8 7)).durations i = 0) ∧
      ¬ (∀ i, vget (vget up.ppu.cadences (Fin.ofNat 8 1)).durations i = 0) ∧ (testing .ring).tr.test ≠ none ∧
      up.tr.test = none ∧ (up.port .b).state = .idle ∧ up.fu.power = .mains ∧
      (onFu (fun u => { u with power := .battery }) ringing).holdsRinger .b = true ∧ (ringing.port .b).state = .ringing ∧
      (ringing.port .a).state = .idle ∧
      (ringing.port .b).closed = false ∧
      ((loop true 7).port .a).state = .inCall ∧ ((testing .ring).port .a).state = .testing ∧
      ((portIn .disabled false).port .b).state = .disabled ∧ ((portIn .disabled false).port .b).closed = false ∧
      ((portIn .disabled true).port .b).closed = true ∧ ((portIn .parked true).port .b).state = .parked :=
  ⟨up_accepts _, by decide +kernel⟩

/-- The release of one of two ports of a call keeps the call. -/
theorem witness_PortActionsActOnThePort_shared :
    let s := onCall .zero (fun c => { c with attached := { a := true, b := true } }) (talking .a up)
    (s.port .a).state = .inCall ∧ s.slotOf .a = some .zero ∧ (s.call .zero).attached.put .a false ≠ { a := false, b := false } := by
  decide +kernel

theorem witness_QuietEntersAndLeaves :
    up.param .hostAddress = 0 ∧ (setParam .hostAddress 9 up).param .hostAddress ≠ 0 ∧ up.me.quiet = false ∧
      (onMe (fun m => { m with quiet := true }) (setParam .hostAddress 9 up)).me.quiet = true ∧ (2 : Byte) ≠ 0 ∧ (2 : Byte) ≠ 1 ∧
      (onQm (fun q => { q with homeUp := false }) up).qm.homeUp = false := by decide +kernel

theorem witness_ResetReturnsTheBlocks :
    (accepts .exch up ∧ up.param .autoStart = 1 ∧ up.ls.link = .carrying) ∧ State.reset.ls.link = .stopped :=
  ⟨⟨up_accepts _, by decide +kernel⟩, by decide +kernel⟩

/-- A READ_STATUS from home in the shortest frame and in the longest, and one on channel 15. -/
theorem witness_FramesCarryDirectives :
    Request.readStatus.fits = true ∧ requestOf (.readStatus (.loc 5) 7) = some (.loc 5, 7, .readStatus) ∧ up.qm.homeUp = true ∧
      (etherFrame 1 5 0x9A21 (requestMsg 7 .readStatus ++ List.replicate 40 0)).length = 60 ∧
      (etherFrame 1 5 0x9A21 (requestMsg 7 .readStatus ++ List.replicate 1498 0)).length = 1518 ∧
      requestOf (.readStatus .exch 7) = some (.exch, 7, .readStatus) ∧
      (let s := onChan 15 (fun h => { h with expected := some 255 }) up
       s.ls.link = .carrying ∧ (s.chan 15).expected = some 255 ∧ (s.chan 15).asm = none) ∧
      (requestMsg 7 .readStatus).length ≤ up.lbu.size.payload ∧ (fullReplies up).qm.replies.length = 4 := by decide +kernel

end Sys2Proof.Tests
end

/-! PROOFS. O31: a malformed line block is discarded (R13). First what a report to the Fault Unit counts, then what the abandoning
of a partial frame (R16) leaves in each piece of state, then the block itself. -/

namespace Sys2Proof.Machine

variable {s t u : State}

/-! ## Counters that an act leaves alone -/

theorem counter_onChan (c : Chan) (f : Channel → Channel) (d : Counter) : (onChan c f s).counter d = s.counter d := rfl

theorem countsOnly.refl (cs : List Counter) (s : State) : countsOnly cs s s := fun _ _ => rfl

theorem countsOnly.trans {cs : List Counter} (h : countsOnly cs s t) (k : countsOnly cs t u) : countsOnly cs s u :=
  fun c hc => (k c hc).trans (h c hc)

theorem countsOnly.mono {cs ds : List Counter} (h : countsOnly cs s t) (hs : cs ⊆ ds) : countsOnly ds s t :=
  fun c hc => h c fun hm => hc (hs hm)

/-- An update of pieces other than the counters, after an act, adds no counter to those of the act. -/
theorem countsOnly.congr {cs : List Counter} (h : countsOnly cs s t) (hc : u.counters = t.counters) : countsOnly cs s u :=
  fun c hm => (counter_congr hc c).trans (h c hm)

theorem countsOnly.bump {cs : List Counter} (h : countsOnly cs s t) {c : Counter} (hc : c ∈ cs) :
    countsOnly cs s (bump c t) := by
  intro d hd
  have hne : c ≠ d := fun e => hd (e ▸ hc)
  rw [counter_bump, if_neg hne]
  exact h d hd

theorem countsOnly.whenever {cs : List Counter} {b : Bool} {f : State → State} (h : countsOnly cs s t)
    (hf : ∀ v, countsOnly cs v (f v)) : countsOnly cs s (whenever b f t) := by
  cases b with
  | true => exact h.trans (hf t)
  | false => exact h

/-! ## The counters of a report (R184) -/

theorem assertWake_countsOnly (s : State) : countsOnly reportCounters s (assertWake s) := by
  unfold assertWake
  split
  · exact .refl _ s
  · exact ((countsOnly.refl _ s).congr (by simp)).bump (by decide)

theorem drainLocal_countsOnly (n : Nat) (s : State) : countsOnly reportCounters s (drainLocal n s) := by
  induction n generalizing s with
  | zero => exact .refl _ s
  | succ n ih =>
    unfold drainLocal
    split
    · split
      · exact .refl _ s
      · dsimp only
        split
        · exact (((countsOnly.refl _ s).congr (by simp)).bump (by decide)).trans (ih _)
        · exact (countsOnly.refl _ s).bump (by decide)
    · exact .refl _ s

theorem enterExch_countsOnly (k : FaultKind) (level : Nat) (s : State) :
    countsOnly reportCounters s (enterExch k level s) := by
  unfold enterExch
  split
  · exact ((countsOnly.refl _ s).congr (by simp)).bump (by decide)
  · exact ((countsOnly.refl _ s).congr (by simp)).bump (by decide)

theorem enterLoc_countsOnly (k : FaultKind) (level : Nat) (s : State) :
    countsOnly reportCounters s (enterLoc k level s) := by
  unfold enterLoc offerLocal
  split
  · exact (((countsOnly.refl _ s).congr (by simp)).bump (by decide)).trans (drainLocal_countsOnly _ _)
  · exact ((((countsOnly.refl _ s).congr (by simp)).bump (by decide)).whenever assertWake_countsOnly).trans
      (drainLocal_countsOnly _ _)

/-- A report to the Fault Unit counts under the counters of R184 only. -/
theorem occurrence_countsOnly (k : FaultKind) (detail : Nat) (s : State) :
    countsOnly reportCounters s (occurrence k detail s) := by
  unfold occurrence
  split
  · exact .refl _ s
  · exact ((((countsOnly.refl _ s).congr (by simp)).bump (by decide)).whenever fun _ => enterExch_countsOnly _ _ _).whenever
      fun _ => enterLoc_countsOnly _ _ _

/-! ## A partial frame abandoned (R16) -/

theorem abandon_idle {c : Chan} (cause : LossCause) (h : (s.chan c).asm = none) : abandon c cause s = s := by
  simp only [abandon, h]

theorem abandon_collecting {c : Chan} (cause : LossCause) (h : (s.chan c).asm ≠ none) :
    abandon c cause s =
      reportLoss c cause (bump Ctr.framesAbandoned (onChan c (fun h => { h with asm := none }) s)) := by
  obtain ⟨a, ha⟩ := Option.ne_none_iff_exists'.1 h
  simp only [abandon, ha]

/-- Abandoning leaves the channel IDLE in either case, and touches no other channel. -/
theorem chan_abandon (c d : Chan) (cause : LossCause) (s : State) :
    (abandon c cause s).chan d = if d = c then { s.chan d with asm := none } else s.chan d := by
  by_cases h : (s.chan c).asm = none
  · rw [abandon_idle cause h]
    split
    · next e => rw [e, ← h]
    · rfl
  · rw [abandon_collecting cause h, chan_congr (reportLoss_frame _ _ _).2.1, chan_congr (bump_bf _ _), chan_onChan]
    by_cases e : d = c
    · subst e
      simp
    · rw [if_neg (Ne.symm e), if_neg e]

theorem loopStore_abandon (c : Chan) (cause : LossCause) (s : State) :
    (abandon c cause s).bf.loopStore = s.bf.loopStore := by
  by_cases h : (s.chan c).asm = none
  · rw [abandon_idle cause h]
  · rw [abandon_collecting cause h, (reportLoss_frame _ _ _).2.1]
    rfl

/-- A frame abandoned is one occurrence of REASSEMBLY_LOSS, with the channel and the cause in its detail. -/
theorem fault_abandon (c : Chan) (cause : LossCause) (s : State) :
    (abandon c cause s).fault .reassemblyLoss =
      if (s.chan c).asm = none then s.fault .reassemblyLoss
      else (s.fault .reassemblyLoss).occurred false s.fu.uptime (c.val * 256 + cause.code) := by
  by_cases h : (s.chan c).asm = none
  · rw [abandon_idle cause h, if_pos h]
  · rw [abandon_collecting cause h, if_neg h, reportLoss, fault_occurrence, if_pos ⟨rfl, rfl⟩]
    rfl

theorem abandon_recordsOnly (c : Chan) (cause : LossCause) (s : State) :
    recordsOnly [.reassemblyLoss] s (abandon c cause s) := by
  intro k hk
  by_cases h : (s.chan c).asm = none
  · rw [abandon_idle cause h]
  · rw [abandon_collecting cause h, reportLoss, fault_occurrence, if_neg fun hc => hk (by simp [hc.1])]
    rfl

theorem abandon_countsOnly (c : Chan) (cause : LossCause) (s : State) :
    countsOnly (Ctr.framesAbandoned :: reportCounters) s (abandon c cause s) := by
  by_cases h : (s.chan c).asm = none
  · rw [abandon_idle cause h]
    exact .refl _ s
  · rw [abandon_collecting cause h]
    exact (((countsOnly.refl _ s).congr (by simp)).bump (by simp)).trans
      ((occurrence_countsOnly _ _ _).mono (List.subset_cons_self _ _))

/-! ## A malformed block (R13) -/

/-- What a malformed block that arrives in its sequence leaves: counted as good and as malformed, the expected sequence
moved on, a partial frame of its channel abandoned. -/
def malformedDiscarded (b : LineBlock) (s : State) : State :=
  s |> bump Ctr.goodReceived |> onChan b.chan (fun h => { h with expected := some (b.seq + 1) })
    |> bump Ctr.malformed |> abandon b.chan .malformed

/-- The cases of R13 as the check has them. -/
theorem malformed_iff (size : BlockSize) (b : LineBlock) :
    malformed size b = true ↔
      (b.kind = .first ∨ b.kind = .middle) ∧ b.used ≠ size.payload ∨
        (b.kind = .whole ∨ b.kind = .last) ∧ (b.used = 0 ∨ size.payload < b.used) := by
  cases h : b.kind <;> simp [malformed, h]

/-- A block whose sequence is the one expected, or that finds none expected, shows no gap (R12). -/
theorem checkSequence_expected {b : LineBlock} (h : (s.chan b.chan).expected = none ∨ (s.chan b.chan).expected = some b.seq) :
    checkSequence b s = onChan b.chan (fun h => { h with expected := some (b.seq + 1) }) s := by
  rcases h with h | h <;> simp [checkSequence, h]

/-- The checks in their order (R11) bring a malformed block in its sequence to its discarding, looped channel or not. -/
theorem blockArrives_malformed {bytes : Bytes} (hl : s.ls.link = .carrying) (hg : blockGood s.lbu.size bytes = true)
    (hf : (readBlock s.lbu.size bytes).fill = false) (ha : assigned (readBlock s.lbu.size bytes).chan = true)
    (hs : (s.chan (readBlock s.lbu.size bytes).chan).expected = none ∨
      (s.chan (readBlock s.lbu.size bytes).chan).expected = some (readBlock s.lbu.size bytes).seq)
    (hm : malformed s.lbu.size (readBlock s.lbu.size bytes) = true) :
    blockArrives bytes s = malformedDiscarded (readBlock s.lbu.size bytes) s := by
  have hc : s.carrying = true := by simp [State.carrying, hl]
  have hseq := checkSequence_expected (s := bump Ctr.goodReceived s) hs
  simp [blockArrives, goodBlock, takeBlock, malformedDiscarded, hc, hg, hf, ha, hseq, hm]

theorem chan_malformedDiscarded (b : LineBlock) (s : State) (c : Chan) :
    (malformedDiscarded b s).chan c =
      if c = b.chan then { s.chan c with expected := some (b.seq + 1), asm := none } else s.chan c := by
  rw [malformedDiscarded, chan_abandon, chan_congr (bump_bf _ _), chan_onChan, chan_congr (bump_bf _ _),
    chan_congr (bump_bf _ _)]
  by_cases e : c = b.chan
  · subst e
    simp
  · rw [if_neg e, if_neg e, if_neg (Ne.symm e)]

/-- The block is counted as good and as malformed; nothing that follows in the same act counts under either again. -/
theorem malformedDiscarded_counted (b : LineBlock) (s : State) :
    counted Ctr.malformed 1 s (malformedDiscarded b s) ∧ counted Ctr.goodReceived 1 s (malformedDiscarded b s) := by
  unfold counted malformedDiscarded
  rw [abandon_countsOnly _ _ _ Ctr.malformed (by decide), abandon_countsOnly _ _ _ Ctr.goodReceived (by decide)]
  have hne : Ctr.goodReceived ≠ Ctr.malformed := by decide
  simp [counter_bump, counter_onChan, hne, hne.symm]

theorem malformedDiscarded_countsOnly (b : LineBlock) (s : State) :
    countsOnly ([Ctr.goodReceived, Ctr.malformed, Ctr.framesAbandoned] ++ reportCounters) s (malformedDiscarded b s) :=
  have hgood := (countsOnly.refl ([Ctr.goodReceived, Ctr.malformed, Ctr.framesAbandoned] ++ reportCounters) s).bump
    (c := Ctr.goodReceived) (by simp)
  have hmal := (hgood.congr (u := onChan b.chan _ _) rfl).bump (c := Ctr.malformed) (by simp)
  hmal.trans ((abandon_countsOnly _ _ _).mono (List.subset_append_right [Ctr.goodReceived, Ctr.malformed] _))

theorem fault_malformedDiscarded (b : LineBlock) (s : State) :
    (malformedDiscarded b s).fault .reassemblyLoss =
      if (s.chan b.chan).asm = none then s.fault .reassemblyLoss
      else (s.fault .reassemblyLoss).occurred false s.fu.uptime (b.chan.val * 256 + 5) := by
  rw [malformedDiscarded, fault_abandon, chan_congr (bump_bf _ _), chan_onChan_same]
  rfl

theorem malformedDiscarded_changesOnly (b : LineBlock) (s : State) :
    changesOnly (.framer :: reportBlocks) s (malformedDiscarded b s) := by
  intro p hp
  cases p with
  | framer | faults | matchEngine | queues | counters => exact absurd (by decide) hp
  | _ => simp [agree, malformedDiscarded]

/-- Settles O31: a malformed block in its sequence passes the checks of R11 up to the one of R13, which discards it. -/
theorem malformedBlocksAreDiscarded : Obligations.MalformedBlocksAreDiscarded := by
  intro s bytes hl hg b hf ha hs hm
  obtain ⟨hmal, hgood⟩ := malformedDiscarded_counted b s
  refine ⟨malformedDiscarded b s, ?_, hmal, hgood, chan_malformedDiscarded b s, ?_, fault_malformedDiscarded b s, ?_, ?_,
    malformedDiscarded_changesOnly b s, malformedDiscarded_countsOnly b s⟩
  · exact congrArg Host.Outcome.next (blockArrives_malformed hl hg hf ha hs ((malformed_iff _ _).2 hm))
  · exact loopStore_abandon _ _ _
  · exact abandon_recordsOnly _ _ _
  · exact abandon_reports _ _ (reports_bump (reports_onChan (reports_bump (Reports.refl s))))

end Sys2Proof.Machine

/-! PROOFS. O13: codes expand to the middle of their step (R130). First the segment and the mantissa of R129, each as the interval
of magnitudes that has it, then the step that the two together name, then the code that packs them. -/

namespace Sys2Proof.Machine

/-! ## Segments and mantissas (R129) -/

theorem segmentOf_eq_zero_iff (m : Nat) : segmentOf m = 0 ↔ m < 256 := by
  unfold segmentOf
  split
  · simp [*]
  · have hlog : 8 ≤ m.log2 := (Nat.le_log2 (by omega)).2 (by omega)
    omega

/-- A segment above 0 is one octave of magnitudes, the first of them 256 to 511. -/
theorem segmentOf_eq_iff {seg : Nat} (hs : seg ≠ 0) (m : Nat) :
    segmentOf m = seg ↔ 2 ^ (seg + 7) ≤ m ∧ m < 2 ^ (seg + 8) := by
  have hpow : 2 ^ 8 ≤ 2 ^ (seg + 7) := Nat.pow_le_pow_right (by decide) (by omega)
  by_cases hm : m < 256
  · have := (segmentOf_eq_zero_iff m).2 hm
    omega
  · have hlog : 8 ≤ m.log2 := (Nat.le_log2 (by omega)).2 (by omega)
    rw [segmentOf, if_neg hm, ← Nat.log2_eq_iff (by omega)]
    omega

theorem mantissaOf_lt (m : Nat) : mantissaOf m < 16 := by
  unfold mantissaOf
  split <;> omega

theorem magnitude_lt (v : Int) : magnitude v < 32768 := by
  unfold magnitude
  omega

theorem segmentOf_lt {m : Nat} (hm : m < 32768) : segmentOf m < 8 := by
  unfold segmentOf
  split
  · decide
  · have hlog : m.log2 < 15 := (Nat.log2_lt (by omega)).2 hm
    omega

/-! ## The step of a segment and a mantissa -/

/-- The least magnitude of the step that a segment and a mantissa name (R129). -/
def stepStart (seg mant : Nat) : Nat := if seg = 0 then 16 * mant else (16 + mant) * 2 ^ (seg + 3)

/-- Half the width of a segment's steps. -/
def halfStep (seg : Nat) : Nat := if seg = 0 then 8 else 2 ^ (seg + 2)

/-- The magnitudes of one segment and mantissa are one step, `2 * halfStep` wide. -/
theorem segmentOf_mantissaOf_iff {seg mant : Nat} (hk : mant < 16) (m : Nat) :
    segmentOf m = seg ∧ mantissaOf m = mant ↔
      stepStart seg mant ≤ m ∧ m < stepStart seg mant + 2 * halfStep seg := by
  by_cases hs : seg = 0
  · subst hs
    have hzero := segmentOf_eq_zero_iff m
    simp only [stepStart, halfStep, mantissaOf, if_true]
    split <;> omega
  · have hwidth : 0 < 2 ^ (seg + 3) := Nat.two_pow_pos _
    have hoctave : segmentOf m = seg ↔ 16 ≤ m / 2 ^ (seg + 3) ∧ m / 2 ^ (seg + 3) < 32 := by
      rw [segmentOf_eq_iff hs, Nat.le_div_iff_mul_le hwidth, Nat.div_lt_iff_lt_mul hwidth]
      simp only [Nat.pow_add]
      omega
    have hmant : segmentOf m = seg → mantissaOf m = m / 2 ^ (seg + 3) % 16 := by
      intro h
      have := segmentOf_eq_zero_iff m
      rw [mantissaOf, if_neg (by omega), h]
    have hstep : m / 2 ^ (seg + 3) = 16 + mant ↔
        stepStart seg mant ≤ m ∧ m < stepStart seg mant + 2 * halfStep seg := by
      have hhalf : 2 ^ (seg + 3) = 2 ^ (seg + 2) * 2 := Nat.pow_succ 2 (seg + 2)
      rw [Nat.div_eq_iff hwidth, stepStart, halfStep, if_neg hs, if_neg hs]
      omega
    rw [← hstep]
    constructor
    · rintro ⟨h, k⟩
      have := hmant h
      omega
    · intro h
      have hseg := hoctave.2 (by omega)
      exact ⟨hseg, by rw [hmant hseg]; omega⟩

/-! ## The magnitude of a code (R130) -/

theorem expandMagnitude_eq (seg mant : Nat) : expandMagnitude seg mant = stepStart seg mant + halfStep seg := by
  unfold expandMagnitude stepStart halfStep
  split <;> rfl

theorem expandMagnitude_even (seg mant : Nat) : expandMagnitude seg mant % 2 = 0 := by
  unfold expandMagnitude
  split
  · omega
  · rw [Nat.pow_succ 2 (seg + 2), Nat.pow_succ 2 (seg + 1), ← Nat.mul_assoc, ← Nat.mul_assoc]
    omega

/-- The greatest magnitude is that of segment 7 and mantissa 15. -/
theorem expandMagnitude_le {seg mant : Nat} (hs : seg < 8) (hk : mant < 16) : expandMagnitude seg mant ≤ 32256 := by
  unfold expandMagnitude
  split
  · omega
  · calc (16 + mant) * 2 ^ (seg + 3) + 2 ^ (seg + 2)
        ≤ 31 * 2 ^ 10 + 2 ^ 9 :=
          Nat.add_le_add (Nat.mul_le_mul (by omega) (Nat.pow_le_pow_right (by decide) (by omega)))
            (Nat.pow_le_pow_right (by decide) (by omega))
      _ = 32256 := by decide

/-! ## The code of a sample -/

theorem toNat_compress (v : Int) :
    (compress v).toNat =
      (if v < 0 then 128 else 0) + segmentOf (magnitude v) * 16 + mantissaOf (magnitude v) := by
  have hseg := segmentOf_lt (magnitude_lt v)
  have hmant := mantissaOf_lt (magnitude v)
  rw [compress, byteOf, BitVec.toNat_ofNat, Nat.mod_eq_of_lt]
  split <;> omega

/-- A sample has a code just if it has the code's sign, segment and mantissa. -/
theorem compress_eq_iff (v : Int) (c : Byte) :
    compress v = c ↔
      (v < 0 ↔ 128 ≤ c.toNat) ∧
        segmentOf (magnitude v) = c.toNat / 16 % 8 ∧ mantissaOf (magnitude v) = c.toNat % 16 := by
  have hseg := segmentOf_lt (magnitude_lt v)
  have hmant := mantissaOf_lt (magnitude v)
  have hc := c.isLt
  rw [BitVec.toNat_eq, toNat_compress]
  split <;> omega

/-- Settles O13: the code's segment and mantissa name one step, and the magnitude of R130 is its start and half its width. -/
theorem codesExpandToTheMiddleOfTheirStep : Obligations.CodesExpandToTheMiddleOfTheirStep := by
  intro c seg mant m half
  have hexpand : expand c = if c.toNat < 128 then (m : Int) else -(m : Int) := rfl
  have heven : m % 2 = 0 := expandMagnitude_even seg mant
  have hle : m ≤ 32256 := expandMagnitude_le (Nat.mod_lt _ (by decide)) (Nat.mod_lt _ (by decide))
  have hmiddle : m = stepStart seg mant + half := expandMagnitude_eq seg mant
  refine ⟨hexpand, ?_, ?_, ?_, by decide, by decide, fun v _ _ => ?_⟩
  · rw [hexpand]; split <;> omega
  · rw [hexpand]; split <;> omega
  · rw [hexpand]; split <;> omega
  · rw [compress_eq_iff, segmentOf_mantissaOf_iff (Nat.mod_lt _ (by decide))]
    change _ ∧ stepStart seg mant ≤ magnitude v ∧ magnitude v < stepStart seg mant + 2 * half ↔
      _ ∧ m - half ≤ magnitude v ∧ magnitude v < m + half
    omega

end Sys2Proof.Machine

/-! PROOFS. O18: the end of a condition clears the active field and nothing else (R170). First the writing back of a record as it
stands, which makes an end of an inactive record nothing at all, then the two orders of an end and an occurrence (R169). -/

namespace Sys2Proof.Machine

variable {k : FaultKind} {s : State}

theorem vset_vget_self {α : Type} {n : Nat} (v : Vector α n) (i : Fin n) : vset v i (vget v i) = v :=
  Vector.set_getElem_self i.isLt

theorem setRec_fault_self (k : FaultKind) (s : State) : setRec k (s.fault k) s = s := by
  simp only [setRec, onFu, State.fault, vset_vget_self]

/-- An end of an inactive record changes nothing. -/
theorem endCondition_inactive (hr : (s.fault k).active = false) : endCondition k s = s := by
  have hrec : { s.fault k with active := false } = s.fault k := by rw [← hr]
  rw [endCondition, hrec, setRec_fault_self]

theorem fault_endCondition_same (k : FaultKind) (s : State) :
    (endCondition k s).fault k = { s.fault k with active := false } := by
  rw [fault_endCondition, if_pos rfl]

theorem endCondition_recordsOnly (k : FaultKind) (s : State) : recordsOnly [k] s (endCondition k s) := by
  intro j hj
  rw [fault_endCondition, if_neg fun e => hj (by simp [e])]

theorem endCondition_changesOnly (k : FaultKind) (s : State) : changesOnly [.faults] s (endCondition k s) := by
  intro b hb
  cases b with
  | faults => exact absurd (by decide) hb
  | _ => simp [agree]

/-- The notice of a pending item of the kind is that of the record with its detail kept (R175). -/
theorem notice_endCondition {i : PendingItem} (hi : i.kind = k) (s : State) :
    (endCondition k s).notice i = noticeMsg i { s.fault k with active := false } := by
  rw [State.notice, hi, fault_endCondition_same]

/-- A report of an inactive condition is an occurrence, whose record is active (R169). -/
theorem fault_occurrence_inactive (hk : k.isCondition = true) (hr : (s.fault k).active = false) (detail : Nat) :
    (occurrence k detail s).fault k = (s.fault k).occurred true s.fu.uptime detail := by
  have hocc : (k.isCondition && s.isActive k) = false := by rw [State.isActive, hr, Bool.and_false]
  rw [fault_occurrence, if_pos ⟨rfl, hocc⟩, hk]

/-- An end taken before an occurrence leaves the condition active. -/
theorem isActive_occurrence_endCondition (hk : k.isCondition = true) (hr : (s.fault k).active = false) (detail : Nat) :
    (occurrence k detail (endCondition k s)).isActive k = true := by
  rw [endCondition_inactive hr, State.isActive, fault_occurrence_inactive hk hr]
  rfl

/-- An end taken after an occurrence leaves the condition inactive with the occurrence recorded. -/
theorem fault_endCondition_occurrence (hk : k.isCondition = true) (hr : (s.fault k).active = false) (detail : Nat) :
    (endCondition k (occurrence k detail s)).fault k =
      { (s.fault k).occurred true s.fu.uptime detail with active := false } := by
  rw [fault_endCondition_same, fault_occurrence_inactive hk hr]

/-- Settles O18: an end writes back the record of its kind with the active field cleared, and the two orders of an end and an
occurrence follow from that and from R169. -/
theorem endsOnlyClearActive : Obligations.EndsOnlyClearActive := by
  intro s k hk
  refine ⟨fault_endCondition_same k s, endCondition_recordsOnly k s, endCondition_changesOnly k s, rfl,
    fun i hi => notice_endCondition hi s, fun hr => ⟨endCondition_inactive hr, fun detail => ⟨?_, ?_⟩⟩⟩
  · exact isActive_occurrence_endCondition hk hr detail
  · exact fault_endCondition_occurrence hk hr detail

end Sys2Proof.Machine

/-! PROOFS. O1, O2 and O5 to O10: what a step is, and the invariants that every step keeps. The tick and the meanings of the commands
keep them one by one (Laws/Keeps, Laws/CallKeeps, Laws/RecordKeeps); here a command's effect is named once, the power-up reset is
put beside them, and a step is one or the other. -/

namespace Sys2Proof.Machine

variable {s t : State}

/-! ## A command's effect -/

/-- The state after a command. -/
def effect (c : Instr) (s : State) : State :=
  match exec c s with
  | .next t => t
  | .fault _ | .refused _ => s

/-- Every command answers a next state: no arm faults or refuses. -/
theorem exec_eq (c : Instr) (s : State) : exec c s = .next (effect c s) := by
  cases c <;> rfl

theorem exec_next_iff {c : Instr} : exec c s = .next t ↔ t = effect c s := by
  rw [exec_eq]
  exact ⟨fun h => (Host.Outcome.next.inj h).symm, fun h => h ▸ rfl⟩

/-- A row that carries a directive has the effect of the directive. -/
theorem effect_directive {c : Instr} {sender : Sender} {tag : Half} {r : Request}
    (h : requestOf c = some (sender, tag, r)) : effect c s = directive sender tag r s := by
  cases c <;> cases h <;> rfl

/-- A step is a tick of an empty queue, or the effect of the front command on the state with the rest of the queue. -/
theorem step_next_cases (h : step s = .next t) :
    (s.pending = [] ∧ t = tick s) ∨ ∃ c rest, s.pending = c :: rest ∧ t = effect c { s with pending := rest } := by
  unfold step at h
  split at h
  · next hp => exact .inl ⟨hp, (Host.Outcome.next.inj h).symm⟩
  · next c rest hp => exact .inr ⟨c, rest, hp, exec_next_iff.1 h⟩

/-- What the tick and every command's effect keep, and the queue does not enter, every step keeps. -/
theorem step_preserves {P : State → Prop} (hq : ∀ s q, P s → P { s with pending := q }) (ht : ∀ s, P s → P (tick s))
    (he : ∀ c s, P s → P (effect c s)) (hs : P s) (h : step s = .next t) : P t := by
  obtain ⟨-, rfl⟩ | ⟨c, rest, -, rfl⟩ := step_next_cases h
  · exact ht s hs
  · exact he c _ (hq s rest hs)

/-! ## The power-up reset -/

/-- The part right after power is applied, its own fields of the model kept, the line not yet started. -/
def poweredOn (s : State) : State := { State.reset with pending := s.pending, out := s.out, free := s.free }

/-- Auto-start is on by default, so a power-up reset starts the line. -/
theorem powerUp_eq (s : State) : powerUp s = startLine (poweredOn s) := rfl

theorem fault_poweredOn (s : State) (k : FaultKind) : (poweredOn s).fault k = k.record := by
  cases k <;> rfl

theorem param_poweredOn (s : State) (p : Param) : (poweredOn s).param p = p.default := by
  cases p <;> rfl

theorem capacitiesOk_poweredOn (s : State) : CapacitiesOk (poweredOn s) := by
  refine ⟨Nat.zero_le _, Nat.zero_le _, Nat.zero_le _, Nat.zero_le _, Nat.zero_le _, Nat.zero_le _, fun _ => rfl, ?_,
    Nat.zero_le _, Nat.zero_le _, Nat.zero_le _⟩
  intro n
  cases n <;> exact Nat.zero_le _

theorem default_level_in_range (k : FaultKind) (a : Authority) :
    (k.levelRule a).2.1 ≤ k.record.level a ∧ k.record.level a ≤ (k.levelRule a).2.2 := by
  cases a <;> cases k <;> decide

theorem faultsOk_poweredOn (s : State) : FaultsOk (poweredOn s) where
  levels k a := by
    rw [fault_poweredOn]
    exact default_level_in_range k a
  events k _ := by
    rw [fault_poweredOn]
    rfl
  counts k := by
    rw [fault_poweredOn]
    exact Nat.zero_le _
  exch := .nil
  loc := .nil

theorem profileReset_allowed (i : Fin 8) : (vget profileReset i).allowed := by
  unfold Rung.allowed
  revert i
  decide

theorem settingsOk_poweredOn (s : State) : SettingsOk (poweredOn s) where
  params p := by
    rw [param_poweredOn]
    exact p.default_allowed
  rungs := profileReset_allowed
  ladder := ⟨0, rfl⟩
  cadences := by
    change ∀ i j, vget (vget cadencesReset i).durations j ≤ 800
    decide
  dscp i := by simp [poweredOn, State.reset, matchEngineReset, matchReset]

theorem countersOk_poweredOn (s : State) : CountersOk (poweredOn s) := by
  intro c
  simp [poweredOn, State.reset, State.counter]

theorem voiceOk_poweredOn (s : State) : VoiceOk (poweredOn s) where
  builder n b hb := by cases n <;> cases hb
  due n f hf := by cases n <;> cases hf

theorem callsOk_poweredOn (s : State) : CallsOk (poweredOn s) := by
  have hslot : slotReset.Ok := ⟨fun _ => ⟨rfl, rfl⟩, fun _ => rfl, fun _ => ⟨rfl, rfl, rfl, rfl⟩⟩
  intro n
  cases n <;> exact hslot

theorem budgetOk_poweredOn (s : State) : BudgetOk (poweredOn s) := fun h => nomatch h

theorem recordOk_reset : RecordOk State.reset where
  rate := .inl rfl
  eff := by decide
  bitsCarry := by decide
  blockCarry := by decide
  blocks := by decide
  floor := by decide
  pendingFloor _ h := nomatch h

theorem recordOk_poweredOn (s : State) : RecordOk (poweredOn s) := recordOk_congr (s := .reset) rfl recordOk_reset

theorem powerUp_keeps (s : State) : Keeps s (powerUp s) :=
  startLine_keeps ⟨fun _ => capacitiesOk_poweredOn s, fun _ => faultsOk_poweredOn s, fun _ => settingsOk_poweredOn s,
    fun _ => countersOk_poweredOn s, fun _ => voiceOk_poweredOn s⟩

theorem powerUp_callKeeps (s : State) : CallKeeps s (powerUp s) :=
  startLine_callKeeps ⟨fun _ => callsOk_poweredOn s, fun _ _ => budgetOk_poweredOn s⟩

theorem powerUp_recordKeeps (s : State) : RecordKeeps s (powerUp s) :=
  recordKeeps_same (s := poweredOn s) ⟨fun _ => recordOk_poweredOn s⟩ (by simp [powerUp_eq])

/-! ## Every command keeps the invariants -/

theorem effect_keeps (c : Instr) (s : State) : Keeps s (effect c s) := by
  have h := Keeps.refl s
  cases c with
  | powerUpReset => exact powerUp_keeps s
  | budgetPeriodStart => exact periodStart_keeps h
  | voiceFrameClose => exact closeFrames_keeps h
  | uptimeSecond => exact uptimeSecond_keeps h
  | trained rate margin => exact trainedEvent_keeps rate margin.toInt h
  | noTrain => exact noTrainEvent_keeps h
  | syncLost => exact syncLostEvent_keeps h
  | syncBack => exact syncBackEvent_keeps h
  | margin value => exact marginEvent_keeps value.toInt h
  | transceiverSilent => exact silentEvent_keeps h
  | trainTimerExpiry => exact trainTimerEvent_keeps h
  | rideTimerExpiry => exact rideTimerEvent_keeps h
  | holdTimerExpiry => exact holdTimerEvent_keeps h
  | backoffExpiry => exact backoffEvent_keeps h
  | loopbackLimitExpiry => exact loopbackExpires_keeps h
  | lineBlockReceived block => exact blockArrives_keeps block h
  | homeFrameReceived frame => exact homeFrameArrives_keeps frame h
  | homeItemSent => exact itemSent_keeps h
  | homeLinkUp => exact homeUp_keeps h
  | homeLinkDown => exact homeDown_keeps h
  | loopChange port => exact loopChange_keeps port h
  | ringTrip port => exact ringTrip_keeps port h
  | onHook port => exact onHookEvent_keeps port h
  | interdigit port => exact interdigitEvent_keeps port h
  | park port => exact parkExpires_keeps port h
  | cadenceSegmentEnd port => exact segmentEnd_keeps port h
  | alertLimitExpiry slot => exact alertEvent_keeps slot h
  | testPhaseExpiry => exact testExpiry_keeps h
  | powerStateChange mains low => exact powerChange_keeps mains low h
  | sampleInstant a b pins => exact sampleInstant_keeps a.toInt b.toInt pins h
  | writeTableRefused sender tag table index entry =>
    exact receiveDirective_keeps sender _ h fun _ hu => takeBody_keeps sender 2 tag (table :: index :: entry) hu
  | _ => exact directive_keeps _ _ _ h

theorem effect_callKeeps (c : Instr) (s : State) : CallKeeps s (effect c s) := by
  have h := CallKeeps.refl s
  cases c with
  | powerUpReset => exact powerUp_callKeeps s
  | budgetPeriodStart => exact periodStart_callKeeps h
  | voiceFrameClose => exact closeFrames_callKeeps h
  | uptimeSecond => exact uptimeSecond_callKeeps h
  | trained rate margin => exact trainedEvent_callKeeps rate margin.toInt h
  | noTrain => exact noTrainEvent_callKeeps h
  | syncLost => exact syncLostEvent_callKeeps h
  | syncBack => exact syncBackEvent_callKeeps h
  | margin value => exact marginEvent_callKeeps value.toInt h
  | transceiverSilent => exact silentEvent_callKeeps h
  | trainTimerExpiry => exact trainTimerEvent_callKeeps h
  | rideTimerExpiry => exact rideTimerEvent_callKeeps h
  | holdTimerExpiry => exact holdTimerEvent_callKeeps h
  | backoffExpiry => exact backoffEvent_callKeeps h
  | loopbackLimitExpiry => exact loopbackExpires_callKeeps h
  | lineBlockReceived block => exact blockArrives_callKeeps block h
  | homeFrameReceived frame => exact homeFrameArrives_callKeeps frame h
  | homeItemSent => exact itemSent_callKeeps h
  | homeLinkUp => exact homeUp_callKeeps h
  | homeLinkDown => exact homeDown_callKeeps h
  | loopChange port => exact loopChange_callKeeps port h
  | ringTrip port => exact ringTrip_callKeeps port h
  | onHook port => exact onHookEvent_callKeeps port h
  | interdigit port => exact interdigitEvent_callKeeps port h
  | park port => exact parkExpires_callKeeps port h
  | cadenceSegmentEnd port => exact segmentEnd_callKeeps port h
  | alertLimitExpiry slot => exact alertEvent_callKeeps slot h
  | testPhaseExpiry => exact testExpiry_callKeeps h
  | powerStateChange mains low => exact powerChange_callKeeps mains low h
  | sampleInstant a b pins => exact sampleInstant_callKeeps a.toInt b.toInt pins h
  | writeTableRefused sender tag table index entry =>
    exact receiveDirective_callKeeps sender _ h fun _ hu => takeBody_callKeeps sender 2 tag (table :: index :: entry) hu
  | _ => exact directive_callKeeps _ _ _ h

theorem dataFloor_le (hs : SettingsOk s) : s.param .dataFloor ≤ 8 := (hs.params .dataFloor).2

theorem directive_recordOk (sender : Sender) (tag : Half) (r : Request) (h : s.param .dataFloor ≤ 8) (i : RecordOk s) :
    RecordOk (directive sender tag r s) :=
  receiveDirective_recordOk sender _ h i fun _ hu iu => takeBody_recordOk sender r.code tag r.body hu iu

theorem trainedEvent_recordOk (rate : Nat) (margin : Int) (hs : SettingsOk s) (i : RecordOk s) :
    RecordOk (trainedEvent rate margin s) := by
  unfold trainedEvent
  split
  · exact trainedTaken_recordOk rate margin hs i
  · exact (stray_recordKeeps (.refl s)).record i

theorem syncBackEvent_recordOk (h : s.param .dataFloor ≤ 8) (i : RecordOk s) : RecordOk (syncBackEvent s) := by
  unfold syncBackEvent
  split
  · exact endRide_recordOk h i
  · exact (stray_recordKeeps (.refl s)).record i

theorem effect_recordOk (c : Instr) (s : State) (hs : SettingsOk s) (i : RecordOk s) : RecordOk (effect c s) := by
  have h := RecordKeeps.refl s
  have hf := dataFloor_le hs
  cases c with
  | powerUpReset => exact (powerUp_recordKeeps s).record i
  | budgetPeriodStart => exact (periodStart_recordKeeps h).record i
  | voiceFrameClose => exact (closeFrames_recordKeeps h).record i
  | uptimeSecond => exact (uptimeSecond_recordKeeps h).record i
  | trained rate margin => exact trainedEvent_recordOk rate margin.toInt hs i
  | noTrain => exact (noTrainEvent_recordKeeps h).record i
  | syncLost => exact (syncLostEvent_recordKeeps h).record i
  | syncBack => exact syncBackEvent_recordOk hf i
  | margin value => exact (marginEvent_recordKeeps value.toInt h).record i
  | transceiverSilent => exact (silentEvent_recordKeeps h).record i
  | trainTimerExpiry => exact (trainTimerEvent_recordKeeps h).record i
  | rideTimerExpiry => exact (rideTimerEvent_recordKeeps h).record i
  | holdTimerExpiry => exact (holdTimerEvent_recordKeeps h).record i
  | backoffExpiry => exact (backoffEvent_recordKeeps h).record i
  | loopbackLimitExpiry => exact (loopbackExpires_recordKeeps h).record i
  | lineBlockReceived block => exact blockArrives_recordOk block hf i
  | homeFrameReceived frame => exact homeFrameArrives_recordOk frame hf i
  | homeItemSent => exact (recordKeeps_same (t := itemSent s) h (by simp)).record i
  | homeLinkUp => exact (recordKeeps_same (t := homeUp s) h (by simp)).record i
  | homeLinkDown => exact (recordKeeps_same (t := homeDown s) h (by simp)).record i
  | loopChange port => exact (loopChange_recordKeeps port h).record i
  | ringTrip port => exact (ringTrip_recordKeeps port h).record i
  | onHook port => exact (onHookEvent_recordKeeps port h).record i
  | interdigit port => exact (interdigitEvent_recordKeeps port h).record i
  | park port => exact (parkExpires_recordKeeps port h).record i
  | cadenceSegmentEnd port => exact (segmentEnd_recordKeeps port h).record i
  | alertLimitExpiry slot => exact (alertEvent_recordKeeps slot h).record i
  | testPhaseExpiry => exact (testExpiry_recordKeeps h).record i
  | powerStateChange mains low => exact (powerChange_recordKeeps mains low h).record i
  | sampleInstant a b pins => exact (recordKeeps_same (t := sampleInstant a.toInt b.toInt pins s) h (by simp)).record i
  | writeTableRefused sender tag table index entry =>
    exact receiveDirective_recordOk sender _ hf i fun _ hu iu =>
      takeBody_recordOk sender 2 tag (table :: index :: entry) hu iu
  | _ => exact directive_recordOk _ _ _ hf i

/-! ## The queue enters no invariant -/

theorem keeps_queue (s : State) (q : List Instr) : Keeps s { s with pending := q } :=
  SameTracked.keeps ⟨rfl, fun _ => rfl, rfl, rfl, rfl, rfl, rfl, rfl, rfl, rfl, rfl, rfl, rfl, rfl⟩

theorem callKeeps_queue (s : State) (q : List Instr) : CallKeeps s { s with pending := q } :=
  callKeeps_same (.refl s) rfl rfl rfl

/-- The invariants of `Keeps` are kept by every step. -/
theorem step_keeps (h : step s = .next t) : Keeps s t :=
  step_preserves (P := Keeps s) (fun u q hu => hu.trans (keeps_queue u q)) (fun _ hu => tick_keeps hu)
    (fun c u hu => hu.trans (effect_keeps c u)) (.refl s) h

/-- The invariants of `CallKeeps` are kept by every step. -/
theorem step_callKeeps (h : step s = .next t) : CallKeeps s t :=
  step_preserves (P := CallKeeps s) (fun u q hu => hu.trans (callKeeps_queue u q)) (fun _ hu => tick_callKeeps hu)
    (fun c u hu => hu.trans (effect_callKeeps c u)) (.refl s) h

/-! ## The obligations -/

/-- Settles O6: a step keeps the capacities, and each counter saturates. -/
theorem stepKeepsCapacities : Obligations.StepKeepsCapacities := fun _ _ hs h =>
  ⟨(step_keeps h).caps hs.1, (step_keeps h).counters hs.2⟩

/-- Settles O7: a step keeps the records and lists, and the settings. -/
theorem stepKeepsRecordsAndSettings : Obligations.StepKeepsRecordsAndSettings := fun _ _ hs h =>
  ⟨(step_keeps h).faults hs.1, (step_keeps h).settings hs.2⟩

/-- Settles O8: the record is staged from settings that are in range, and the settings are kept with it. -/
theorem stepKeepsTheBudgetRecord : Obligations.StepKeepsTheBudgetRecord := fun _ _ hs h =>
  step_preserves (P := fun s => SettingsOk s ∧ RecordOk s)
    (fun s q hs => ⟨(keeps_queue s q).settings hs.1, recordOk_congr (s := s) rfl hs.2⟩)
    (fun s hs => ⟨(tick_keeps (.refl s)).settings hs.1, (tick_recordKeeps (.refl s)).record hs.2⟩)
    (fun c s hs => ⟨(effect_keeps c s).settings hs.1, effect_recordOk c s hs.1 hs.2⟩) hs h

/-- Settles O9: a step keeps the slot records legal, and the builders and due frames at their lengths. -/
theorem stepKeepsCallsAndVoiceFrames : Obligations.StepKeepsCallsAndVoiceFrames := fun _ _ hs h =>
  ⟨(step_callKeeps h).calls hs.1, (step_keeps h).voice hs.2⟩

/-- Settles O10: a step keeps the bound of R58, given legal slot records. -/
theorem stepKeepsTheBudgetBound : Obligations.StepKeepsTheBudgetBound := fun _ _ hs h =>
  ⟨(step_callKeeps h).calls hs.1, (step_callKeeps h).budget hs.1 hs.2⟩

/-- Settles O5: the reset state is the part powered on from itself. -/
theorem resetMeetsTheInvariants : Obligations.ResetMeetsTheInvariants :=
  ⟨capacitiesOk_poweredOn .reset, faultsOk_poweredOn .reset, settingsOk_poweredOn .reset, countersOk_poweredOn .reset,
    voiceOk_poweredOn .reset, callsOk_poweredOn .reset, budgetOk_poweredOn .reset, recordOk_poweredOn .reset⟩

/-- Settles O1: a queue that is not empty has its front command run. -/
theorem stepRunsFrontCommand : Obligations.StepRunsFrontCommand := by
  intro c rest s hp
  rw [step, hp]

end Sys2Proof.Machine

/-! PROOFS. O4: what a power-up reset leaves (R215): the part powered on, with the line started (R28). -/

namespace Sys2Proof.Machine

/-! ## The power-up reset starts the line -/

/-- The state that a power-up reset leaves, as one update of the part powered on. -/
theorem powerUp_started (s : State) :
    powerUp s = { bump Ctr.trainingsStarted (poweredOn s) with
      ls := lineStarted profileReset 0 90, out := { s.out with xcvr := s.out.xcvr ++ [.train 16383] } } := rfl

theorem blocksReset_poweredOn (s : State) : BlocksReset 0 (poweredOn s) where
  channels c := by simp [poweredOn, State.reset, State.chan, framerReset, channelReset]
  loopStore := rfl
  budget := rfl
  matchTable i := by simp [poweredOn, State.reset, matchEngineReset, matchReset]
  answerTable i := by simp [poweredOn, State.reset, matchEngineReset, answerReset]
  quiet := ⟨rfl, rfl⟩
  queues := rfl
  ports p := by cases p <;> rfl
  pair := rfl
  slots n := by cases n <;> rfl
  stamp := rfl
  media n := by cases n <;> rfl
  mediaPorts p := by cases p <;> rfl
  mediaCounts := ⟨rfl, rfl, rfl⟩
  tests := rfl

/-- The values of `BlocksReset` lie in pieces that the start of the line does not touch. -/
theorem BlocksReset.congr {floor : Nat} {s t : State} (h : BlocksReset floor s) (hbf : t.bf = s.bf) (hlbu : t.lbu = s.lbu)
    (hme : t.me = s.me) (hqm : t.qm = s.qm) (hppu : t.ppu = s.ppu) (hcc : t.cc = s.cc) (hmdu : t.mdu = s.mdu)
    (htr : t.tr = s.tr) : BlocksReset floor t where
  channels c := (chan_congr hbf c).trans (h.channels c)
  loopStore := hbf ▸ h.loopStore
  budget := hlbu.trans h.budget
  matchTable := hme ▸ h.matchTable
  answerTable := hme ▸ h.answerTable
  quiet := hme ▸ h.quiet
  queues := hqm.trans h.queues
  ports p := (port_congr hppu p).trans (h.ports p)
  pair := hppu ▸ h.pair
  slots n := (call_congr hcc n).trans (h.slots n)
  stamp := hcc ▸ h.stamp
  media n := (media_congr hmdu n).trans (h.media n)
  mediaPorts p := (congrArg (·.ports.get p) hmdu).trans (h.mediaPorts p)
  mediaCounts := hmdu ▸ h.mediaCounts
  tests := htr.trans h.tests

theorem profileReset_get (i : Fin 8) :
    vget profileReset i = if i = 0 then { valid := true, cap := 16383, size := .b64, eff := 512, minMargin := 0 }
      else { valid := false, cap := 32, size := .b32, eff := 256, minMargin := 0 } := by
  revert i
  decide

theorem cadencesReset_get (i : Fin 8) :
    vget cadencesReset i =
      if i = 0 then { durations := #v[100, 400, 0, 0, 0, 0, 0, 0], rep := true }
      else if i = 1 then { durations := #v[40, 20, 40, 200, 0, 0, 0, 0], rep := true }
      else { durations := #v[0, 0, 0, 0, 0, 0, 0, 0], rep := false } := by
  revert i
  decide

/-- The start of the line is one training; every other counter is 0 after the reset. -/
theorem counter_powerUp (s : State) (c : Counter) :
    (powerUp s).counter c = if c = Ctr.trainingsStarted then 1 else 0 := by
  have hzero (d : Counter) : (poweredOn s).counter d = 0 := by simp [poweredOn, State.reset, State.counter]
  have hc : (powerUp s).counter c = (bump Ctr.trainingsStarted (poweredOn s)).counter c := rfl
  rw [hc, counter_bump, hzero, hzero, if_congr eq_comm rfl rfl]
  rfl

/-- Settles O4: the reset values stand as they were written, and the start of the line adds one TRAIN. -/
theorem powerUpResetStartsTheLine : Obligations.PowerUpResetStartsTheLine := by
  intro s
  refine ⟨powerUp s, rfl, ?_, rfl, profileReset_get, cadencesReset_get, param_poweredOn s, rfl, rfl, fault_poweredOn s, rfl,
    counter_powerUp s, rfl, rfl, rfl, rfl⟩
  exact (blocksReset_poweredOn s).congr rfl rfl rfl rfl rfl rfl rfl rfl

end Sys2Proof.Machine

/-! PROOFS. O3: every command keeps to its footprint. The frame lemmas of Laws/Frames say what each operation leaves alone; a command's
footprint is read off the frame of its meaning, a directive's off the four ways it can be answered. -/

namespace Sys2Proof.Machine

variable {s t u : State}

/-! ## Footprints as frames -/

theorem forall_block {P : Block → Prop} :
    (∀ b, P b) ↔ P .queue ∧ P .framer ∧ P .supervisor ∧ P .budget ∧ P .matchEngine ∧ P .queues ∧ P .phones ∧ P .calls ∧
      P .media ∧ P .faults ∧ P .directives ∧ P .tests ∧ P .counters ∧ P .clock ∧ P .outputs ∧ P .free := by
  refine ⟨fun h => ⟨h _, h _, h _, h _, h _, h _, h _, h _, h _, h _, h _, h _, h _, h _, h _, h _⟩, ?_⟩
  rintro ⟨h1, h2, h3, h4, h5, h6, h7, h8, h9, h10, h11, h12, h13, h14, h15, h16⟩ b
  cases b <;> assumption

/-- A footprint piece by piece: each is listed or as it was. -/
theorem changesOnly_iff (bs : List Block) (s t : State) :
    changesOnly bs s t ↔ (.queue ∈ bs ∨ t.pending = s.pending) ∧ (.framer ∈ bs ∨ t.bf = s.bf) ∧
      (.supervisor ∈ bs ∨ t.ls = s.ls) ∧ (.budget ∈ bs ∨ t.lbu = s.lbu) ∧ (.matchEngine ∈ bs ∨ t.me = s.me) ∧
      (.queues ∈ bs ∨ t.qm = s.qm) ∧ (.phones ∈ bs ∨ t.ppu = s.ppu) ∧ (.calls ∈ bs ∨ t.cc = s.cc) ∧
      (.media ∈ bs ∨ t.mdu = s.mdu) ∧ (.faults ∈ bs ∨ t.fu = s.fu) ∧ (.directives ∈ bs ∨ t.du = s.du) ∧
      (.tests ∈ bs ∨ t.tr = s.tr) ∧ (.counters ∈ bs ∨ t.counters = s.counters) ∧ (.clock ∈ bs ∨ t.clock = s.clock) ∧
      (.outputs ∈ bs ∨ t.out = s.out) ∧ (.free ∈ bs ∨ t.free = s.free) := by
  simp only [changesOnly, ← Decidable.or_iff_not_imp_left]
  exact forall_block

theorem changesOnly.refl (bs : List Block) (s : State) : changesOnly bs s s := by
  simp [changesOnly_iff]

theorem changesOnly.mono {as bs : List Block} (h : changesOnly as s t) (hs : as ⊆ bs) : changesOnly bs s t :=
  fun b hb => h b fun hm => hb (hs hm)

theorem agree_trans {b : Block} (h : agree s t b) (k : agree t u b) : agree s u b := by
  cases b <;> exact k.trans h

theorem changesOnly.trans {bs : List Block} (h : changesOnly bs s t) (k : changesOnly bs t u) : changesOnly bs s u :=
  fun b hb => agree_trans (h b hb) (k b hb)

/-! ## Directives -/

/-- What a directive answered without an effect of its own can touch, a NOT_OWNER refusal's report included. -/
def answerBlocks : List Block := .directives :: reportBlocks

theorem arrived_changesOnly (sender : Sender) (s : State) : changesOnly answerBlocks s (arrived sender s) := by
  simp [changesOnly_iff, answerBlocks, reportBlocks]

theorem answerWith_changesOnly {bs : List Block} (hb : answerBlocks ⊆ bs) (sender : Sender) (code : Byte) (tag : Half)
    {r : Answer} (h : changesOnly bs s r.state) : changesOnly bs s (answerWith sender code tag r) :=
  h.trans (.mono (as := answerBlocks) (by simp [changesOnly_iff, answerBlocks, reportBlocks]) hb)

theorem refuseOwner_changesOnly (sender : Sender) (code : Nat) (tag : Half) (table : Nat) (s : State) :
    changesOnly answerBlocks s (refuseOwner sender code tag table s) := by
  simp [changesOnly_iff, answerBlocks, reportBlocks]

/-- What a write can touch: its answer, and the settings with what they act on at once. -/
def writeBlocks : List Block := [.directives, .framer, .supervisor, .budget, .phones] ++ reportBlocks

theorem answerBlocks_subset_writeBlocks : answerBlocks ⊆ writeBlocks := by decide

theorem receiveDirective_changesOnly {bs : List Block} (hb : answerBlocks ⊆ bs) (sender : Sender) {take : State → State}
    (h : ∀ u, changesOnly bs u (take u)) (s : State) : changesOnly bs s (receiveDirective sender take s) := by
  have harr := (arrived_changesOnly sender s).mono hb
  cases sender with
  | loc source => exact harr.trans (h _)
  | exch =>
    unfold receiveDirective
    dsimp only
    split
    · exact harr.trans (h _)
    · exact harr.trans (.mono (as := answerBlocks) (by simp [changesOnly_iff, answerBlocks, reportBlocks]) hb)

/-- A directive keeps to pieces that its answer may touch, where its request taken does. -/
theorem directive_changesOnly {bs : List Block} (hb : answerBlocks ⊆ bs) (sender : Sender) (tag : Half) (r : Request)
    (h : ∀ u, changesOnly bs u (takeRequest sender tag r u)) (s : State) : changesOnly bs s (directive sender tag r s) := by
  refine receiveDirective_changesOnly hb sender (fun u => ?_) s
  rcases takeBody_cases sender tag r u with ⟨st, e⟩ | ⟨n, e⟩ | e <;> rw [e]
  · exact answerWith_changesOnly hb _ _ _ (.refl _ u)
  · exact (refuseOwner_changesOnly _ _ _ _ _).mono hb
  · exact h u

/-- A request that reads touches no more than its answer. -/
def Request.reads : Request → Bool
  | .readTable _ _ _ | .readStatus | .readParam _ => true
  | _ => false

/-- A request that writes a setting, or clears a record. -/
def Request.writes : Request → Bool
  | .writeProfile _ _ | .writeCadence _ _ _ | .writeMatch _ _ | .writeAnswer _ _ _ _ | .writeFault _ _
  | .writeParam _ _ | .clearFault _ _ => true
  | _ => false

theorem takeRequest_reads {r : Request} (h : r.reads = true) (sender : Sender) (tag : Half) (s : State) :
    changesOnly answerBlocks s (takeRequest sender tag r s) := by
  cases r <;> cases h <;>
    exact answerWith_changesOnly (List.Subset.refl _) _ _ _ (by simp [act, changesOnly_iff, answerBlocks, reportBlocks])

theorem takeRequest_writes {r : Request} (h : r.writes = true) (sender : Sender) (tag : Half) (s : State) :
    changesOnly writeBlocks s (takeRequest sender tag r s) := by
  cases r <;> cases h <;>
    exact answerWith_changesOnly answerBlocks_subset_writeBlocks _ _ _ (by simp [act, changesOnly_iff, writeBlocks, reportBlocks])

theorem takeRequest_quiet (k h : Byte) (sender : Sender) (tag : Half) (s : State) :
    changesOnly answerBlocks s (takeRequest sender tag (.quiet k h) s) :=
  answerWith_changesOnly (List.Subset.refl _) _ _ _ (by simp [act, changesOnly_iff, answerBlocks, reportBlocks])

/-- The entry of a WRITE_TABLE, where it is one, is a request that writes. -/
theorem parseEntry_writes {table : Nat} {i : Byte} {e : Bytes} {r : Request} (h : parseEntry table i e = some r) :
    r.writes = true := by
  unfold parseEntry at h
  split at h
  case h_6 => cases h
  all_goals
    split at h <;> cases h
    rfl

/-- A WRITE_TABLE keeps to the pieces of a write, whatever its entry's bytes spell. -/
theorem writeTable_changesOnly (sender : Sender) (tag : Half) (table index : Byte) (entry : Bytes) (s : State) :
    changesOnly writeBlocks s (takeBody sender 2 tag (table :: index :: entry) s) := by
  have hb := answerBlocks_subset_writeBlocks
  unfold takeBody
  split
  · exact answerWith_changesOnly hb _ _ _ (.refl _ s)
  · split
    · exact (refuseOwner_changesOnly _ _ _ _ _).mono hb
    · split
      · exact answerWith_changesOnly hb _ _ _ (.refl _ s)
      · next r hr => exact takeRequest_writes (parseEntry_writes hr) sender tag s

/-- A directive touches neither the queue, nor the clock, nor the count of free values. -/
theorem directive_messageBlocks (sender : Sender) (tag : Half) (r : Request) (s : State) :
    changesOnly messageBlocks s (directive sender tag r s) := by
  simp [changesOnly_iff, messageBlocks, callBlocks, reportBlocks]

/-! ## Every command -/

theorem effect_changesOnly (c : Instr) (s : State) : changesOnly (footprint c) s (effect c s) := by
  have hread {r : Request} (h : r.reads = true) (sender : Sender) (tag : Half) :=
    directive_changesOnly (List.Subset.refl _) sender tag r (takeRequest_reads h sender tag) s
  have hwrite {r : Request} (h : r.writes = true) (sender : Sender) (tag : Half) :=
    directive_changesOnly answerBlocks_subset_writeBlocks sender tag r (takeRequest_writes h sender tag) s
  cases c with
  | readTable | readStatus | readParam => exact hread rfl _ _
  | writeTableProfile | writeTableCadence | writeTableMatch | writeTableAnswer | writeTableFault | writeParam | clearFault =>
    exact hwrite rfl _ _
  | writeTableRefused sender tag table index entry =>
    exact receiveDirective_changesOnly answerBlocks_subset_writeBlocks sender
      (fun u => writeTable_changesOnly sender tag table index entry u) s
  | quietEnter sender tag =>
    exact directive_changesOnly (List.Subset.refl _) sender tag _ (takeRequest_quiet _ _ sender tag) s
  | quietLeave sender tag hitClear =>
    exact directive_changesOnly (List.Subset.refl _) sender tag _ (takeRequest_quiet _ _ sender tag) s
  | lineActionStart | lineActionStop | lineActionRetrain | lineActionStepDown | lineActionStepUp | loopOn | loopOff
  | testRing | echoTest | releasePort | disable | enable | reset => exact directive_messageBlocks _ _ _ s
  | _ =>
    simp [changesOnly_iff, footprint, messageBlocks, callBlocks, reportBlocks, effect, exec, execPowerUpReset,
      execBudgetPeriodStart, execVoiceFrameClose, execUptimeSecond, execTrained, execNoTrain, execSyncLost, execSyncBack,
      execMargin, execTransceiverSilent, execTrainTimerExpiry, execRideTimerExpiry, execHoldTimerExpiry, execBackoffExpiry,
      execLoopbackLimitExpiry, execLineBlockReceived, execHomeFrameReceived, execHomeItemSent, execHomeLinkUp,
      execHomeLinkDown, execLoopChange, execRingTrip, execOnHook, execInterdigit, execPark, execCadenceSegmentEnd,
      execAlertLimitExpiry, execTestPhaseExpiry, execPowerStateChange, execSampleInstant]

/-- Settles O3: every command answers its effect, which keeps to the command's footprint. -/
theorem commandsKeepToTheirFootprints : Obligations.CommandsKeepToTheirFootprints := fun c s =>
  ⟨effect c s, exec_eq c s, effect_changesOnly c s⟩

end Sys2Proof.Machine

/-! PROOFS. O14 to O16: the voice path. First what closing a frame makes of one slot of the Media Unit (R132), then the sample
instant, then the playout at a period start (R137). -/

namespace Sys2Proof.Machine

variable {s t u : State}

/-! ## Frames closed (R132) -/

/-- A slot of the Media Unit after its builder has had the chance to close. -/
def MediaSlot.closed (u : MediaSlot) : MediaSlot :=
  match u.builder with
  | some b =>
    if b.codes.length = Config.periodSamples then
      { u with
        due := some (voiceFrame u.resume b.muted u.seq (if b.muted then List.replicate Config.periodSamples 0 else b.codes))
        seq := u.seq + 1, resume := false, builder := none }
    else u
  | none => u

/-- Whether a slot's builder holds the 80 codes of a frame. -/
def MediaSlot.full (u : MediaSlot) : Prop := ∃ b, u.builder = some b ∧ b.codes.length = Config.periodSamples

theorem closeFrame_full {n : Slot} (h : (s.media n).full) :
    closeFrame n s = bump (Ctr.framesBuilt n) (onMedia n MediaSlot.closed s) := by
  obtain ⟨b, hb, hl⟩ := h
  have hc : onMedia n MediaSlot.closed s = onMedia n (fun _ => (s.media n).closed) s := rfl
  rw [hc]
  simp only [closeFrame, MediaSlot.closed, hb, hl, if_true]
  rfl

theorem closeFrame_short {n : Slot} (h : ¬ (s.media n).full) : closeFrame n s = s := by
  unfold closeFrame
  split
  · next b hb => exact if_neg fun hl => h ⟨b, hb, hl⟩
  · rfl

theorem MediaSlot.closed_short {v : MediaSlot} (h : ¬ v.full) : v.closed = v := by
  unfold MediaSlot.closed
  split
  · next b hb => exact if_neg fun hl => h ⟨b, hb, hl⟩
  · rfl

theorem media_closeFrame (n m : Slot) (s : State) :
    (closeFrame n s).media m = if n = m then (s.media n).closed else s.media m := by
  by_cases h : (s.media n).full
  · rw [closeFrame_full h, media_congr (bump_mdu _ _), media_onMedia]
  · rw [closeFrame_short h, MediaSlot.closed_short h]
    split
    · next e => rw [e]
    · rfl

theorem media_closeFrames (n : Slot) (s : State) : (closeFrames s).media n = (s.media n).closed := by
  cases n <;> simp [closeFrames, media_closeFrame]

theorem closeFrame_countsOnly (n : Slot) (s : State) : countsOnly [Ctr.framesBuilt n] s (closeFrame n s) := by
  by_cases h : (s.media n).full
  · rw [closeFrame_full h]
    exact ((countsOnly.refl _ s).congr (by simp)).bump (List.mem_singleton_self _)
  · rw [closeFrame_short h]
    exact .refl _ s

theorem framesBuilt_other (n : Slot) : Ctr.framesBuilt n.other ∉ [Ctr.framesBuilt n] := by
  cases n <;> decide

theorem counter_closeFrame_same (n : Slot) (s : State) :
    countedIf (s.media n).full (Ctr.framesBuilt n) 1 s (closeFrame n s) := by
  refine ⟨fun h => ?_, fun h => ?_⟩
  · rw [counted, closeFrame_full h, counter_bump_same]
    rfl
  · rw [closeFrame_short h]

/-- Each slot's closing counts under its own counter, whatever the other slot does. -/
theorem counter_closeFrames (n : Slot) (s : State) :
    countedIf (s.media n).full (Ctr.framesBuilt n) 1 s (closeFrames s) := by
  cases n with
  | zero =>
    have hlast : (closeFrame .one (closeFrame .zero s)).counter (Ctr.framesBuilt .zero) = _ :=
      closeFrame_countsOnly .one (closeFrame .zero s) _ (framesBuilt_other .one)
    simpa only [countedIf, counted, closeFrames, hlast] using counter_closeFrame_same .zero s
  | one =>
    have hfirst : (closeFrame .zero s).counter (Ctr.framesBuilt .one) = _ :=
      closeFrame_countsOnly .zero s _ (framesBuilt_other .zero)
    have hm : (closeFrame .zero s).media .one = s.media .one := by simp [media_closeFrame]
    simpa only [countedIf, counted, closeFrames, hfirst, hm] using counter_closeFrame_same .one (closeFrame .zero s)

theorem closeFrames_countsOnly (s : State) :
    countsOnly [Ctr.framesBuilt .zero, Ctr.framesBuilt .one] s (closeFrames s) :=
  ((closeFrame_countsOnly .zero s).mono (by decide)).trans ((closeFrame_countsOnly .one _).mono (by decide))

theorem closeFrame_mdu (n : Slot) (s : State) :
    (closeFrame n s).mdu = { s.mdu with slots := (closeFrame n s).mdu.slots } := by
  by_cases h : (s.media n).full
  · rw [closeFrame_full h]
    rfl
  · rw [closeFrame_short h]

theorem closeFrames_mdu (s : State) : (closeFrames s).mdu = { s.mdu with slots := (closeFrames s).mdu.slots } := by
  rw [closeFrames, closeFrame_mdu, closeFrame_mdu .zero s]

/-- The flags byte of a voice frame (R131) as a sum of its two bits. -/
theorem voiceFlags_eq (resume silent : Bool) :
    resume.toNat + 2 * silent.toNat = (if resume then 1 else 0) + (if silent then 2 else 0) := by
  cases resume <;> cases silent <;> rfl

/-- Settles O15: the two builders close apart from each other, each if it is full. -/
theorem fullBuildersClose : Obligations.FullBuildersClose := by
  intro s
  refine ⟨closeFrames s, rfl, fun n f hf hl => ?_, fun n hn => ?_, closeFrames_mdu s,
    effect_changesOnly .voiceFrameClose s, closeFrames_countsOnly s⟩
  · refine ⟨?_, (counter_closeFrames n s).1 ⟨f, hf, hl⟩⟩
    rw [media_closeFrames]
    simp only [MediaSlot.closed, hf, hl, if_true, voiceFrame, voiceFlags_eq]
  · have hshort : ¬ (s.media n).full := fun ⟨f, hf, hl⟩ => hn f hf hl
    exact ⟨(media_closeFrames n s).trans (MediaSlot.closed_short hshort), (counter_closeFrames n s).2 hshort⟩

/-! ## One sample (R126 to R129, R138) -/

theorem mediaPort_saturated (v : Int) (p : Port) (s : State) : (saturated v s).1.mediaPort p = s.mediaPort p := by
  unfold saturated whenever
  split <;> rfl

theorem media_dcBlock (p : Port) (x : Int) (n : Slot) (s : State) : (dcBlock p x s).media n = s.media n := by
  unfold dcBlock
  split
  · rw [media_onMediaPort, saturated_media]
  · rfl

theorem mediaPort_dcBlock_inCall {p : Port} (x : Int) (h : (s.port p).state = .inCall) :
    ((dcBlock p x s).mediaPort p).dcIn = x ∧
      ((dcBlock p x s).mediaPort p).dcOut = saturate (dcRaw x (s.mediaPort p).dcIn (s.mediaPort p).dcOut) := by
  have htakes : ((s.port p).state == .inCall || s.echoing p) = true := by simp [h]
  rw [dcBlock, if_pos htakes, mediaPort_onMediaPort_same]
  exact ⟨rfl, rfl⟩

theorem mediaPort_dcBlock_other (p : Port) (x : Int) (s : State) :
    (dcBlock p x s).mediaPort p.other = s.mediaPort p.other := by
  have hne : p ≠ p.other := by cases p <;> decide
  unfold dcBlock
  split
  · rw [mediaPort_onMediaPort, if_neg hne, mediaPort_saturated]
  · rfl

theorem mediaPort_uplinkSample (n : Slot) (p : Port) (s : State) : (uplinkSample n s).mediaPort p = s.mediaPort p := by
  unfold uplinkSample
  split
  · split
    · rw [mediaPort_onMedia, mediaPort_saturated]
    · rfl
  · rfl

/-- The code that a slot's uplink gives at a sample (R127 to R129). -/
def State.uplinkCode (s : State) (n : Slot) : Byte := compress (saturate (gainRound (s.uplinkSum n)))

theorem media_uplinkSample_building {n : Slot} {b : Builder} (hb : (s.media n).builder = some b)
    (hl : b.codes.length < Config.periodSamples) :
    (uplinkSample n s).media n = { s.media n with
      builder := some { codes := b.codes ++ [s.uplinkCode n], muted := b.muted && s.slotMuted n } } := by
  simp only [uplinkSample, hb, if_pos hl, media_onMedia_same, saturated_media]
  rfl

/-- The uplink of a slot touches nothing of the Media Unit's slots but that slot's builder. -/
theorem media_uplinkSample (n m : Slot) (s : State) :
    (uplinkSample n s).media m = { s.media m with builder := ((uplinkSample n s).media m).builder } := by
  unfold uplinkSample
  split
  · split
    · rw [media_onMedia]
      split
      · next e => simp only [saturated_media, e]
      · simp only [saturated_media]
    · rfl
  · rfl

theorem media_uplinkSample_other (n : Slot) (s : State) : (uplinkSample n s).media n.other = s.media n.other := by
  have hne : n ≠ n.other := by cases n <;> decide
  unfold uplinkSample
  split
  · split
    · rw [media_onMedia, if_neg hne, saturated_media]
    · rfl
  · rfl

theorem media_outputSample (p : Port) (n : Slot) (s : State) : (outputSample p s).1.media n = s.media n := by
  have htone (k : ToneKind) : (playTone p k s).1.media n = s.media n := by
    unfold playTone
    (repeat' split) <;> rfl
  have hecho (t : PortTest) : (playEcho p t s).1.media n = s.media n := by
    unfold playEcho
    dsimp only
    split <;> exact saturated_media _ _ _
  have hcall (m : Slot) : (playCall p m s).1.media n = s.media n := by
    unfold playCall
    split
    · exact saturated_media _ _ _
    · rfl
  unfold outputSample
  (repeat' split) <;> simp only [htone, hecho, hcall]

/-- The output sample leaves both DC blocks alone: only a tone's phase moves. -/
theorem dc_outputSample (p q : Port) (s : State) :
    ((outputSample p s).1.mediaPort q).dcIn = (s.mediaPort q).dcIn ∧
      ((outputSample p s).1.mediaPort q).dcOut = (s.mediaPort q).dcOut := by
  have htone (k : ToneKind) : ((playTone p k s).1.mediaPort q).dcIn = (s.mediaPort q).dcIn ∧
      ((playTone p k s).1.mediaPort q).dcOut = (s.mediaPort q).dcOut := by
    unfold playTone
    split
    · split
      · rw [mediaPort_onMediaPort]
        split
        · next e => exact ⟨by rw [e], by rw [e]⟩
        · exact ⟨rfl, rfl⟩
      · exact ⟨rfl, rfl⟩
    · exact ⟨rfl, rfl⟩
  have hecho (t : PortTest) : (playEcho p t s).1.mediaPort q = s.mediaPort q := by
    unfold playEcho
    dsimp only
    split <;> exact mediaPort_saturated _ _ _
  have hcall (m : Slot) : (playCall p m s).1.mediaPort q = s.mediaPort q := by
    unfold playCall
    split
    · exact mediaPort_saturated _ _ _
    · rfl
  unfold outputSample
  (repeat' split) <;> simp only [htone, hecho, hcall, and_self]

theorem media_giveSample (p : Port) (n : Slot) (s : State) : (giveSample p s).media n = s.media n :=
  media_outputSample p n s

theorem dc_giveSample (p q : Port) (s : State) :
    ((giveSample p s).mediaPort q).dcIn = (s.mediaPort q).dcIn ∧
      ((giveSample p s).mediaPort q).dcOut = (s.mediaPort q).dcOut := dc_outputSample p q s

theorem out_giveSample (p : Port) (s : State) :
    (giveSample p s).out = { s.out with codec := s.out.codec.set p (outputSample p s).2 } := by
  simp [giveSample]

/-- The state of a sample instant once both DC blocks have taken their samples. -/
def dcTaken (a b : Int) (s : State) : State := s |> dcBlock .a a |> dcBlock .b b

/-- The state of a sample instant once both uplinks have taken their samples. -/
def uplinksTaken (a b : Int) (s : State) : State := dcTaken a b s |> uplinkSample .zero |> uplinkSample .one

theorem uplinksTaken_frame (a b : Int) (s : State) :
    (uplinksTaken a b s).ppu = s.ppu ∧ (uplinksTaken a b s).cc = s.cc ∧ (uplinksTaken a b s).du = s.du ∧
      (uplinksTaken a b s).clock = s.clock ∧ (uplinksTaken a b s).out = s.out := by
  simp [uplinksTaken, dcTaken]

theorem sampleInstant_eq (a b : Int) (pins : Pins) (s : State) :
    sampleInstant a b pins s =
      (uplinksTaken a b s |> giveSample .a |> giveSample .b |> onClock (fun c => c.sample pins)) := rfl

/-- The sample that the instant takes from a port. -/
def sampleOf (a b : Int) : Port → Int
  | .a => a
  | .b => b

theorem dc_dcTaken {p : Port} (a b : Int) (h : (s.port p).state = .inCall) :
    ((dcTaken a b s).mediaPort p).dcIn = sampleOf a b p ∧
      ((dcTaken a b s).mediaPort p).dcOut =
        saturate (dcRaw (sampleOf a b p) (s.mediaPort p).dcIn (s.mediaPort p).dcOut) := by
  cases p with
  | a =>
    have hlast : (dcTaken a b s).mediaPort .a = (dcBlock .a a s).mediaPort .a := mediaPort_dcBlock_other .b b _
    rw [hlast]
    exact mediaPort_dcBlock_inCall a h
  | b =>
    have hfirst : (dcBlock .a a s).mediaPort .b = s.mediaPort .b := mediaPort_dcBlock_other .a a s
    rw [← hfirst]
    exact mediaPort_dcBlock_inCall b ((congrArg PortUnit.state (port_congr (by simp) .b)).trans h)

/-- No act after the DC blocks moves them. -/
theorem dc_sampleInstant (a b : Int) (pins : Pins) (p : Port) (s : State) :
    ((sampleInstant a b pins s).mediaPort p).dcIn = ((dcTaken a b s).mediaPort p).dcIn ∧
      ((sampleInstant a b pins s).mediaPort p).dcOut = ((dcTaken a b s).mediaPort p).dcOut := by
  obtain ⟨hin, hout⟩ := dc_giveSample .b p (giveSample .a (uplinksTaken a b s))
  obtain ⟨kin, kout⟩ := dc_giveSample .a p (uplinksTaken a b s)
  have hup : (uplinksTaken a b s).mediaPort p = (dcTaken a b s).mediaPort p := by
    rw [uplinksTaken, mediaPort_uplinkSample, mediaPort_uplinkSample]
  rw [← hup]
  exact ⟨hin.trans kin, hout.trans kout⟩

theorem media_sampleInstant (a b : Int) (pins : Pins) (n : Slot) (s : State) :
    (sampleInstant a b pins s).media n = (uplinksTaken a b s).media n :=
  (media_giveSample .b n _).trans (media_giveSample .a n _)

/-- A sample instant touches nothing of the Media Unit's slots but the builders. -/
theorem media_uplinksTaken (a b : Int) (n : Slot) (s : State) :
    (uplinksTaken a b s).media n = { s.media n with builder := ((uplinksTaken a b s).media n).builder } := by
  have hdc : (dcTaken a b s).media n = s.media n := (media_dcBlock .b b n _).trans (media_dcBlock .a a n s)
  have hzero := media_uplinkSample .zero n (dcTaken a b s)
  have hone := media_uplinkSample .one n (uplinkSample .zero (dcTaken a b s))
  rw [hzero, hdc] at hone
  exact hone

/-- The part of a port in the accumulator of its slot's uplink (R127, R128). -/
def State.uplinkPart (s : State) (n : Slot) (p : Port) : Int :=
  if (s.call n).attached.has p then (s.mediaPort p).dcOut * (s.upGain p : Int) else 0

theorem uplinkSum_eq (n : Slot) (s : State) : s.uplinkSum n = s.uplinkPart n .a + s.uplinkPart n .b := by
  unfold State.uplinkSum State.uplinkPart PortSet.toList PortSet.has
  cases (s.call n).attached.a <;> cases (s.call n).attached.b <;> simp

theorem slotMuted_eq (n : Slot) (s : State) :
    s.slotMuted n = ((!(s.call n).attached.a || s.param .upGainA == 0) &&
      (!(s.call n).attached.b || s.param .upGainB == 0)) := by
  unfold State.slotMuted PortSet.toList
  cases (s.call n).attached.a <;> cases (s.call n).attached.b <;> simp [State.upGain]

/-- A builder short of 80 codes takes one code of the samples that the DC blocks have just given. -/
theorem builder_uplinksTaken {n : Slot} {f : Builder} (a b : Int) (hf : (s.media n).builder = some f)
    (hl : f.codes.length < Config.periodSamples) :
    ((uplinksTaken a b s).media n).builder =
      some { codes := f.codes ++ [(dcTaken a b s).uplinkCode n], muted := f.muted && s.slotMuted n } := by
  have hmuted (u : State) (hcc : u.cc = s.cc) (hdu : u.du = s.du) : u.slotMuted n = s.slotMuted n := by
    simp only [slotMuted_eq, call_congr hcc, param_congr hdu]
  cases n with
  | zero =>
    have hdc : (dcTaken a b s).media .zero = s.media .zero := (media_dcBlock .b b _ _).trans (media_dcBlock .a a _ s)
    have hlast : (uplinksTaken a b s).media .zero = (uplinkSample .zero (dcTaken a b s)).media .zero :=
      media_uplinkSample_other .one _
    rw [hlast, media_uplinkSample_building (hdc ▸ hf) hl, hmuted _ (by simp [dcTaken]) (by simp [dcTaken])]
  | one =>
    have hfirst : (uplinkSample .zero (dcTaken a b s)).media .one = s.media .one :=
      (media_uplinkSample_other .zero _).trans ((media_dcBlock .b b _ _).trans (media_dcBlock .a a _ s))
    have hcc : (uplinkSample .zero (dcTaken a b s)).cc = (dcTaken a b s).cc := by simp
    have hdu : (uplinkSample .zero (dcTaken a b s)).du = (dcTaken a b s).du := by simp
    have hcode : (uplinkSample .zero (dcTaken a b s)).uplinkCode .one = (dcTaken a b s).uplinkCode .one := by
      simp only [State.uplinkCode, uplinkSum_eq, State.uplinkPart, State.upGain, mediaPort_uplinkSample, call_congr hcc,
        param_congr hdu]
    rw [uplinksTaken, media_uplinkSample_building (hfirst ▸ hf) hl, hcode, hmuted _ (by simp [dcTaken]) (by simp [dcTaken])]

/-- What an output sample is chosen from (R138) as it stood before the sample instant. -/
structure PlaysAs (s u : State) : Prop where
  ports : u.ppu = s.ppu
  calls : u.cc = s.cc
  params : u.du = s.du
  clock : u.clock = s.clock
  slots : ∀ n, (u.media n).media = (s.media n).media ∧ (u.media n).playing = (s.media n).playing

/-- Each codec's sample is chosen as from the state before the instant. -/
theorem codec_sampleInstant (a b : Int) (pins : Pins) (s : State) (p : Port) :
    ∃ u, PlaysAs s u ∧ (sampleInstant a b pins s).out.codec.get p = (outputSample p u).2 := by
  obtain ⟨hppu, hcc, hdu, hclock, -⟩ := uplinksTaken_frame a b s
  have hslots (n : Slot) : ((uplinksTaken a b s).media n).media = (s.media n).media ∧
      ((uplinksTaken a b s).media n).playing = (s.media n).playing := by
    rw [media_uplinksTaken]
    exact ⟨rfl, rfl⟩
  cases p with
  | a =>
    refine ⟨uplinksTaken a b s, ⟨hppu, hcc, hdu, hclock, hslots⟩, ?_⟩
    rw [sampleInstant_eq, onClock_out, out_giveSample, out_giveSample]
    rfl
  | b =>
    refine ⟨giveSample .a (uplinksTaken a b s), ⟨?_, ?_, ?_, ?_, fun n => ?_⟩, ?_⟩
    · simpa using hppu
    · simpa using hcc
    · simpa using hdu
    · simpa using hclock
    · rw [media_giveSample]
      exact hslots n
    · rw [sampleInstant_eq, onClock_out, out_giveSample]
      rfl

theorem slotOf_congr (h : u.cc = s.cc) (p : Port) : u.slotOf p = s.slotOf p := by
  simp only [State.slotOf, call_congr h]

theorem PlaysAs.inCall {p : Port} {n : Slot} (h : PlaysAs s u) (hp : (s.port p).state = .inCall)
    (hn : s.slotOf p = some n) :
    (outputSample p u).2 = if (s.media n).media = .flowing then
      saturate (gainRound ((s.media n).playing.getD s.clock.sampleInPeriod 0 * (s.downGain p : Int))) else 0 := by
  obtain ⟨hmedia, hplaying⟩ := h.slots n
  have hgain : u.downGain p = s.downGain p := by cases p <;> exact param_congr h.params _
  have hstate : (u.port p).state = .inCall := (congrArg PortUnit.state (port_congr h.ports p)).trans hp
  simp only [outputSample, hstate, slotOf_congr h.calls, hn, playCall, hmedia, hplaying, hgain, h.clock]
  split <;> rfl

theorem PlaysAs.silent {p : Port} (h : PlaysAs s u) (hp : (s.port p).state = .idle ∨ (s.port p).state = .ringing ∨
    (s.port p).state = .parked ∨ (s.port p).state = .disabled) : (outputSample p u).2 = 0 := by
  have hstate : u.port p = s.port p := port_congr h.ports p
  rcases hp with hp | hp | hp | hp <;> simp [outputSample, hstate, hp]

/-- Settles O14: the six acts of a sample instant each own a part of the Media Unit, and their parts do not meet. -/
theorem sampleMovesTheMedia : Obligations.SampleMovesTheMedia := by
  intro a b pins s
  obtain ⟨-, -, -, hclock, hout⟩ := uplinksTaken_frame a.toInt b.toInt s
  refine ⟨sampleInstant a.toInt b.toInt pins s, rfl, fun p hp => ?_, fun n f hf hl => ?_, fun p n hp hn => ?_,
    fun p hp => ?_, ?_, ?_, ?_, fun n => ?_, ?_, effect_changesOnly (.sampleInstant a b pins) s⟩
  · obtain ⟨hin, hout⟩ := dc_sampleInstant a.toInt b.toInt pins p s
    obtain ⟨kin, kout⟩ := dc_dcTaken a.toInt b.toInt hp
    cases p <;> exact ⟨hin.trans kin, hout.trans kout⟩
  · rw [media_sampleInstant, builder_uplinksTaken _ _ hf hl, slotMuted_eq, State.uplinkCode, uplinkSum_eq]
    have hpart (p : Port) : (dcTaken a.toInt b.toInt s).uplinkPart n p =
        if (s.call n).attached.has p then
          ((sampleInstant a.toInt b.toInt pins s).mediaPort p).dcOut * (s.upGain p : Int) else 0 := by
      rw [(dc_sampleInstant a.toInt b.toInt pins p s).2]
      have hcc : (dcTaken a.toInt b.toInt s).cc = s.cc := by simp [dcTaken]
      have hdu : (dcTaken a.toInt b.toInt s).du = s.du := by simp [dcTaken]
      simp only [State.uplinkPart, State.upGain, call_congr hcc, param_congr hdu]
    rw [hpart, hpart]
    rfl
  · obtain ⟨u, hu, hcodec⟩ := codec_sampleInstant a.toInt b.toInt pins s p
    exact hcodec.trans (hu.inCall hp hn)
  · obtain ⟨u, hu, hcodec⟩ := codec_sampleInstant a.toInt b.toInt pins s p
    exact hcodec.trans (hu.silent hp)
  · simp [sampleInstant_eq, Clock.sample, hclock]
  · simp [sampleInstant_eq, Clock.sample, hclock]
  · simp [sampleInstant_eq, Clock.sample, hclock]
  · rw [media_sampleInstant]
    exact media_uplinksTaken _ _ n s
  · rw [sampleInstant_eq, onClock_out, out_giveSample, out_giveSample, hout]

end Sys2Proof.Machine

/-! PROOFS. What every directive's answer has in common, and O49 on it: an accepted directive that passes its checks is answered
from the state it arrives in; the answer counts its status and joins the queue of its sender, and leaves the rest of what the
directive did. -/

namespace Sys2Proof.Machine

variable {s t u : State}

/-! ## A directive answered (R203 to R205, R217) -/

/-- An accepted directive that fits its row, passes its sender's checks and is no RESET is answered with what it does. -/
theorem directive_answers {sender : Sender} {tag : Half} {r : Request} (ha : accepts sender s) (hf : r.fits = true)
    (hp : r.passes sender = true) (hr : r ≠ .reset) : directive sender tag r s =
      answerWith sender (replyCode r.code) tag (act sender tag r (arrived sender s)) := by
  rw [directive_passes sender tag r ha hf hp]
  cases r <;> first | rfl | exact absurd rfl hr

/-- A row of the table that carries such a directive. -/
theorem exec_answers {c : Instr} {sender : Sender} {tag : Half} {r : Request} (hc : requestOf c = some (sender, tag, r))
    (ha : accepts sender s) (hf : r.fits = true) (hp : r.passes sender = true) (hr : r ≠ .reset) :
    exec c s = .next (answerWith sender (replyCode r.code) tag (act sender tag r (arrived sender s))) := by
  rw [exec_eq, effect_directive hc, directive_answers ha hf hp hr]

/-- The counters of an answer but its receipt: its status, and a local reply that the FIFO did not take. -/
def statusCounters (status : Status) : List Counter :=
  [status.counter, Ctr.fifoFull .localReply, Ctr.lostLinkDown .localReply]

theorem statusCounters_subset (sender : Sender) (status : Status) : statusCounters status ⊆ answerCounters sender status :=
  List.subset_cons_self _ _

theorem offerFifo_countsOnly (kind : FifoKind) (frame : Bytes) (s : State) :
    countsOnly (offerCounters kind) s (offerFifo kind frame s) := by
  unfold offerFifo
  split
  · exact (countsOnly.refl _ s).congr (by simp)
  · split
    · exact (countsOnly.refl _ s).bump (by simp [offerCounters])
    · exact (countsOnly.refl _ s).bump (by simp [offerCounters])

theorem offerFifo_offered (kind : FifoKind) (frame : Bytes) (s : State) : offeredTo kind frame s (offerFifo kind frame s) := by
  have hfits : s.fifoTakes frame = true ↔ s.qm.homeUp = true ∧ itemBytes s.qm.fifo + frame.length ≤ Config.fifoBytes := by
    unfold State.fifoTakes
    rw [Bool.and_eq_true, decide_eq_true_eq]
    rfl
  simp only [offeredTo, ← hfits, countedIf, counted, offerFifo]
  split
  · next h =>
    obtain ⟨hup, hle⟩ := hfits.1 h
    exact ⟨rfl, ⟨by simp [hup], fun _ => counter_congr (by simp) _⟩, fun k => absurd hle k.2, fun _ => rfl⟩
  · next h =>
    split
    · next hup =>
      have hover : ¬ itemBytes s.qm.fifo + frame.length ≤ Config.fifoBytes := fun k => h (hfits.2 ⟨hup, k⟩)
      have hne : Ctr.fifoFull kind ≠ Ctr.lostLinkDown kind := by cases kind <;> decide
      exact ⟨by simp, by simp [hup, counter_bump, hne], fun _ => counter_bump_same _ _, fun k => absurd ⟨hup, hover⟩ k⟩
    · next hup =>
      have hne : Ctr.lostLinkDown kind ≠ Ctr.fifoFull kind := by cases kind <;> decide
      exact ⟨by simp, ⟨fun _ => counter_bump_same _ _, fun k => absurd (by simpa using hup) k⟩, fun k => absurd k.1 hup,
        fun _ => by rw [counter_bump, if_neg hne]⟩

theorem sendReply_countsOnly (a : Authority) (msg : Bytes) (s : State) :
    countsOnly (offerCounters .localReply) s (sendReply a msg s) := by
  cases a with
  | loc => exact offerFifo_countsOnly _ _ _
  | exch =>
    unfold sendReply
    dsimp only
    split
    · exact (countsOnly.refl _ s).congr (by simp)
    · exact .refl _ s

theorem offerCounters_subset (status : Status) : offerCounters .localReply ⊆ statusCounters status := by
  intro c hc
  simp only [offerCounters, statusCounters, List.mem_cons] at hc ⊢
  tauto

theorem answerWith_countsOnly (sender : Sender) (code : Byte) (tag : Half) (r : Answer) :
    countsOnly (statusCounters r.status) r.state (answerWith sender code tag r) :=
  ((countsOnly.refl _ _).bump (by simp [statusCounters])).trans
    ((sendReply_countsOnly _ _ _).mono (offerCounters_subset _))

theorem received_notin_statusCounters (a : Authority) (status : Status) : Ctr.received a ∉ statusCounters status := by
  cases a <;> cases status <;> decide

theorem status_notin_offer (status : Status) : status.counter ∉ offerCounters .localReply := by
  cases status <;> decide

theorem status_ne_received (a : Authority) (status : Status) : Ctr.received a ≠ status.counter := by
  cases a <;> cases status <;> decide

theorem counter_answerWith_status (sender : Sender) (code : Byte) (tag : Half) (r : Answer) :
    counted r.status.counter 1 r.state (answerWith sender code tag r) := by
  have h := sendReply_countsOnly (senderAuthority sender) (replyMsg code tag r.status r.body) (bump r.status.counter r.state)
    _ (status_notin_offer r.status)
  exact h.trans (counter_bump_same _ _)

theorem arrived_countsOnly (sender : Sender) (s : State) :
    countsOnly [Ctr.received (senderAuthority sender)] s (arrived sender s) := by
  intro c hc
  have hne : Ctr.received (senderAuthority sender) ≠ c := fun e => hc (List.mem_singleton.2 e.symm)
  rw [arrived_counters, if_neg hne]

theorem arrived_counted (sender : Sender) (s : State) : counted (Ctr.received (senderAuthority sender)) 1 s (arrived sender s) := by
  rw [counted, arrived_counters, if_pos rfl]

/-- The whole of a directive counts what its act does, and the counters of every answer. -/
theorem answered_countsOnly {cs : List Counter} {sender : Sender} {code : Byte} {tag : Half} {r : Answer}
    (h : countsOnly cs (arrived sender s) r.state) :
    countsOnly (cs ++ answerCounters sender r.status) s (answerWith sender code tag r) := by
  have harr := (arrived_countsOnly sender s).mono (ds := cs ++ answerCounters sender r.status) (by simp [answerCounters])
  have hans := (answerWith_countsOnly sender code tag r).mono (ds := cs ++ answerCounters sender r.status)
    (List.subset_append_of_subset_right _ (statusCounters_subset sender r.status))
  exact (harr.trans (h.mono (List.subset_append_left _ _))).trans hans

/-- What an answer leaves in the queues, the notices that the act gave rise to named. -/
theorem answerWith_after {sender : Sender} {code : Byte} {tag : Half} {r : Answer} {l : List FifoItem}
    (ha : accepts sender s) (hq : r.state.qm = { s.qm with fifo := s.qm.fifo ++ l })
    (hm : r.state.du.manager = (seenBy sender s.du).manager) :
    answeredAfter l sender (replyMsg code tag r.status r.body) s (answerWith sender code tag r) := by
  unfold answeredAfter
  cases sender with
  | exch =>
    have hlen : (bump r.status.counter r.state).qm.replies.length < Config.replies := by
      simp only [bump_qm, hq]
      exact ha
    have he : answerWith .exch code tag r = pushReply (replyMsg code tag r.status r.body) (bump r.status.counter r.state) :=
      if_pos hlen
    simp [he, pushReply, hq]
  | loc source =>
    have hdest : r.state.localDest = source := by simp [State.localDest, hm, seenBy]
    have hown : (answerWith (.loc source) code tag r).ownAddress = r.state.ownAddress := by
      unfold State.ownAddress
      rw [param_congr (s := r.state) (by simp)]
    have he : answerWith (.loc source) code tag r = offerFifo .localReply
        (etherFrame source r.state.ownAddress 0x9A21 (replyMsg code tag r.status r.body)) (bump r.status.counter r.state) := by
      rw [← hdest]
      rfl
    dsimp only
    rw [hown, he]
    obtain ⟨hoffer, -, -⟩ := offerFifo_offered .localReply
      (etherFrame source r.state.ownAddress 0x9A21 (replyMsg code tag r.status r.body)) (bump r.status.counter r.state)
    rw [hoffer]
    simp only [bump_qm, hq]

/-- Nothing in the queues has changed but local notices at the back of the FIFO (R177). -/
def onlyNotices (s t : State) : Prop :=
  ∃ l : List FifoItem, (∀ i ∈ l, i.kind = .localNotice) ∧ t.qm = { s.qm with fifo := s.qm.fifo ++ l }

theorem onlyNotices_of_eq (h : t.qm = s.qm) : onlyNotices s t := ⟨[], by simp [h]⟩

/-- A directive whose act puts no more than notices into the queues has been received, counted and answered. -/
theorem answerWith_replied {cs : List Counter} {sender : Sender} {code : Nat} {tag : Half} {r : Answer} (ha : accepts sender s)
    (h : onlyNotices s r.state) (hm : r.state.du.manager = (seenBy sender s.du).manager)
    (hc : countsOnly cs (arrived sender s) r.state) (hr : Ctr.received (senderAuthority sender) ∉ cs)
    (hs : r.status.counter ∉ cs) :
    Replied sender code tag r.status r.body s (answerWith sender (replyCode code) tag r) where
  countedReceived := by
    have hans := answerWith_countsOnly sender (replyCode code) tag r (Ctr.received (senderAuthority sender))
      (received_notin_statusCounters _ _)
    exact (hans.trans (hc _ hr)).trans (arrived_counted sender s)
  countedStatus := by
    have harr := arrived_countsOnly sender s r.status.counter (by simpa using (status_ne_received _ _).symm)
    have hst := counter_answerWith_status sender (replyCode code) tag r
    rw [counted, hc _ hs, harr] at hst
    exact hst
  reply := by
    obtain ⟨l, hl, hq⟩ := h
    exact ⟨l, hl, answerWith_after ha hq hm⟩

/-- A counter that only the act moves has moved by what the act did. -/
theorem counted_answerWith {c : Counter} {k : Nat} {sender : Sender} {code : Byte} {tag : Half} {r : Answer}
    (h : counted c k (arrived sender s) r.state) (hc : c ∉ answerCounters sender r.status) :
    counted c k s (answerWith sender code tag r) := by
  have hans := answerWith_countsOnly sender code tag r c fun hm => hc (statusCounters_subset sender r.status hm)
  have harr := arrived_countsOnly sender s c fun hm => hc (by simpa [answerCounters] using Or.inl (List.mem_singleton.1 hm))
  rw [counted, hans, h, harr]

theorem countedIf_answerWith {p : Prop} {c : Counter} {k : Nat} {sender : Sender} {code : Byte} {tag : Half} {r : Answer}
    (h : countedIf p c k (arrived sender s) r.state) (hc : c ∉ answerCounters sender r.status) :
    countedIf p c k s (answerWith sender code tag r) := by
  have hans := answerWith_countsOnly sender code tag r c fun hm => hc (statusCounters_subset sender r.status hm)
  have harr := arrived_countsOnly sender s c fun hm => hc (by simpa [answerCounters] using Or.inl (List.mem_singleton.1 hm))
  simpa only [countedIf, counted, hans, harr] using h

/-- What the receipt and the answer leave of a piece that neither touches. -/
theorem answered_changesOnly {bs : List Block} {sender : Sender} {code : Byte} {tag : Half} {r : Answer}
    (hb : [Block.directives, .queues, .counters] ⊆ bs) (h : changesOnly bs (arrived sender s) r.state) :
    changesOnly bs s (answerWith sender code tag r) := by
  have harr : changesOnly [.directives, .queues, .counters] s (arrived sender s) := by simp [changesOnly_iff]
  have hans : changesOnly [.directives, .queues, .counters] r.state (answerWith sender code tag r) := by
    simp [changesOnly_iff]
  exact ((harr.mono hb).trans h).trans (hans.mono hb)

/-- A directive whose act leaves the state as it arrived is only answered. -/
theorem answerWith_onlyAnswered {sender : Sender} {code : Nat} {tag : Half} {r : Answer} (ha : accepts sender s)
    (h : r.state = arrived sender s) :
    onlyAnswered sender code tag r.status r.body s (answerWith sender (replyCode code) tag r) := by
  have hcounts : countsOnly [] (arrived sender s) r.state := h ▸ .refl _ _
  refine ⟨answered_changesOnly (List.Subset.refl _) (h ▸ .refl _ _), by simp [h], answered_countsOnly hcounts,
    answerWith_replied ha (onlyNotices_of_eq (by simp [h])) (by simp [h]) hcounts (by simp) (by simp), ?_⟩
  exact answerWith_after ha (by simp [h]) (by simp [h])

/-- A row refused, or done with no effect of its own. -/
theorem exec_onlyAnswered {c : Instr} {sender : Sender} {tag : Half} {r : Request} {status : Status} {body : Bytes}
    (hc : requestOf c = some (sender, tag, r)) (ha : accepts sender s) (hf : r.fits = true) (hp : r.passes sender = true)
    (hr : r ≠ .reset)
    (hact : act sender tag r (arrived sender s) = { state := arrived sender s, status := status, body := body }) :
    ∃ t, exec c s = .next t ∧ onlyAnswered sender r.code tag status body s t := by
  refine ⟨_, exec_answers hc ha hf hp hr, ?_⟩
  rw [hact]
  exact answerWith_onlyAnswered (r := { state := arrived sender s, status := status, body := body }) ha rfl

/-- A number clamped, the lower end of the range taken last. -/
theorem clamp_eq {lo hi : Nat} (h : lo ≤ hi) (n : Nat) : clamp lo hi n = max lo (min n hi) := by
  unfold clamp
  omega

/-! ## Reads (R209, R210, R214) -/

theorem tableRange_of_mem {n lo hi : Nat} (h : (n, lo, hi) ∈
    [(1, 0, 7), (2, 0, 7), (3, 0, 31), (4, 0, 3), (5, 1, 20), (6, 0, 1), (7, 0, 59), (8, 0, 175)]) :
    tableRange n = (lo, hi) ∧ 1 ≤ n ∧ n ≤ 8 := by
  simp only [List.mem_cons, Prod.mk.injEq, List.not_mem_nil, or_false] at h
  obtain ⟨rfl, rfl, rfl⟩ | ⟨rfl, rfl, rfl⟩ | ⟨rfl, rfl, rfl⟩ | ⟨rfl, rfl, rfl⟩ | ⟨rfl, rfl, rfl⟩ | ⟨rfl, rfl, rfl⟩ |
    ⟨rfl, rfl, rfl⟩ | ⟨rfl, rfl, rfl⟩ := h <;> exact ⟨rfl, by omega, by omega⟩

theorem readTableAct_refused {table first count : Byte} {lo hi : Nat} (hr : tableRange table.toNat = (lo, hi))
    (h : first.toNat < lo ∨ hi < first.toNat) : readTableAct table first count s = refuse .badIndex s := by
  simp only [readTableAct, hr]
  exact if_pos h

theorem readTableAct_done {table first count : Byte} {lo hi : Nat} (hr : tableRange table.toNat = (lo, hi))
    (h : ¬ (first.toNat < lo ∨ hi < first.toNat)) : readTableAct table first count s =
      doneWith ([table, first, byteOf (min (clamp 1 8 count.toNat) (hi + 1 - first.toNat))] ++
        (List.range (min (clamp 1 8 count.toNat) (hi + 1 - first.toNat))).flatMap fun i =>
          s.entryBytes table.toNat (first.toNat + i)) s := by
  simp only [readTableAct, hr]
  exact if_neg h

/-- Settles O49: a read is acted on in the state it arrives in and leaves that state. -/
theorem readsAnswerFromTheState : Obligations.ReadsAnswerFromTheState := by
  intro sender tag s ha
  refine ⟨fun table first count lo hi hmem => ?_, exec_onlyAnswered (r := .readStatus) rfl ha rfl rfl (by simp) rfl, fun ident => ?_⟩
  · obtain ⟨hr, hlo, hhi⟩ := tableRange_of_mem hmem
    have hp : (Request.readTable table first count).passes sender = true := by simp [Request.passes, hlo, hhi]
    refine ⟨fun h => ?_, fun h => ?_⟩
    · exact exec_onlyAnswered (r := .readTable table first count) rfl ha rfl hp (by simp)
        ((readTableAct_done hr (by omega)).trans (by rw [clamp_eq (by decide)]; rfl))
    · exact exec_onlyAnswered rfl ha rfl hp (by simp) (readTableAct_refused hr h)
  · have hact : act sender tag (.readParam ident) (arrived sender s) = readParamAct ident (arrived sender s) := rfl
    cases hp : Param.ofIdent ident.toNat with
    | none => exact exec_onlyAnswered (r := .readParam ident) rfl ha rfl rfl (by simp) (by simp [hact, readParamAct, hp, refuse])
    | some p => exact exec_onlyAnswered (r := .readParam ident) rfl ha rfl rfl (by simp) (by simp [hact, readParamAct, hp, doneWith])

end Sys2Proof.Machine

/-! PROOFS. The table writes, O50 and O51: the codes of a written entry, the entry as it is stored, and the write as an answered
directive whose act touches its table and the count of clamped values. -/

namespace Sys2Proof.Machine

variable {s t u : State}

/-! ## A directive done -/

theorem done_replied {cs : List Counter} {sender : Sender} {code : Nat} {tag : Half} {body : Bytes} (ha : accepts sender s)
    (h : onlyNotices s u) (hm : u.du.manager = (seenBy sender s.du).manager) (hc : countsOnly cs (arrived sender s) u)
    (hr : Ctr.received (senderAuthority sender) ∉ cs) (hs : Ctr.repliesDone ∉ cs) :
    Replied sender code tag .done body s (answerWith sender (replyCode code) tag (doneWith body u)) :=
  answerWith_replied (r := doneWith body u) ha h hm hc hr hs

theorem countClamp_countsOnly (b : Bool) (s : State) : countsOnly [Ctr.paramsClamped] s (countClamp b s) :=
  (countsOnly.refl _ s).whenever fun v => (countsOnly.refl _ v).bump (List.mem_singleton_self _)

theorem countClamp_counted (b : Bool) (s : State) : countedIf (b = true) Ctr.paramsClamped 1 s (countClamp b s) := by
  cases b with
  | true => exact ⟨fun _ => counter_bump_same s _, fun h => absurd rfl h⟩
  | false => exact ⟨fun h => (Bool.false_ne_true h).elim, fun _ => rfl⟩

theorem countedIf_congr {p q : Prop} {c : Counter} {k : Nat} (h : p ↔ q) : countedIf p c k s t ↔ countedIf q c k s t := by
  rw [propext h]

theorem received_ne_paramsClamped (a : Authority) : Ctr.received a ∉ [Ctr.paramsClamped] := by
  cases a <;> decide

theorem paramsClamped_notin (sender : Sender) : Ctr.paramsClamped ∉ answerCounters sender .done := by
  unfold answerCounters
  generalize senderAuthority sender = a
  cases a <;> decide

/-- A write done: `v` is the state with the entry stored, and the count of clamped values is its only counter. -/
theorem clamped_replied {sender : Sender} {code : Nat} {tag : Half} {body : Bytes} {b : Bool} (ha : accepts sender s)
    (h : onlyNotices s u) (hm : u.du.manager = (seenBy sender s.du).manager)
    (hc : u.counters = (arrived sender s).counters) :
    Replied sender code tag .done body s (answerWith sender (replyCode code) tag (doneWith body (countClamp b u))) := by
  have hq : onlyNotices s (countClamp b u) := by simpa [onlyNotices] using h
  have hn := ((countsOnly.refl [Ctr.paramsClamped] (arrived sender s)).congr hc).trans (countClamp_countsOnly b u)
  exact done_replied ha hq (by simpa using hm) hn (received_ne_paramsClamped _) (by decide)

theorem clamped_countsOnly {sender : Sender} {code : Byte} {tag : Half} {body : Bytes} {b : Bool}
    (hc : u.counters = (arrived sender s).counters) :
    countsOnly (Ctr.paramsClamped :: answerCounters sender .done) s
      (answerWith sender code tag (doneWith body (countClamp b u))) :=
  answered_countsOnly (r := doneWith body (countClamp b u))
    (((countsOnly.refl [Ctr.paramsClamped] (arrived sender s)).congr hc).trans (countClamp_countsOnly b u))

theorem clamped_counted {sender : Sender} {code : Byte} {tag : Half} {body : Bytes} {b : Bool} {p : Prop} (hp : b = true ↔ p)
    (hc : u.counters = (arrived sender s).counters) :
    countedIf p Ctr.paramsClamped 1 s (answerWith sender code tag (doneWith body (countClamp b u))) := by
  have h : countedIf p Ctr.paramsClamped 1 (arrived sender s) (countClamp b u) := by
    have hb := (countedIf_congr hp).1 (countClamp_counted b u)
    simpa only [countedIf, counted, counter_congr hc] using hb
  exact countedIf_answerWith (r := doneWith body (countClamp b u)) h (paramsClamped_notin sender)

/-! ## Codes of a written entry (section 11.5) -/

theorem flagOf_code {b : Byte} (h : b = 0 ∨ b = 1) : flagOf b = some (b == 1) := by
  rcases h with rfl | rfl <;> rfl

theorem flagOf_none {b : Byte} (h0 : b ≠ 0) (h1 : b ≠ 1) : flagOf b = none := by
  exact (if_neg h0).trans (if_neg h1)

theorem byte_le_two {b : Byte} : b.toNat ≤ 2 ↔ b = 0 ∨ b = 1 ∨ b = 2 := by
  rw [← BitVec.toNat_inj, ← BitVec.toNat_inj, ← BitVec.toNat_inj]
  simp
  omega

theorem sizeOf_code {b : Byte} (h : b.toNat ≤ 2) :
    sizeOf b = some (if b = 0 then .b32 else if b = 1 then .b64 else .b128) := by
  rcases byte_le_two.1 h with rfl | rfl | rfl <;> rfl

theorem sizeOf_none {b : Byte} (h : ¬ b.toNat ≤ 2) : sizeOf b = none := by
  rw [byte_le_two, not_or, not_or] at h
  obtain ⟨h0, h1, h2⟩ := h
  exact (if_neg h0).trans ((if_neg h1).trans (if_neg h2))

theorem fin_ofNat {m n : Nat} [NeZero m] (h : n < m) : Fin.ofNat m n = ⟨n, h⟩ := Fin.ext (Nat.mod_eq_of_lt h)

/-! ## The Profile Table (R24) -/

theorem writeProfileAct_badIndex {index : Byte} (e : ProfileImage) (h : 8 ≤ index.toNat) :
    writeProfileAct index e s = refuse .badIndex s := dif_neg (by omega)

theorem writeProfileAct_badValue {index : Byte} {e : ProfileImage} (hi : index.toNat < 8)
    (h : ¬ ((e.valid = 0 ∨ e.valid = 1) ∧ e.blockSize.toNat ≤ 2)) : writeProfileAct index e s = refuse .badValue s := by
  simp only [writeProfileAct, dif_pos hi]
  by_cases hv : e.valid = 0 ∨ e.valid = 1
  · rw [flagOf_code hv, sizeOf_none fun k => h ⟨hv, k⟩]
  · rw [not_or] at hv
    rw [flagOf_none hv.1 hv.2]

/-- A rung as a write of the Profile Table stores it (R24). -/
def storedRung (e : ProfileImage) : Rung :=
  rungOf (e.valid == 1) (if e.blockSize = 0 then .b32 else if e.blockSize = 1 then .b64 else .b128) e

theorem writeProfileAct_codes {index : Byte} {e : ProfileImage} (hi : index.toNat < 8) (hv : e.valid = 0 ∨ e.valid = 1)
    (hb : e.blockSize.toNat ≤ 2) : writeProfileAct index e s =
      if s.ls.link.isTraining ∧ (⟨index.toNat, hi⟩ : Fin 8) = s.ls.rung then refuse .busy s
      else if !(e.valid == 1) ∧ s.onlyValid ⟨index.toNat, hi⟩ then refuse .badValue s
      else doneWith ([1, index] ++ (storedRung e).bytes) (countClamp (rungDiffers (storedRung e) e)
        (onLs (fun l => { l with profile := vset l.profile ⟨index.toNat, hi⟩ (storedRung e) }) s)) := by
  simp only [writeProfileAct, dif_pos hi, flagOf_code hv, sizeOf_code hb]
  rfl

theorem isTraining_iff (l : LinkState) : l.isTraining = true ↔ l = .training ∨ l = .retraining := by
  cases l <;> decide

/-- The one valid rung of a ladder (R24). -/
theorem onlyValid_iff (i : Fin 8) : s.onlyValid i = true ↔
    (vget s.ls.profile i).valid = true ∧ ∀ j : Fin 8, j = i ∨ (vget s.ls.profile j).valid = false := by
  have hall (j : Fin 8) : j ∈ rungList := by
    revert j
    decide
  simp [State.onlyValid, State.rungValid, List.all_eq_true, hall]

theorem clampInt_eq {lo hi : Int} (h : lo ≤ hi) (n : Int) : clampInt lo hi n = max lo (min n hi) := by
  unfold clampInt
  omega

theorem storedRung_eq (e : ProfileImage) : storedRung e =
    { valid := e.valid == 1, cap := max 32 (min e.rateCap.toNat 16383),
      size := if e.blockSize = 0 then .b32 else if e.blockSize = 1 then .b64 else .b128,
      eff := max 256 (min e.efficiency.toNat 512), minMargin := max (-100) (min e.minMargin.toInt 300) } := by
  simp only [storedRung, rungOf, clamp_eq (show 32 ≤ 16383 by decide), clamp_eq (show 256 ≤ 512 by decide),
    clampInt_eq (show (-100 : Int) ≤ 300 by decide)]

theorem rungDiffers_iff (r : Rung) (e : ProfileImage) : rungDiffers r e = true ↔
    r.cap ≠ e.rateCap.toNat ∨ r.eff ≠ e.efficiency.toNat ∨ r.minMargin ≠ e.minMargin.toInt := by
  simp [rungDiffers, or_assoc]

/-! ## The Cadence Table (R114) -/

theorem writeCadenceAct_badIndex {index : Byte} (d : List Half) (rep : Byte) (h : 8 ≤ index.toNat) :
    writeCadenceAct index d rep s = refuse .badIndex s := dif_neg (by omega)

theorem writeCadenceAct_badValue {index rep : Byte} (d : List Half) (hi : index.toNat < 8) (h0 : rep ≠ 0) (h1 : rep ≠ 1) :
    writeCadenceAct index d rep s = refuse .badValue s := by
  simp only [writeCadenceAct, dif_pos hi, flagOf_none h0 h1]

theorem writeCadenceAct_done {index rep : Byte} (d : List Half) (hi : index.toNat < 8) (h : rep = 0 ∨ rep = 1) :
    writeCadenceAct index d rep s = doneWith ([2, index] ++ (cadenceFrom d (rep == 1)).bytes)
      (countClamp (d.any fun x => 800 < x.toNat)
        (onPpu (fun v => { v with cadences := vset v.cadences ⟨index.toNat, hi⟩ (cadenceFrom d (rep == 1)) }) s)) := by
  simp only [writeCadenceAct, dif_pos hi, flagOf_code h]

theorem cadenceFrom_durations (d : List Half) (rep : Bool) : (cadenceFrom d rep).durations =
    Vector.ofFn fun i : Fin 8 => (d.map fun x => min x.toNat 800).getD i.val 0 := by
  refine congrArg Vector.ofFn (funext fun i => ?_)
  simp only [List.getD_eq_getElem?_getD, List.getElem?_map]
  cases d[i.val]? <;> rfl

theorem cadenceFrom_bytes {d : List Half} (h : d.length = 8) {rep : Byte} (hr : rep = 0 ∨ rep = 1) :
    (cadenceFrom d (rep == 1)).bytes = (d.map fun x => min x.toNat 800).flatMap be16 ++ [rep] := by
  have hlist : (Vector.ofFn fun i : Fin 8 => (d.map fun x => min x.toNat 800).getD i.val 0).toList =
      d.map fun x => min x.toNat 800 := by
    refine List.ext_getElem (by simp [h]) fun i h1 h2 => ?_
    simp only [Vector.toList_ofFn, List.getElem_ofFn, List.getD_eq_getElem?_getD, List.getElem?_eq_getElem h2,
      Option.getD_some]
  have hrep : byteBool (rep == 1) = rep := by rcases hr with rfl | rfl <;> rfl
  rw [Cadence.bytes, cadenceFrom_durations, hlist]
  exact congrArg (fun b => _ ++ [b]) hrep

/-- Settles O50: a write is checked by its index, its codes and its state, then stored. -/
theorem exchangeWritesReplaceEntries : Obligations.ExchangeWritesReplaceEntries := by
  intro tag index s ha
  refine ⟨fun e => ?_, fun d rep hd => ?_⟩
  · have hp : (Request.writeProfile index e).passes .exch = true := rfl
    have hans {status : Status} {body : Bytes} (h : writeProfileAct index e (arrived .exch s) =
        { state := arrived .exch s, status := status, body := body }) :=
      exec_onlyAnswered (c := .writeTableProfile .exch tag index e) rfl ha rfl hp (by simp) h
    have hlast (hi : index.toNat < 8) (hv : e.valid = 0 ∨ e.valid = 1) :
        (!(e.valid == 1) ∧ (arrived .exch s).onlyValid ⟨index.toNat, hi⟩ = true) ↔
          (vget s.ls.profile (Fin.ofNat 8 index.toNat)).valid = true ∧ e.valid = 0 ∧
            ∀ j : Fin 8, j.val = index.toNat ∨ (vget s.ls.profile j).valid = false := by
      have hv0 : (!(e.valid == 1)) = true ↔ e.valid = 0 := by rcases hv with hv | hv <;> simp [hv]
      simp only [hv0, onlyValid_iff, fin_ofNat hi, Fin.ext_iff, arrived_frame]
      tauto
    have hbusy (hi : index.toNat < 8) : ((arrived .exch s).ls.link.isTraining = true ∧
        (⟨index.toNat, hi⟩ : Fin 8) = (arrived .exch s).ls.rung) ↔
          (s.ls.link = .training ∨ s.ls.link = .retraining) ∧ index.toNat = s.ls.rung.val := by
      simp [isTraining_iff, Fin.ext_iff]
    refine ⟨fun h => hans (writeProfileAct_badIndex e h), fun hi h => hans (writeProfileAct_badValue hi h),
      fun hi ⟨hv, hb⟩ hy _ => hans ?_, fun hi ⟨hv, hb⟩ hy hw hl => hans ?_, fun hi ⟨hv, hb⟩ hy hl => ?_⟩
    · rw [writeProfileAct_codes hi hv hb, if_pos ((hbusy hi).2 hy)]
      rfl
    · rw [writeProfileAct_codes hi hv hb, if_neg fun k => hy ((hbusy hi).1 k), if_pos ((hlast hi hv).2 ⟨hw, hl⟩)]
      rfl
    · refine ⟨_, exec_answers rfl ha rfl hp (by simp), ?_⟩
      have hact : act .exch tag (.writeProfile index e) (arrived .exch s) = _ :=
        (writeProfileAct_codes hi hv hb).trans ((if_neg fun k => hy ((hbusy hi).1 k)).trans
          (if_neg fun k => hl ((hlast hi hv).1 k).2))
      rw [hact, ← storedRung_eq, fin_ofNat hi]
      refine ⟨by simp [doneWith], clamped_replied ha (onlyNotices_of_eq (by simp)) (by simp) (by simp),
        clamped_counted (rungDiffers_iff _ _) (by simp), ?_, clamped_countsOnly (by simp)⟩
      simp [changesOnly_iff, doneWith, seenBy]
  · have hf : (Request.writeCadence index d rep).fits = true := by simp [Request.fits, hd]
    have hp : (Request.writeCadence index d rep).passes .exch = true := rfl
    refine ⟨fun h => exec_onlyAnswered rfl ha hf hp (by simp) (writeCadenceAct_badIndex d rep h),
      fun hi h0 h1 => exec_onlyAnswered rfl ha hf hp (by simp) (writeCadenceAct_badValue d hi h0 h1), fun hi hr => ?_⟩
    refine ⟨_, exec_answers rfl ha hf hp (by simp), ?_⟩
    have hact : act .exch tag (.writeCadence index d rep) (arrived .exch s) = _ := writeCadenceAct_done d hi hr
    rw [hact]
    refine ⟨by simp [doneWith], fun j => ?_, ?_, clamped_counted (by simp) (by simp), ?_, clamped_countsOnly (by simp)⟩
    · rw [← cadenceFrom_durations d (rep == 1)]
      have hj : (⟨index.toNat, hi⟩ : Fin 8) = j ↔ j.val = index.toNat := by
        rw [Fin.ext_iff]
        exact eq_comm
      simp only [doneWith, answerWith_frame, countClamp_frame, onPpu_ppu, arrived_frame, vget_vset, hj]
      rfl
    · rw [List.append_assoc, ← cadenceFrom_bytes hd hr]
      exact clamped_replied ha (onlyNotices_of_eq (by simp)) (by simp) (by simp)
    · simp [changesOnly_iff, doneWith, seenBy]

/-! ## The Match Table and the Answer Table (R81, R191) -/

theorem testBit_eq (b : Byte) (i : Nat) : b.getLsbD i = (b.toNat / 2 ^ i % 2 == 1) := by
  rw [BitVec.getLsbD, Nat.testBit_eq_decide_div_mod_eq]
  rfl

theorem answerOf_code {n : Nat} (h : n < 4 ∨ n = 7) :
    answerOf n = some (if n < 4 then some (Fin.ofNat 4 n) else none) := by
  unfold answerOf
  rcases h with h | rfl
  · rw [dif_pos h, if_pos h, fin_ofNat h]
  · rfl

theorem answerOf_none {n : Nat} (h : ¬ (n < 4 ∨ n = 7)) : answerOf n = none := by
  rw [not_or] at h
  exact (dif_neg h.1).trans (if_neg h.2)

theorem matchFrom_none {e : MatchImage} (h : ¬ (directionOf (e.codes.toNat / 64) ≠ none ∧
    classOf (e.codes.toNat / 16 % 4) ≠ none ∧ (e.codes.toNat % 8 < 4 ∨ e.codes.toNat % 8 = 7))) : matchFrom e = none := by
  simp only [matchFrom]
  split
  · next hd hc ha =>
    refine absurd ⟨by simp [hd], by simp [hc], ?_⟩ h
    by_contra hr
    rw [answerOf_none hr] at ha
    cases ha
  · rfl

/-- A Match entry as a write stores it (R81). -/
def storedMatch (e : MatchImage) : MatchEntry :=
  { valid := e.flags.getLsbD 0, wake := e.flags.getLsbD 1, forward := e.flags.getLsbD 2, dscpAny := e.flags.getLsbD 3,
    dir := directionOf (e.codes.toNat / 64), cls := classOf (e.codes.toNat / 16 % 4),
    answer := if e.codes.toNat % 8 < 4 then some (Fin.ofNat 4 (e.codes.toNat % 8)) else none, dest := e.dest, src := e.src,
    typeValue := e.typeValue, protocol := e.protocol, dscp := min e.dscp.toNat 63, ip := e.ip, low := e.low.toNat,
    high := e.high.toNat, hits := 0 }

theorem matchFrom_codes {e : MatchImage} (hd : directionOf (e.codes.toNat / 64) ≠ none)
    (hc : classOf (e.codes.toNat / 16 % 4) ≠ none) (hr : e.codes.toNat % 8 < 4 ∨ e.codes.toNat % 8 = 7) :
    matchFrom e = some (storedMatch e) := by
  obtain ⟨d, hd⟩ := Option.ne_none_iff_exists'.1 hd
  obtain ⟨c, hc⟩ := Option.ne_none_iff_exists'.1 hc
  simp only [matchFrom, storedMatch, hd, hc, answerOf_code hr, testBit_eq]
  simp

theorem writeMatchAct_badIndex {index : Byte} (e : MatchImage) (h : 32 ≤ index.toNat) :
    writeMatchAct index e s = refuse .badIndex s := dif_neg (by omega)

theorem writeMatchAct_badValue {index : Byte} {e : MatchImage} (hi : index.toNat < 32) (h : matchFrom e = none) :
    writeMatchAct index e s = refuse .badValue s := by
  simp only [writeMatchAct, dif_pos hi, h]

theorem writeMatchAct_done {index : Byte} {e : MatchImage} {m : MatchEntry} (hi : index.toNat < 32) (h : matchFrom e = some m) :
    writeMatchAct index e s = doneWith ([3, index] ++ m.bytes) (countClamp (63 < e.dscp.toNat)
      (onMe (fun v => { v with table := vset v.table ⟨index.toNat, hi⟩ m }) s)) := by
  simp only [writeMatchAct, dif_pos hi, h]

theorem writeAnswerAct_badIndex {index : Byte} (valid : Byte) (hw : Mac) (ip : Ip) (h : 4 ≤ index.toNat) :
    writeAnswerAct index valid hw ip s = refuse .badIndex s := dif_neg (by omega)

theorem writeAnswerAct_badValue {index valid : Byte} (hw : Mac) (ip : Ip) (hi : index.toNat < 4) (h0 : valid ≠ 0)
    (h1 : valid ≠ 1) : writeAnswerAct index valid hw ip s = refuse .badValue s := by
  simp only [writeAnswerAct, dif_pos hi, flagOf_none h0 h1]

theorem writeAnswerAct_done {index valid : Byte} (hw : Mac) (ip : Ip) (hi : index.toNat < 4) (hv : valid = 0 ∨ valid = 1) :
    writeAnswerAct index valid hw ip s = doneWith ([4, index, valid] ++ be48 hw.toNat ++ be32 ip.toNat)
      (onMe (fun v => { v with answers := vset v.answers ⟨index.toNat, hi⟩ { valid := valid == 1, hw := hw, ip := ip } }) s) := by
  have hb : byteBool (valid == 1) = valid := by rcases hv with rfl | rfl <;> rfl
  simp only [writeAnswerAct, dif_pos hi, flagOf_code hv, AnswerRecord.bytes, hb]
  rfl

/-- Settles O51: as for the exchange's tables, index and codes first, then the entry stored whole. -/
theorem localWritesReplaceEntries : Obligations.LocalWritesReplaceEntries := by
  intro source tag index s
  have ha : accepts (.loc source) s := trivial
  refine ⟨fun e => ?_, fun valid hw ip => ?_⟩
  · have hans {status : Status} {body : Bytes} (h : writeMatchAct index e (arrived (.loc source) s) =
        { state := arrived (.loc source) s, status := status, body := body }) :=
      exec_onlyAnswered (c := .writeTableMatch (.loc source) tag index e) rfl ha rfl rfl (by simp) h
    refine ⟨fun h => hans (writeMatchAct_badIndex e h), fun hi h => hans (writeMatchAct_badValue hi (matchFrom_none h)),
      fun hi ⟨hd, hc, hr⟩ => ⟨_, exec_answers rfl ha rfl rfl (by simp), ?_⟩⟩
    have hact : act (.loc source) tag (.writeMatch index e) (arrived (.loc source) s) = _ :=
      writeMatchAct_done hi (matchFrom_codes hd hc hr)
    rw [hact, fin_ofNat hi]
    exact ⟨by simp [doneWith, storedMatch], by simp [doneWith],
      clamped_replied ha (onlyNotices_of_eq (by simp)) (by simp) (by simp), clamped_counted (by simp) (by simp),
      by simp [changesOnly_iff, doneWith], clamped_countsOnly (by simp)⟩
  · have hans {status : Status} {body : Bytes} (h : writeAnswerAct index valid hw ip (arrived (.loc source) s) =
        { state := arrived (.loc source) s, status := status, body := body }) :=
      exec_onlyAnswered (c := .writeTableAnswer (.loc source) tag index valid hw ip) rfl ha rfl rfl (by simp) h
    refine ⟨fun h => hans (writeAnswerAct_badIndex valid hw ip h), fun hi h0 h1 => hans (writeAnswerAct_badValue hw ip hi h0 h1),
      fun hi hv => ⟨_, exec_answers rfl ha rfl rfl (by simp), ?_⟩⟩
    have hact : act (.loc source) tag (.writeAnswer index valid hw ip) (arrived (.loc source) s) = _ :=
      writeAnswerAct_done hw ip hi hv
    have hcounts : countsOnly [] (arrived (.loc source) s) (act (.loc source) tag (.writeAnswer index valid hw ip)
        (arrived (.loc source) s)).state := hact ▸ (countsOnly.refl _ _).congr (by simp [doneWith])
    rw [hact] at hcounts ⊢
    rw [fin_ofNat hi]
    exact ⟨by simp [doneWith], by simp [doneWith],
      done_replied ha (onlyNotices_of_eq (by simp)) (by simp) hcounts (by simp) (by simp),
      by simp [changesOnly_iff, doneWith], answered_countsOnly hcounts⟩

end Sys2Proof.Machine

/-! PROOFS. O52: the writer's level of a kind with its pending item, and the requester's latch. -/

namespace Sys2Proof.Machine

variable {s t u : State}

/-! ## A frame cut short (R10) -/

theorem chan_cutShort (c d : Chan) (removed : Source → Bool) (s : State) : (cutShort c removed s).chan d =
    if d = c ∧ ((s.chan c).seg.any fun sd => removed sd.source) = true then { s.chan c with seg := none } else s.chan d := by
  unfold cutShort
  cases hs : (s.chan c).seg with
  | none => simp
  | some sd =>
    cases hr : removed sd.source with
    | false => simp [hr]
    | true =>
      have hd : c = d ↔ d = c := eq_comm
      simp only [hr, if_true, Option.any_some, and_true]
      rw [chan_congr (bump_bf _ _), dropSeg, chan_onChan]
      simp only [hd]

theorem loopStore_cutShort (c : Chan) (removed : Source → Bool) (s : State) :
    (cutShort c removed s).bf.loopStore = s.bf.loopStore := by
  unfold cutShort
  (repeat' split) <;> rfl

theorem cutShort_counted (c : Chan) (removed : Source → Bool) (s : State) :
    countedIf (((s.chan c).seg.any fun sd => removed sd.source) = true) Ctr.framesCutShort 1 s (cutShort c removed s) := by
  unfold cutShort
  cases hs : (s.chan c).seg with
  | none => exact ⟨fun h => absurd h (by simp), fun _ => rfl⟩
  | some sd =>
    cases hr : removed sd.source with
    | false => exact ⟨fun h => absurd h (by simp [hr]), fun _ => by simp [hr]⟩
    | true =>
      simp only [hr, if_true]
      exact ⟨fun _ => counter_bump_same (dropSeg c s) Ctr.framesCutShort, fun h => absurd (by simp [hr]) h⟩

theorem cutShort_countsOnly (c : Chan) (removed : Source → Bool) (s : State) :
    countsOnly [Ctr.framesCutShort] s (cutShort c removed s) := by
  unfold cutShort
  split
  · split
    · exact ((countsOnly.refl _ s).congr (by simp [dropSeg])).bump (List.mem_singleton_self _)
    · exact .refl _ s
  · exact .refl _ s

/-! ## A level written (R172) -/

/-- The pending list of an authority. -/
def State.pendingOf (s : State) : Authority → List PendingItem
  | .loc => s.fu.locList
  | .exch => s.fu.exchList

/-- The Fault Unit with the pending list of an authority replaced. -/
def FaultUnit.withPending (v : FaultUnit) (a : Authority) (l : List PendingItem) : FaultUnit :=
  match a with
  | .loc => { v with locList := l }
  | .exch => { v with exchList := l }

theorem removeKind_absent {k : FaultKind} {l : List PendingItem} (h : holdsKind k l = false) : removeKind k l = l := by
  refine List.filter_eq_self.2 fun i hi => ?_
  have hne : ¬ ∃ i ∈ l, i.kind = k := by
    rw [← holdsKind_iff, h]
    exact Bool.false_ne_true
  simpa using fun e => hne ⟨i, hi, e⟩

theorem fu_removeItem (a : Authority) (k : FaultKind) (s : State) :
    (removeItem a k s).fu = s.fu.withPending a (removeKind k (s.pendingOf a)) := by
  cases a with
  | loc =>
    cases h : holdsKind k s.fu.locList with
    | false => simp [removeItem, h, whenever, FaultUnit.withPending, State.pendingOf, removeKind_absent]
    | true => simp [removeItem, h, whenever, onList, FaultUnit.withPending, State.pendingOf]
  | exch =>
    cases h : holdsKind k s.fu.exchList with
    | false => simp [removeItem, h, whenever, FaultUnit.withPending, State.pendingOf, removeKind_absent]
    | true => simp [removeItem, h, whenever, onList, FaultUnit.withPending, State.pendingOf]

theorem bf_onList (a : Authority) (f : List PendingItem → List PendingItem) (s : State) : (onList a f s).bf = s.bf := by
  simp

theorem chan_removeItem (a : Authority) (k : FaultKind) {ch : Chan} (h : ch ≠ 15) (s : State) :
    (removeItem a k s).chan ch = s.chan ch := by
  cases a with
  | loc => exact chan_congr (by simp [removeItem, whenever]; split <;> simp) ch
  | exch =>
    simp only [removeItem, whenever]
    split
    · rw [chan_congr (bump_bf _ _), chan_congr (bf_onList _ _ _), chan_cutShort, if_neg fun e => h e.1]
    · rfl

theorem onList_countsOnly (cs : List Counter) (a : Authority) (f : List PendingItem → List PendingItem) (s : State) :
    countsOnly cs s (onList a f s) := (countsOnly.refl _ s).congr (by simp)

theorem removeItem_countsOnly (a : Authority) (k : FaultKind) (s : State) :
    countsOnly [Ctr.framesCutShort, Ctr.itemsRemoved] s (removeItem a k s) := by
  cases a with
  | loc => exact (countsOnly.refl _ s).whenever fun v => ((countsOnly.refl _ v).congr (by simp)).bump (by simp)
  | exch =>
    refine (countsOnly.refl _ s).whenever fun v => .bump ?_ (by simp)
    exact ((cutShort_countsOnly _ _ v).mono (by simp)).trans (onList_countsOnly _ _ _ _)

/-- The writer's level of a kind set, a level of 0 taking the pending item with it (R172). -/
def levelStored (a : Authority) (k : FaultKind) (n : Nat) (s : State) : State :=
  s |> setRec k ((s.fault k).withLevel a n) |> whenever (n == 0) (removeItem a k)

theorem writeFaultAct_done {a : Authority} {index level : Byte} {k : FaultKind} (h : FaultKind.ofNumber index.toNat = some k) :
    writeFaultAct a index level s =
      doneWith ([5, index] ++ faultBytes k ((s.fault k).withLevel a (clamp (k.levelRule a).2.1 (k.levelRule a).2.2 level.toNat)))
        (countClamp (clamp (k.levelRule a).2.1 (k.levelRule a).2.2 level.toNat != level.toNat)
          (levelStored a k (clamp (k.levelRule a).2.1 (k.levelRule a).2.2 level.toNat) s)) := by
  simp only [writeFaultAct, h]
  rfl

theorem fault_levelStored (a : Authority) (k j : FaultKind) (n : Nat) (s : State) :
    (levelStored a k n s).fault j = if k = j then (s.fault k).withLevel a n else s.fault j := by
  have hremove (v : State) : (removeItem a k v).fault j = v.fault j := by
    rw [State.fault, fu_removeItem]
    cases a <;> rfl
  simp only [levelStored, whenever]
  split <;> simp only [hremove, fault_setRec]

theorem pendingOf_levelStored (a : Authority) (k : FaultKind) (n : Nat) (s : State) :
    (levelStored a k n s).pendingOf a = if n = 0 then (s.pendingOf a).filter (fun i => i.kind != k) else s.pendingOf a := by
  by_cases hn : n = 0 <;> cases a <;>
    simp [levelStored, whenever, hn, State.pendingOf, fu_removeItem, FaultUnit.withPending, removeKind]

theorem fu_levelStored (a : Authority) (k : FaultKind) (n : Nat) (s : State) : (levelStored a k n s).fu =
    { s.fu with records := (levelStored a k n s).fu.records }.withPending a ((levelStored a k n s).pendingOf a) := by
  by_cases hn : n = 0 <;> cases a <;>
    simp [levelStored, whenever, hn, State.pendingOf, fu_removeItem, FaultUnit.withPending, setRec]

theorem levelStored_frame (a : Authority) (k : FaultKind) (n : Nat) (s : State) :
    changesOnly [.framer, .faults, .counters] s (levelStored a k n s) := by
  simp [levelStored, changesOnly_iff]

theorem levelStored_countsOnly (a : Authority) (k : FaultKind) (n : Nat) (s : State) :
    countsOnly [Ctr.framesCutShort, Ctr.itemsRemoved] s (levelStored a k n s) :=
  ((countsOnly.refl _ s).congr (by simp)).whenever (removeItem_countsOnly a k)

theorem chan_levelStored (a : Authority) (k : FaultKind) (n : Nat) {ch : Chan} (h : ch ≠ 15) (s : State) :
    (levelStored a k n s).chan ch = s.chan ch := by
  simp only [levelStored, whenever]
  split
  · exact (chan_removeItem a k h _).trans (chan_congr (by simp) ch)
  · exact chan_congr (by simp) ch

theorem bf_levelStored {n : Nat} (h : n ≠ 0) (a : Authority) (k : FaultKind) (s : State) : (levelStored a k n s).bf = s.bf := by
  simp [levelStored, whenever, h]

/-! ## A latch cleared (R173) -/

/-- A record that CLEAR_FAULT has gone over (R173): an active one is left. -/
def FaultRecord.swept (r : FaultRecord) (a : Authority) (counts : Bool) : FaultRecord :=
  if r.active then r else r.cleared a counts

theorem FaultRecord.swept_swept (r : FaultRecord) (a : Authority) (counts : Bool) :
    (r.swept a counts).swept a counts = r.swept a counts := by
  cases ha : r.active <;> cases a <;> cases counts <;> simp [FaultRecord.swept, FaultRecord.cleared, ha]

theorem fault_clearKind (a : Authority) (counts : Bool) (k j : FaultKind) (s : State) :
    (clearKind a counts k s).fault j = if k = j then (s.fault k).swept a counts else s.fault j := by
  cases ha : (s.fault k).active with
  | true =>
    have hactive : s.isActive k = true := ha
    simp only [clearKind, hactive, if_true, FaultRecord.swept, ha]
    split
    · next hk => rw [hk]
    · rfl
  | false =>
    have hactive : s.isActive k = false := ha
    simp [clearKind, hactive, FaultRecord.swept, ha, fault_setRec]

theorem fault_clearKinds (a : Authority) (counts : Bool) (j : FaultKind) (l : List FaultKind) (s : State) :
    (l.foldl (fun v k => clearKind a counts k v) s).fault j = if j ∈ l then (s.fault j).swept a counts else s.fault j := by
  induction l generalizing s with
  | nil => simp
  | cons k l ih =>
    rw [List.foldl_cons, ih, fault_clearKind]
    by_cases hk : k = j
    · simp [hk, FaultRecord.swept_swept]
    · simp [hk, Ne.symm hk]

theorem FaultKind.mem_all (k : FaultKind) : k ∈ FaultKind.all := by
  cases k <;> decide

theorem fu_clearKind (a : Authority) (counts : Bool) (k : FaultKind) (s : State) :
    (clearKind a counts k s).fu = { s.fu with records := (clearKind a counts k s).fu.records } := by
  unfold clearKind
  split <;> rfl

/-- CLEAR_FAULT of every kind (R173). -/
def clearAll (a : Authority) (counts : Bool) (s : State) : State :=
  FaultKind.all.foldl (fun v k => clearKind a counts k v) s

theorem fu_clearAll (a : Authority) (counts : Bool) (s : State) :
    (clearAll a counts s).fu = { s.fu with records := (clearAll a counts s).fu.records } := by
  unfold clearAll
  induction FaultKind.all generalizing s with
  | nil => rfl
  | cons k l ih =>
    rw [List.foldl_cons, ih, fu_clearKind]

theorem clearKind_changesOnly (a : Authority) (counts : Bool) (k : FaultKind) (s : State) :
    changesOnly [.faults] s (clearKind a counts k s) := by
  simp [changesOnly_iff]

theorem clearAll_changesOnly (a : Authority) (counts : Bool) (s : State) : changesOnly [.faults] s (clearAll a counts s) := by
  unfold clearAll
  induction FaultKind.all generalizing s with
  | nil => exact .refl _ s
  | cons k l ih => exact (clearKind_changesOnly a counts k s).trans (ih _)

theorem clearFaultAct_badValue {a : Authority} {kind flag : Byte} (h : flag ≠ 0 ∧ flag ≠ 1 ∨
    kind ≠ 0 ∧ FaultKind.ofNumber kind.toNat = none) : clearFaultAct a kind flag s = refuse .badValue s := by
  unfold clearFaultAct
  rcases h with ⟨h0, h1⟩ | ⟨hk, hn⟩
  · rw [flagOf_none h0 h1]
  · split
    · rfl
    · rw [if_neg hk]
      simp only [hn]

theorem clearFaultAct_all {a : Authority} {flag : Byte} (h : flag = 0 ∨ flag = 1) : clearFaultAct a 0 flag s =
    doneWith [0, byteOf (FaultKind.all.countP fun k => (s.fault k).active)] (clearAll a (flag == 1) s) := by
  simp only [clearFaultAct, flagOf_code h, if_true]
  rfl

theorem ofNumber_zero {kind : Byte} {k : FaultKind} (h : FaultKind.ofNumber kind.toNat = some k) : kind ≠ 0 := by
  rintro rfl
  cases h

theorem clearFaultAct_active {a : Authority} {kind flag : Byte} {k : FaultKind} (h : flag = 0 ∨ flag = 1)
    (hk : FaultKind.ofNumber kind.toNat = some k) (ha : (s.fault k).active = true) :
    clearFaultAct a kind flag s = { state := s, status := .stillActive, body := [kind, 1] } := by
  simp only [clearFaultAct, flagOf_code h, if_neg (ofNumber_zero hk), hk, State.isActive, ha, if_true]

theorem clearFaultAct_one {a : Authority} {kind flag : Byte} {k : FaultKind} (h : flag = 0 ∨ flag = 1)
    (hk : FaultKind.ofNumber kind.toNat = some k) (ha : (s.fault k).active = false) :
    clearFaultAct a kind flag s = doneWith [kind, 0] (clearKind a (flag == 1) k s) := by
  have hactive : s.isActive k = false := ha
  simp only [clearFaultAct, flagOf_code h, if_neg (ofNumber_zero hk), hk, hactive, Bool.false_eq_true, if_false]

/-- A record cleared as the statement spells it. -/
theorem cleared_eq (r : FaultRecord) (a : Authority) (flag : Byte) : r.cleared a (flag == 1) =
    (let r : FaultRecord := match a with
      | .loc => { r with locLatch := false }
      | .exch => { r with exchLatch := false }
     if flag = 1 then { r with count := 0, first := 0, last := 0, detail := 0 } else r) := by
  by_cases h : flag = 1 <;> cases a <;> simp [FaultRecord.cleared, h]

/-- The counters of a level written do not meet those of an answer. -/
theorem levelCounters_apart (a : Authority) : Ctr.received a ∉ [Ctr.framesCutShort, Ctr.itemsRemoved, Ctr.paramsClamped] ∧
    Ctr.repliesDone ∉ [Ctr.framesCutShort, Ctr.itemsRemoved, Ctr.paramsClamped] := by
  cases a <;> decide

theorem levelWritten_countsOnly (a : Authority) (k : FaultKind) (n : Nat) (b : Bool) (s : State) :
    countsOnly [Ctr.framesCutShort, Ctr.itemsRemoved, Ctr.paramsClamped] s (countClamp b (levelStored a k n s)) :=
  ((levelStored_countsOnly a k n s).mono (by simp)).trans ((countClamp_countsOnly b _).mono (by simp))

theorem levelWritten_clamped (a : Authority) (k : FaultKind) {n m : Nat} (s : State) :
    countedIf (n ≠ m) Ctr.paramsClamped 1 s (countClamp (n != m) (levelStored a k n s)) := by
  have h := (countedIf_congr (bne_iff_ne (a := n) (b := m))).1 (countClamp_counted (n != m) (levelStored a k n s))
  have hs := levelStored_countsOnly a k n s Ctr.paramsClamped (by decide)
  simpa only [countedIf, counted, hs] using h

theorem level_range (k : FaultKind) (a : Authority) : (k.levelRule a).2.1 ≤ (k.levelRule a).2.2 := by
  cases a <;> cases k <;> decide

/-- What a level write leaves once it is answered, the level stored given. -/
theorem levelWrite_faults {sender : Sender} {tag : Half} {body : Bytes} {k : FaultKind} {n : Nat} {b : Bool} :
    (answerWith sender (replyCode 2) tag (doneWith body (countClamp b (levelStored (senderAuthority sender) k n
      (arrived sender s))))).fu = (levelStored (senderAuthority sender) k n (arrived sender s)).fu := by
  simp [doneWith]

theorem fu_arrived (sender : Sender) (s : State) : (arrived sender s).fu = s.fu := by
  simp

theorem fault_arrived (sender : Sender) (s : State) (k : FaultKind) : (arrived sender s).fault k = s.fault k :=
  fault_congr (by simp) k

theorem active_arrived (sender : Sender) (s : State) :
    (fun k => ((arrived sender s).fault k).active) = fun k => (s.fault k).active := by
  simp only [fault_arrived]

/-- A level write as it is answered. -/
theorem levelWrite_effect {sender : Sender} {tag : Half} {index level : Byte} {k : FaultKind} {n : Nat} {t : State}
    (ha : accepts sender s) (ht : t = answerWith sender (replyCode 2) tag (doneWith
      ([5, index] ++ faultBytes k ((s.fault k).withLevel (senderAuthority sender) n))
      (countClamp (n != level.toNat) (levelStored (senderAuthority sender) k n (arrived sender s))))) :
    (∀ j, t.fault j = if k = j then (s.fault k).withLevel (senderAuthority sender) n else s.fault j) ∧
      t.pendingOf (senderAuthority sender) = (if n = 0 then (s.pendingOf (senderAuthority sender)).filter (fun i => i.kind != k)
        else s.pendingOf (senderAuthority sender)) ∧
      t.fu = { s.fu with records := t.fu.records }.withPending (senderAuthority sender) (t.pendingOf (senderAuthority sender)) ∧
      Replied sender 2 tag .done ([5, index] ++ faultBytes k (t.fault k)) s t ∧
      countedIf (n ≠ level.toNat) Ctr.paramsClamped 1 s t ∧ (∀ ch : Chan, ch ≠ 15 → t.chan ch = s.chan ch) ∧
      (n ≠ 0 → t.bf = s.bf) ∧ t.du = seenBy sender s.du ∧
      changesOnly [.directives, .framer, .faults, .queues, .counters] s t := by
  have hfu : t.fu = (levelStored (senderAuthority sender) k n (arrived sender s)).fu := ht ▸ levelWrite_faults
  have hbf : t.bf = (levelStored (senderAuthority sender) k n (arrived sender s)).bf := by simp [ht, doneWith]
  have hfault (j : FaultKind) : t.fault j = if k = j then (s.fault k).withLevel (senderAuthority sender) n else s.fault j := by
    rw [fault_congr hfu, fault_levelStored, fault_arrived, fault_arrived]
  have hlist : t.pendingOf (senderAuthority sender) =
      (levelStored (senderAuthority sender) k n (arrived sender s)).pendingOf (senderAuthority sender) := by
    cases sender <;> simp [State.pendingOf, hfu, senderAuthority]
  have harr : (arrived sender s).pendingOf (senderAuthority sender) = s.pendingOf (senderAuthority sender) := by
    cases sender <;> simp [State.pendingOf, senderAuthority]
  obtain ⟨hr, hs⟩ := levelCounters_apart (senderAuthority sender)
  refine ⟨hfault, by rw [hlist, pendingOf_levelStored, harr], ?_, ?_, ?_, fun ch hch => ?_, fun hn => ?_, by simp [ht, doneWith, levelStored],
    by simp [ht, doneWith, levelStored, changesOnly_iff]⟩
  · rw [hlist, hfu, ← fu_arrived sender s]
    exact fu_levelStored _ _ _ _
  · rw [hfault, if_pos rfl, ht]
    exact done_replied ha (onlyNotices_of_eq (by simp [levelStored])) (by simp [levelStored])
      (levelWritten_countsOnly _ k n _ _) hr hs
  · rw [ht]
    exact countedIf_answerWith (levelWritten_clamped _ k _) (paramsClamped_notin sender)
  · rw [chan_congr hbf, chan_levelStored _ _ _ hch]
    exact chan_congr (by simp) ch
  · rw [hbf, bf_levelStored hn]
    simp

/-- A latch cleared, answered: only the records have changed. -/
theorem latchCleared_effect {sender : Sender} {tag : Half} {body : Bytes} (ha : accepts sender s)
    (hu : changesOnly [.faults] (arrived sender s) u) (hfu : u.fu = { s.fu with records := u.fu.records }) :
    let t := answerWith sender (replyCode 6) tag (doneWith body u)
    t.fu = u.fu ∧ t.fu = { s.fu with records := t.fu.records } ∧ t.du = seenBy sender s.du ∧
      Replied sender 6 tag .done body s t ∧ changesOnly [.directives, .faults, .queues, .counters] s t ∧
      countsOnly (answerCounters sender .done) s t := by
  have hcounters : countsOnly [] (arrived sender s) u := fun c _ => counter_congr (hu .counters (by decide)) c
  have hqm : u.qm = s.qm := (hu .queues (by decide)).trans (by simp)
  have hdu : u.du = seenBy sender s.du := (hu .directives (by decide)).trans (by simp)
  have heq : (answerWith sender (replyCode 6) tag (doneWith body u)).fu = u.fu := by simp [doneWith]
  refine ⟨heq, heq ▸ hfu, by simp [doneWith, hdu],
    done_replied ha (onlyNotices_of_eq hqm) (by rw [hdu]) hcounters (by simp) (by simp), ?_,
    answered_countsOnly (r := doneWith body u) hcounters⟩
  exact answered_changesOnly (r := doneWith body u) (by decide) (hu.mono (by decide))

/-- Settles O52: a level write is checked by its kind; CLEAR_FAULT by its flag, its kind, and the record's activity. -/
theorem levelsAndLatchesAreTheRequesters : Obligations.LevelsAndLatchesAreTheRequesters := by
  intro sender tag s ha
  refine ⟨fun index level => ⟨fun h => ?_, fun k hk => ?_⟩, fun kind flag => ?_⟩
  · exact exec_onlyAnswered (c := .writeTableFault sender tag index level) rfl ha rfl rfl (by simp)
      (by simp [act, writeFaultAct, h, refuse])
  · refine ⟨_, exec_answers rfl ha rfl rfl (by simp), ?_⟩
    have hact : act sender tag (.writeFault index level) (arrived sender s) = _ := writeFaultAct_done hk
    rw [hact, clamp_eq (level_range k _), fault_arrived]
    obtain ⟨hfault, hlist, hfu, hreply, hclamp, hchan, hbf, hdu, hframe⟩ := levelWrite_effect (tag := tag) (index := index)
      (level := level) (k := k) ha rfl
    refine ⟨?_, fun j hj => (hfault j).trans (if_neg fun e => hj (by simp [e])), ?_, ?_, hdu, hreply, hclamp, hchan, hbf, hframe⟩
    · refine (hfault k).trans ((if_pos rfl).trans ?_)
      cases sender <;> rfl
    · cases sender <;> exact hlist
    · cases sender <;> exact hfu
  · have hans {status : Status} {body : Bytes} (h : clearFaultAct (senderAuthority sender) kind flag (arrived sender s) =
        { state := arrived sender s, status := status, body := body }) :=
      exec_onlyAnswered (c := .clearFault sender tag kind flag) rfl ha rfl rfl (by simp) h
    refine ⟨fun h => hans (clearFaultAct_badValue h), ?_,
      fun hf k hk hact => hans (clearFaultAct_active hf hk (fault_arrived sender s k ▸ hact)), fun hf k hk hact => ?_⟩
    · rintro hf rfl
      refine ⟨_, exec_answers rfl ha rfl rfl (by simp), ?_⟩
      have hact : act sender tag (.clearFault 0 flag) (arrived sender s) = _ := clearFaultAct_all hf
      rw [hact]
      obtain ⟨heq, hfu, hdu, hreply, hframe, hcounts⟩ := latchCleared_effect (tag := tag)
        (body := [0, byteOf (FaultKind.all.countP fun k => ((arrived sender s).fault k).active)]) ha
        (clearAll_changesOnly (senderAuthority sender) (flag == 1) (arrived sender s))
        (by rw [fu_clearAll, fu_arrived])
      rw [active_arrived] at heq hfu hdu hreply hframe hcounts ⊢
      refine ⟨fun k => (fault_congr heq k).trans ?_, hfu, hdu, hreply, hframe, hcounts⟩
      have hswept := (fault_clearKinds (senderAuthority sender) (flag == 1) k FaultKind.all (arrived sender s)).trans
        (if_pos k.mem_all)
      rw [fault_arrived] at hswept
      exact hswept.trans (if_congr Iff.rfl rfl (cleared_eq (s.fault k) (senderAuthority sender) flag))
    · refine ⟨_, exec_answers rfl ha rfl rfl (by simp), ?_⟩
      have hactive : ((arrived sender s).fault k).active = false := (fault_arrived sender s k).symm ▸ hact
      have hact' : act sender tag (.clearFault kind flag) (arrived sender s) = _ := clearFaultAct_one hf hk hactive
      rw [hact']
      obtain ⟨heq, hfu, hdu, hreply, hframe, hcounts⟩ := latchCleared_effect (tag := tag) (body := [kind, 0]) ha
        (clearKind_changesOnly (senderAuthority sender) (flag == 1) k (arrived sender s))
        (by rw [fu_clearKind, fu_arrived])
      refine ⟨(fault_congr heq k).trans ?_, fun j hj => (fault_congr heq j).trans ?_, hfu, hdu, hreply, hframe, hcounts⟩
      · have hswept := (fault_clearKind (senderAuthority sender) (flag == 1) k k (arrived sender s)).trans (if_pos rfl)
        rw [fault_arrived, FaultRecord.swept, if_neg (by simp [hact])] at hswept
        exact hswept.trans (cleared_eq (s.fault k) (senderAuthority sender) flag)
      · rw [fault_clearKind, if_neg fun e => hj (by simp [e]), fault_arrived]

end Sys2Proof.Machine

/-! PROOFS. O53 and O54: a parameter written by its owner, and what an authority does not own. -/

namespace Sys2Proof.Machine

variable {s t u : State}

/-! ## A parameter written (R209, R59) -/

/-- The value that a write stores (R209). -/
def Param.written (p : Param) (v : Nat) : Nat :=
  match p.rule with
  | .number lo hi => max lo (min v hi)
  | .coded _ | .address => v

theorem Param.rule_range {p : Param} {lo hi : Nat} (h : p.rule = .number lo hi) : lo ≤ hi := by
  cases p <;> cases h <;> decide

theorem countClamp_same (v : Nat) (s : State) : countClamp (v != v) s = s := by
  simp [countClamp, whenever]

theorem writeParamAct_done {ident : Byte} {value : BitVec 48} {p : Param} (h : Param.ofIdent ident.toNat = some p)
    (hc : ∀ codes, p.rule = .coded codes → value.toNat ∈ codes) : writeParamAct ident value s =
      doneWith ([ident] ++ be48 (p.written value.toNat))
        (countClamp (p.written value.toNat != value.toNat) (storeParam p (p.written value.toNat) s)) := by
  simp only [writeParamAct, h, Param.written]
  cases hr : p.rule with
  | number lo hi =>
    dsimp only
    rw [clamp_eq (Param.rule_range hr)]
  | coded codes =>
    have hm : codes.contains value.toNat = true := by simpa using hc codes hr
    simp only [hm, if_true, countClamp_same]
  | address => simp only [countClamp_same]

theorem writeParamAct_badValue {ident : Byte} {value : BitVec 48} {p : Param} (h : Param.ofIdent ident.toNat = some p)
    {codes : List Nat} (hr : p.rule = .coded codes) (hc : value.toNat ∉ codes) :
    writeParamAct ident value s = refuse .badValue s := by
  have hm : codes.contains value.toNat = false := by simpa using hc
  simp only [writeParamAct, h, hr, hm, Bool.false_eq_true, if_false]

theorem param_storeParam (p q : Param) (v : Nat) (s : State) :
    (storeParam p v s).param q = if q = p then v else s.param q := by
  have hd : (storeParam p v s).du = (setParam p v s).du := by simp [storeParam]
  have hq : p = q ↔ q = p := eq_comm
  rw [param_congr hd, param_setParam]
  simp only [hq]

theorem du_storeParam (p : Param) (v : Nat) (s : State) :
    (storeParam p v s).du = { s.du with params := (storeParam p v s).du.params } := by
  simp [storeParam, setParam]

theorem boundHolds_eq (d : Nat) : s.boundHolds d = true ↔
    s.reserved = 0 ∨ s.reserved * s.lbu.size.voiceBlocks + 1 + d ≤ s.lbu.sustained := by
  unfold State.boundHolds
  rw [Bool.or_eq_true, beq_iff_eq, decide_eq_true_eq]
  rfl

theorem lbu_storeParam (p : Param) (v : Nat) (s : State) : (storeParam p v s).lbu =
    if p ≠ .dataFloor then s.lbu
    else if s.ls.link ≠ .carrying then { s.lbu with pendingFloor := if s.lbu.pendingFloor = none then none else some v }
    else if s.reserved = 0 ∨ s.reserved * s.lbu.size.voiceBlocks + 1 + v ≤ s.lbu.sustained then
      { s.lbu with floor := v, pendingFloor := none }
    else { s.lbu with pendingFloor := some v } := by
  by_cases hp : p = .dataFloor
  · subst hp
    have hres : (setParam Param.dataFloor v s).reserved = s.reserved := reserved_congr (by simp)
    have hbound := boundHolds_eq (s := setParam Param.dataFloor v s) v
    rw [hres] at hbound
    simp only [storeParam, whenever, beq_self_eq_true, if_true, floorWritten_lbu, ne_eq, not_true, if_false, hbound]
    by_cases hl : s.ls.link = .carrying
    · simp [State.carrying, hl]
    · cases hpf : s.lbu.pendingFloor <;> simp [State.carrying, hl, hpf]
  · simp [storeParam, whenever, hp]

theorem storeParam_changesOnly (p : Param) (v : Nat) (s : State) :
    changesOnly [.directives, .budget] s (storeParam p v s) := by
  simp [storeParam, changesOnly_iff]

theorem passes_writeParam {sender : Sender} {ident : Byte} {value : BitVec 48}
    (h : ∀ p, Param.ofIdent ident.toNat = some p → p.owner = senderAuthority sender) :
    (Request.writeParam ident value).passes sender = true := by
  simp only [Request.passes, paramNotOwned]
  split
  · next p hp => simp [h p hp]
  · rfl

/-- Settles O53: a write to a parameter the sender owns is checked by its codes, then stored as it is clamped. -/
theorem parametersAreStoredAndClamped : Obligations.ParametersAreStoredAndClamped := by
  intro sender tag ident value s ha
  refine ⟨fun h => ?_, fun p hp hown => ⟨?_, fun hc => ?_⟩⟩
  · exact exec_onlyAnswered (c := .writeParam sender tag ident value) rfl ha rfl
      (passes_writeParam fun p hp => by rw [h] at hp; cases hp) (by simp) (by simp [act, writeParamAct, h, refuse])
  all_goals
    have hpass : (Request.writeParam ident value).passes sender = true :=
      passes_writeParam fun q hq => by rw [hp] at hq; cases hq; exact hown
  · rintro ⟨codes, hr, hv⟩
    exact exec_onlyAnswered (c := .writeParam sender tag ident value) rfl ha rfl hpass (by simp) (writeParamAct_badValue hp hr hv)
  · refine ⟨_, exec_answers rfl ha rfl hpass (by simp), ?_⟩
    have hact : act sender tag (.writeParam ident value) (arrived sender s) = _ := writeParamAct_done hp hc
    rw [hact]
    intro w
    have hw : p.written value.toNat = w := rfl
    rw [hw]
    clear_value w
    have hstore := storeParam_changesOnly p w (arrived sender s)
    have hreserved : (arrived sender s).reserved = s.reserved := reserved_congr (by simp)
    have hdu : (storeParam p w (arrived sender s)).du =
        { seenBy sender s.du with params := (storeParam p w (arrived sender s)).du.params } := by
      rw [← arrived_du]
      exact du_storeParam _ _ _
    have hcounters : (storeParam p w (arrived sender s)).counters = (arrived sender s).counters :=
      hstore .counters (by decide)
    refine ⟨fun q => ?_, by simpa [doneWith] using hdu, ?_, clamped_counted (by simp) hcounters, ?_, ?_,
      clamped_countsOnly hcounters⟩
    · refine (param_congr (s := storeParam p w (arrived sender s)) (by simp [doneWith]) q).trans ?_
      rw [param_storeParam, arrived_param]
    · exact clamped_replied ha (onlyNotices_of_eq ((hstore .queues (by decide)).trans (by simp))) (by rw [hdu]) hcounters
    · have hl := lbu_storeParam p w (arrived sender s)
      simp only [arrived_frame, hreserved] at hl
      rw [← hl]
      simp [doneWith]
    · refine answered_changesOnly (r := doneWith _ (countClamp _ (storeParam p w (arrived sender s)))) (by decide) ?_
      refine (hstore.mono (by decide)).trans ?_
      simp [doneWith, changesOnly_iff]

end Sys2Proof.Machine

/-! PROOFS. O17 and O54: an occurrence in its record and in both pending lists, and the refusal of what an authority does not own,
whose only effect is such a report. -/

namespace Sys2Proof.Machine

variable {s t u : State}

/-! ## The pending lists (R174, R177) -/

/-- A pending list after an occurrence of a kind at its authority's level (R174). -/
def listed (k : FaultKind) (level now : Nat) (old : List PendingItem) : List PendingItem :=
  if level = 0 then old
  else if holdsKind k old then coalesce k old
  else insertItem { kind := k, level := level, entry := now, repeats := 1 } old

/-- With no item on offer none leaves the local list (R177). -/
theorem drainLocal_closed (h : ¬ noticesOffered s) (n : Nat) : drainLocal n s = s := by
  cases n with
  | zero => rfl
  | succ n =>
    have hc : (s.qm.homeUp && !s.me.quiet) = false := by
      rw [← Bool.not_eq_true]
      simpa [noticesOffered] using h
    simp [drainLocal, hc]

/-- A kind enters the local list, with no item on offer. -/
theorem enterLoc_closed (h : ¬ noticesOffered s) (k : FaultKind) (level : Nat) : enterLoc k level s =
    if holdsKind k s.fu.locList then s |> onList .loc (coalesce k) |> bump Ctr.repeatsCoalesced
    else
      s |> onList .loc (insertItem (s.newItem k level)) |> bump Ctr.itemsEnteredLoc
        |> whenever (s.me.quiet && s.param .wakeLevel ≤ level) assertWake := by
  have hoff {v : State} (hq : v.qm = s.qm) (hm : v.me.quiet = s.me.quiet) : ¬ noticesOffered v := by
    simpa only [noticesOffered, hq, hm] using h
  unfold enterLoc
  split
  · exact drainLocal_closed (hoff (by simp) (by simp)) _
  · refine drainLocal_closed (hoff (by simp) ?_) _
    unfold whenever assertWake
    (repeat' split) <;> simp

/-- An occurrence that is recorded (R169), its two lists to come. -/
def recorded (k : FaultKind) (detail : Nat) (s : State) : State :=
  s |> setRec k ((s.fault k).occurred k.isCondition s.fu.uptime detail) |> bump Ctr.occurrences

theorem occurrence_eq {k : FaultKind} (h : k.isCondition = true → (s.fault k).active = false) (detail : Nat) :
    occurrence k detail s =
      (recorded k detail s |> whenever (1 ≤ (s.fault k).exchLevel) (enterExch k (s.fault k).exchLevel)
        |> whenever (1 ≤ (s.fault k).locLevel) (enterLoc k (s.fault k).locLevel)) := by
  have hc : (k.isCondition && s.isActive k) = false := by
    cases hk : k.isCondition with
    | false => rfl
    | true => exact h hk
  simp only [occurrence, hc, Bool.false_eq_true, if_false]
  rfl

theorem fu_enterExch (k : FaultKind) (level : Nat) (h : 1 ≤ level) (s : State) :
    (enterExch k level s).fu = { s.fu with exchList := listed k level s.fu.uptime s.fu.exchList } := by
  have hne : level ≠ 0 := by omega
  simp only [enterExch, listed, if_neg hne]
  split <;> simp [onList, State.newItem]

theorem fu_enterLoc_closed (h : ¬ noticesOffered s) (k : FaultKind) (level : Nat) (hl : 1 ≤ level) :
    (enterLoc k level s).fu = { s.fu with locList := listed k level s.fu.uptime s.fu.locList } := by
  have hne : level ≠ 0 := by omega
  rw [enterLoc_closed h]
  simp only [listed, if_neg hne]
  split <;> simp [onList, State.newItem]

theorem qm_enterLoc_closed (h : ¬ noticesOffered s) (k : FaultKind) (level : Nat) : (enterLoc k level s).qm = s.qm := by
  rw [enterLoc_closed h]
  split <;> simp

theorem fu_offerLocal (s : State) : (offerLocal s).fu = { s.fu with locList := (offerLocal s).fu.locList } :=
  (drainLocal_drained _ s (Nat.le_refl _)).1.monitor

theorem fu_enterLoc (k : FaultKind) (level : Nat) (s : State) :
    (enterLoc k level s).fu = { s.fu with locList := (enterLoc k level s).fu.locList } := by
  unfold enterLoc
  split
  · rw [fu_offerLocal]
    simp [onList]
  · rw [fu_offerLocal]
    simp [onList]

theorem fu_recorded (k : FaultKind) (detail : Nat) (s : State) :
    (recorded k detail s).fu = { s.fu with records := (recorded k detail s).fu.records } := rfl

theorem fu_entersExch (k : FaultKind) (level : Nat) (s : State) :
    (whenever (1 ≤ level) (enterExch k level) s).fu =
      { s.fu with exchList := listed k level s.fu.uptime s.fu.exchList } := by
  by_cases h : 1 ≤ level
  · simp only [whenever, h, decide_true, if_true]
    exact fu_enterExch k level h s
  · have hz : level = 0 := by omega
    simp [whenever, listed, hz]

/-- An occurrence enters the exchange list whatever the local list offers. -/
theorem exchList_occurrence {k : FaultKind} (h : k.isCondition = true → (s.fault k).active = false) (detail : Nat) :
    (occurrence k detail s).fu.exchList = listed k (s.fault k).exchLevel s.fu.uptime s.fu.exchList := by
  have hloc (level : Nat) (v : State) : (whenever (1 ≤ level) (enterLoc k level) v).fu.exchList = v.fu.exchList := by
    unfold whenever
    split
    · rw [fu_enterLoc]
    · rfl
  rw [occurrence_eq h, hloc, fu_entersExch, fu_recorded]

/-- With no item on offer an occurrence enters the local list and leaves the queues alone (R174, R177). -/
theorem locList_occurrence_closed {k : FaultKind} (h : k.isCondition = true → (s.fault k).active = false)
    (ho : ¬ noticesOffered s) (detail : Nat) :
    (occurrence k detail s).fu.locList = listed k (s.fault k).locLevel s.fu.uptime s.fu.locList ∧
      (occurrence k detail s).qm = s.qm := by
  have hoff : ¬ noticesOffered (whenever (1 ≤ (s.fault k).exchLevel) (enterExch k (s.fault k).exchLevel)
      (recorded k detail s)) := by
    simpa [noticesOffered, recorded] using ho
  rw [occurrence_eq h]
  by_cases hl : 1 ≤ (s.fault k).locLevel
  · rw [show decide (1 ≤ (s.fault k).locLevel) = true from decide_eq_true hl]
    refine ⟨(congrArg FaultUnit.locList (fu_enterLoc_closed hoff k _ hl)).trans ?_, (qm_enterLoc_closed hoff k _).trans ?_⟩
    · rw [fu_entersExch, fu_recorded]
    · simp [recorded]
  · have hz : (s.fault k).locLevel = 0 := by omega
    have hskip (v : State) : whenever (1 ≤ (s.fault k).locLevel) (enterLoc k (s.fault k).locLevel) v = v := by
      simp [whenever, hz]
    rw [hskip, listed, if_pos hz]
    refine ⟨?_, by simp [recorded]⟩
    exact (congrArg FaultUnit.locList (fu_entersExch k (s.fault k).exchLevel (recorded k detail s))).trans rfl

theorem insertItem_split (x : PendingItem) (l : List PendingItem) :
    ∃ n, n < l.length + 1 ∧ insertItem x l = l.take n ++ [x] ++ l.drop n := by
  induction l with
  | nil => exact ⟨0, by simp, rfl⟩
  | cons y ys ih =>
    unfold insertItem
    split
    · exact ⟨0, by simp, rfl⟩
    · obtain ⟨n, hn, he⟩ := ih
      exact ⟨n + 1, by simpa using hn, by simp [he]⟩

theorem coalesce_eq (k : FaultKind) (l : List PendingItem) :
    coalesce k l = l.map fun i => if i.kind = k then { i with repeats := min (i.repeats + 1) 255 } else i := rfl

theorem entered_listed (k : FaultKind) (level now : Nat) (l : List PendingItem) :
    entered k level now l (listed k level now l) := by
  unfold entered listed
  split
  · rfl
  · simp only [← holdsKind_iff]
    split
    · exact coalesce_eq k l
    · exact insertItem_split _ l

/-- A new item's place as a split of the list. -/
theorem entered_split {k : FaultKind} {level now : Nat} {old new : List PendingItem} (h : entered k level now old new) :
    if level = 0 then new = old
    else if ∃ i ∈ old, i.kind = k then
      new = old.map fun i => if i.kind = k then { i with repeats := min (i.repeats + 1) 255 } else i
    else ∃ l₁ l₂, old = l₁ ++ l₂ ∧ new = l₁ ++ [{ kind := k, level := level, entry := now, repeats := 1 }] ++ l₂ := by
  unfold entered at h
  split
  · next hz => simpa only [if_pos hz] using h
  · next hz =>
    rw [if_neg hz] at h
    split
    · next hi => simpa only [if_pos hi] using h
    · next hi =>
      rw [if_neg hi] at h
      obtain ⟨n, -, hn⟩ := h
      exact ⟨old.take n, old.drop n, (List.take_append_drop n old).symm, hn⟩

/-- The counters of the pending lists, those of a report but its occurrence (R184). -/
def listCounters : List Counter :=
  [Ctr.itemsEnteredExch, Ctr.itemsEnteredLoc, Ctr.repeatsCoalesced, Ctr.locNoticesQueued, Ctr.noticeDeclined, Ctr.wakes]

theorem drainLocal_listCounters (n : Nat) (s : State) : countsOnly listCounters s (drainLocal n s) := by
  induction n generalizing s with
  | zero => exact .refl _ s
  | succ n ih =>
    unfold drainLocal
    split
    · split
      · exact .refl _ s
      · dsimp only
        split
        · exact (((countsOnly.refl _ s).congr (by simp)).bump (by decide)).trans (ih _)
        · exact (countsOnly.refl _ s).bump (by decide)
    · exact .refl _ s

theorem assertWake_listCounters (s : State) : countsOnly listCounters s (assertWake s) := by
  unfold assertWake
  split
  · exact .refl _ s
  · exact ((countsOnly.refl _ s).congr (by simp)).bump (by decide)

theorem enterExch_listCounters (k : FaultKind) (level : Nat) (s : State) : countsOnly listCounters s (enterExch k level s) := by
  unfold enterExch
  split
  · exact ((countsOnly.refl _ s).congr (by simp)).bump (by decide)
  · exact ((countsOnly.refl _ s).congr (by simp)).bump (by decide)

theorem enterLoc_listCounters (k : FaultKind) (level : Nat) (s : State) : countsOnly listCounters s (enterLoc k level s) := by
  unfold enterLoc
  split
  · exact (((countsOnly.refl _ s).congr (by simp)).bump (by decide)).trans (drainLocal_listCounters _ _)
  · exact ((((countsOnly.refl _ s).congr (by simp)).bump (by decide)).whenever assertWake_listCounters).trans
      (drainLocal_listCounters _ _)

/-- An occurrence recorded is counted once (R184). -/
theorem occurrence_counted {k : FaultKind} (h : k.isCondition = true → (s.fault k).active = false) (detail : Nat) :
    counted Ctr.occurrences 1 s (occurrence k detail s) := by
  have hlists : countsOnly listCounters (recorded k detail s) (occurrence k detail s) := by
    rw [occurrence_eq h]
    exact ((countsOnly.refl _ _).whenever fun v => enterExch_listCounters _ _ v).whenever fun v => enterLoc_listCounters _ _ v
  exact (hlists _ (by decide)).trans (counter_bump_same _ _)

theorem occurrence_recordsOnly (k : FaultKind) (detail : Nat) (s : State) : recordsOnly [k] s (occurrence k detail s) := by
  intro j hj
  rw [fault_occurrence, if_neg fun h => hj (by simp [h.1])]

/-- A report of an event, or of a condition that is not active, is an occurrence (R169). -/
theorem fault_occurrence_recorded {k : FaultKind} (h : k.isCondition = true → (s.fault k).active = false) (detail : Nat) :
    (occurrence k detail s).fault k = (s.fault k).occurred k.isCondition s.fu.uptime detail := by
  have hc : (k.isCondition && s.isActive k) = false := by
    cases hk : k.isCondition with
    | false => rfl
    | true => exact h hk
  rw [fault_occurrence, if_pos ⟨rfl, hc⟩]

/-- Settles O17: the record, then each list with the other left alone. -/
theorem reportsAreRecordedAndListed : Obligations.ReportsAreRecordedAndListed := by
  intro s k detail hk hclosed
  have ho : ¬ noticesOffered s := by
    rintro ⟨hup, hquiet⟩
    rcases hclosed with h | h <;> simp_all
  obtain ⟨hloc, hqm⟩ := locList_occurrence_closed hk ho detail
  refine ⟨fault_occurrence_recorded hk detail, occurrence_recordsOnly k detail s, occurrence_counted hk detail, ?_, ?_,
    occurrence_countsOnly k detail s⟩
  · have hlisted (level : Nat) (l : List PendingItem) := entered_listed k level s.fu.uptime l
    rintro level old new (⟨rfl, rfl, rfl⟩ | ⟨rfl, rfl, rfl⟩)
    · rw [exchList_occurrence hk]
      exact entered_split (hlisted _ _)
    · rw [hloc]
      exact entered_split (hlisted _ _)
  · simp [changesOnly_iff, hqm]

/-! ## A NOT_OWNER refusal (R206, R207) -/

theorem mayWrite_eq (sender : Sender) (t : Byte) : (senderAuthority sender).mayWrite t.toNat = sender.ownsTable t := by
  have heq (n : Byte) : (t.toNat == n.toNat) = (t == n) := by
    rw [Bool.eq_iff_iff, beq_iff_eq, beq_iff_eq, BitVec.toNat_inj]
  cases sender with
  | loc =>
    simp only [senderAuthority, Authority.mayWrite, Sender.ownsTable, ← heq]
    rfl
  | exch =>
    simp only [senderAuthority, Authority.mayWrite, Sender.ownsTable, ← heq]
    rfl

theorem takeBody_notOwner {sender : Sender} {code : Nat} {body : Bytes} (tag : Half) (ht : tableWrong code body = false)
    (ho : ownerWrong sender code body = true) :
    takeBody sender code tag body u = refuseOwner sender code tag (refusedTable code body) u := by
  unfold takeBody
  rw [ht, ho]
  rfl

/-- A directive that is not the sender's to give, where the part takes it. -/
theorem directive_notOwner {sender : Sender} {tag : Half} {r : Request} (ha : accepts sender s)
    (ht : tableWrong r.code r.body = false) (ho : ownerWrong sender r.code r.body = true) :
    directive sender tag r s = refuseOwner sender r.code tag (refusedTable r.code r.body) (arrived sender s) :=
  (receive_accepted sender _ ha).trans (takeBody_notOwner tag ht ho)

/-- The rows of the table that are refused by the owner check. -/
theorem exec_notOwner {sender : Sender} {tag : Half} {c : Instr} {code table : Nat} (ha : accepts sender s)
    (h : (code = 2 ∧ ∃ (t index : Byte) (entry : List Byte), c = .writeTableRefused sender tag t index entry ∧
        table = t.toNat ∧ 1 ≤ table ∧ table ≤ 8 ∧ sender.ownsTable t = false) ∨
      (code = 5 ∧ table = 0 ∧ ∃ (ident : Byte) (value : BitVec 48) (p : Param), c = .writeParam sender tag ident value ∧
        Param.ofIdent ident.toNat = some p ∧ p.owner ≠ senderAuthority sender) ∨
      (code = 7 ∧ table = 0 ∧ senderAuthority sender = .loc ∧
        (c = .loopOff sender tag ∨ ∃ channel : Byte, c = .loopOn sender tag channel)) ∨
      (code = 9 ∧ table = 0 ∧ sender = .exch ∧
        (c = .quietEnter sender tag ∨ ∃ hitClear : Byte, c = .quietLeave sender tag hitClear))) :
    exec c s = .next (refuseOwner sender code tag table (arrived sender s)) := by
  have hrow {c : Instr} {r : Request} {code table : Nat} (hc : requestOf c = some (sender, tag, r)) (hcode : r.code = code)
      (ht : tableWrong r.code r.body = false) (ho : ownerWrong sender r.code r.body = true)
      (htable : refusedTable r.code r.body = table) :
      exec c s = .next (refuseOwner sender code tag table (arrived sender s)) := by
    rw [exec_eq, effect_directive hc, directive_notOwner ha ht ho, htable, hcode]
  rcases h with ⟨rfl, t, index, entry, rfl, rfl, h1, h8, ho⟩ | ⟨rfl, rfl, ident, value, p, rfl, hp, hown⟩ |
    ⟨rfl, rfl, hloc, hc⟩ | ⟨rfl, rfl, rfl, hc⟩
  · have htake := receive_accepted sender (takeBody sender 2 tag (t :: index :: entry)) ha
    rw [takeBody_notOwner tag ?_ (by simp [ownerWrong, mayWrite_eq, ho])] at htake
    · exact congrArg Host.Outcome.next htake
    · have h0 : (t == 0) = false := by
        rw [beq_eq_false_iff_ne]
        rintro rfl
        exact absurd h1 (by decide)
      simp only [tableWrong, h0, Bool.false_or, Bool.and_eq_false_iff, decide_eq_false_iff_not]
      exact .inr (by omega)
  · exact hrow (r := .writeParam ident value) rfl rfl rfl
      (by simp [ownerWrong, Request.code, Request.body, paramNotOwned, hp, hown]) rfl
  · rcases hc with rfl | ⟨channel, rfl⟩
    · exact hrow (r := .lineAction 7 0) rfl rfl rfl (by simp [ownerWrong, Request.code, Request.body, hloc]) rfl
    · exact hrow (r := .lineAction 6 channel) rfl rfl rfl (by simp [ownerWrong, Request.code, Request.body, hloc]) rfl
  · rcases hc with rfl | ⟨hitClear, rfl⟩
    · exact hrow (r := .quiet 1 0) rfl rfl rfl rfl rfl
    · exact hrow (r := .quiet 2 hitClear) rfl rfl rfl rfl rfl

/-- The report of a NOT_OWNER refusal: what it does before it is answered. -/
def ownerReported (a : Authority) (table : Nat) (s : State) : State :=
  s |> bump (Ctr.notOwner a) |> occurrence .directiveRefused (a.number * 256 + table)

theorem refuseOwner_eq (sender : Sender) (code : Nat) (tag : Half) (table : Nat) (s : State) :
    refuseOwner sender code tag table s =
      answerWith sender (replyCode code) tag (refuse .notOwner (ownerReported (senderAuthority sender) table s)) := rfl

theorem ownerReported_reports (a : Authority) (table : Nat) (s : State) : Reports s (ownerReported a table s) :=
  occurrence_reports _ _ (reports_bump (Reports.refl s))

theorem ownerReported_countsOnly (a : Authority) (table : Nat) (s : State) :
    countsOnly (Ctr.notOwner a :: reportCounters) s (ownerReported a table s) :=
  ((countsOnly.refl _ s).bump List.mem_cons_self).trans ((occurrence_countsOnly _ _ _).mono (List.subset_cons_self _ _))

theorem ownerReported_counted (a : Authority) (table : Nat) (s : State) :
    counted (Ctr.notOwner a) 1 s (ownerReported a table s) := by
  have hreport : Ctr.notOwner a ∉ reportCounters := by cases a <;> decide
  exact (occurrence_countsOnly _ _ _ _ hreport).trans (counter_bump_same s _)

/-- What the report leaves in the Fault Unit. -/
theorem ownerReported_faults (a : Authority) (table : Nat) (s : State) :
    (ownerReported a table s).fault .directiveRefused =
        (s.fault .directiveRefused).occurred false s.fu.uptime (a.number * 256 + table) ∧
      recordsOnly [.directiveRefused] s (ownerReported a table s) ∧
      entered .directiveRefused (s.fault .directiveRefused).exchLevel s.fu.uptime s.fu.exchList
        (ownerReported a table s).fu.exchList ∧
      (¬ noticesOffered s → entered .directiveRefused (s.fault .directiveRefused).locLevel s.fu.uptime s.fu.locList
        (ownerReported a table s).fu.locList) := by
  have hevent : FaultKind.directiveRefused.isCondition = true →
    ((bump (Ctr.notOwner a) s).fault .directiveRefused).active = false := fun h => nomatch h
  refine ⟨fault_occurrence_recorded hevent _, occurrence_recordsOnly .directiveRefused _ (bump (Ctr.notOwner a) s), ?_,
    fun ho => ?_⟩
  · rw [ownerReported, exchList_occurrence hevent]
    exact entered_listed _ _ _ _
  · have hl := (locList_occurrence_closed hevent (by simpa [noticesOffered] using ho) (a.number * 256 + table)).1
    rw [ownerReported, hl]
    exact entered_listed _ _ _ _

theorem notOwner_apart (sender : Sender) :
    Ctr.received (senderAuthority sender) ∉ Ctr.notOwner (senderAuthority sender) :: reportCounters ∧
      Status.notOwner.counter ∉ Ctr.notOwner (senderAuthority sender) :: reportCounters ∧
      Ctr.notOwner (senderAuthority sender) ∉ answerCounters sender .notOwner := by
  unfold answerCounters
  generalize senderAuthority sender = a
  cases a <;> decide

theorem authority_number (sender : Sender) : (senderAuthority sender).number = if sender = .exch then 2 else 1 := by
  cases sender <;> simp [senderAuthority, Authority.number]

/-- Settles O54: every one of them is refused by the owner check, which reports and answers. -/
theorem othersAreRefused : Obligations.OthersAreRefused := by
  intro sender tag c s code table ha hc
  refine ⟨_, exec_notOwner ha hc, ?_⟩
  rw [refuseOwner_eq]
  obtain ⟨hrec, hst, hno⟩ := notOwner_apart sender
  obtain ⟨hqueues, ⟨htable, hanswers, hquiet⟩, hmonitor⟩ :=
    ownerReported_reports (senderAuthority sender) table (arrived sender s)
  have hcounts := ownerReported_countsOnly (senderAuthority sender) table (arrived sender s)
  obtain ⟨hrecord, hrecords, hexch, hloc⟩ := ownerReported_faults (senderAuthority sender) table (arrived sender s)
  have hdu : (ownerReported (senderAuthority sender) table (arrived sender s)).du = seenBy sender s.du := by
    simp [ownerReported]
  have harr (k : FaultKind) := fault_arrived sender s k
  rw [authority_number] at hrecord
  simp only [fault_arrived, fu_arrived, noticesOffered, arrived_frame] at hrecord hexch hloc hmonitor htable hanswers hquiet hqueues
  have hfault := fun k => fault_congr (s := ownerReported (senderAuthority sender) table (arrived sender s))
    (t := answerWith sender (replyCode code) tag (refuse .notOwner (ownerReported (senderAuthority sender) table (arrived sender s))))
    (by simp [refuse]) k
  refine ⟨(hfault _).trans hrecord, fun k hk => (hfault k).trans ((hrecords k hk).trans (harr k)),
    by simpa [refuse] using hmonitor, by simpa [refuse] using hexch, fun ho => by simpa [refuse] using hloc ho,
    by simp [refuse, hdu], ?_, ?_, by simpa [refuse] using htable, by simpa [refuse] using hanswers,
    by simpa [refuse] using hquiet, ?_, ?_⟩
  · exact answerWith_replied (r := refuse .notOwner _) ha hqueues (by simp [refuse, hdu]) hcounts hrec hst
  · exact counted_answerWith (r := refuse .notOwner _) (ownerReported_counted _ _ _) hno
  · exact answered_changesOnly (r := refuse .notOwner _) (by decide)
      (by simp [refuse, ownerReported, changesOnly_iff, reportBlocks])
  · have hall := answered_countsOnly (code := replyCode code) (tag := tag) (r := refuse .notOwner _) hcounts
    refine hall.mono fun c hm => ?_
    simp only [refuse, List.mem_append, List.mem_cons, List.cons_append] at hm ⊢
    tauto

end Sys2Proof.Machine

/-! PROOFS. O37, O38 and O58: the local list drained as the home link has room, comes up, and as quiet is left. -/

namespace Sys2Proof.Machine

variable {s t u v : State} {cs : List Counter}

/-! ## The local list drained within a longer act (R177, R92) -/

theorem noticesJoined_congr (hs : v.fu = s.fu) (hfu : t.fu = u.fu) (hdu : t.du = u.du) :
    noticesJoined s t = noticesJoined v u := by
  simp only [noticesJoined, itemsJoined, hs, hfu]
  exact List.map_congr_left fun i _ => noticeItem_congr hdu (by rw [hfu]) i

/-- A drain seen from outside: from a state with the same lists, to one with the same lists, settings and link. -/
theorem Drained.within {before : List FifoItem} (h : Drained before v u) (hs : v.fu = s.fu) (hfu : t.fu = u.fu)
    (hdu : t.du = u.du) (hup : t.qm.homeUp = u.qm.homeUp) (hquiet : t.me.quiet = u.me.quiet)
    (hq : v.counter Ctr.locNoticesQueued = s.counter Ctr.locNoticesQueued ∧
      t.counter Ctr.locNoticesQueued = u.counter Ctr.locNoticesQueued)
    (hd : v.counter Ctr.noticeDeclined = s.counter Ctr.noticeDeclined ∧
      t.counter Ctr.noticeDeclined = u.counter Ctr.noticeDeclined) : Drained before s t := by
  have hitems : itemsJoined s t = itemsJoined v u := by simp only [itemsJoined, hs, hfu]
  have hnotices := noticesJoined_congr (s := s) (t := t) hs hfu hdu
  have hoffered : noticesOffered t ↔ noticesOffered u := by simp only [noticesOffered, hup, hquiet]
  obtain ⟨hqs, hqt⟩ := hq
  obtain ⟨hds, hdt⟩ := hd
  obtain ⟨hmonitor, hfront, hfits, hstopped, hclosed, hqueued, hdeclined⟩ := h
  rw [hs] at hmonitor hfront hclosed
  refine ⟨hfu ▸ hmonitor, ?_, ?_, fun ho i hi => ?_, fun ho => ?_, ?_, ?_⟩
  · rw [hitems, hfu]
    exact hfront
  · rw [hitems, hnotices]
    exact hfits
  · rw [hnotices, noticeItem_congr hdu (by rw [hfu])]
    exact hstopped (hoffered.1 ho) i (hfu ▸ hi)
  · rw [hfu]
    exact hclosed fun k => ho (hoffered.2 k)
  · rw [hitems]
    simpa only [countedIf, counted, hqs, hqt] using hqueued
  · rw [hfu]
    simpa only [countedIf, counted, hds, hdt, hoffered] using hdeclined

theorem noticesJoined_kinds (s t : State) : ∀ i ∈ noticesJoined s t, i.kind = .localNotice := by
  intro i hi
  obtain ⟨j, -, rfl⟩ := List.mem_map.1 hi
  rfl

/-- The counters of a drain (R184). -/
def drainCounters : List Counter := [Ctr.locNoticesQueued, Ctr.noticeDeclined]

theorem drainLocal_drainCounters (n : Nat) (s : State) : countsOnly drainCounters s (drainLocal n s) := by
  induction n generalizing s with
  | zero => exact .refl _ s
  | succ n ih =>
    unfold drainLocal
    split
    · split
      · exact .refl _ s
      · dsimp only
        split
        · exact (((countsOnly.refl _ s).congr (by simp)).bump (by decide)).trans (ih _)
        · exact (countsOnly.refl _ s).bump (by decide)
    · exact .refl _ s

theorem offerLocal_drainCounters (s : State) : countsOnly drainCounters s (offerLocal s) := drainLocal_drainCounters _ s

/-! ## Quiet (R187, R188) -/

theorem clearHits_get (l : Vector MatchEntry 32) (i : Fin 32) : vget (clearHits l) i =
    if (vget l i).wake = true then { vget l i with hits := 0 } else vget l i := by
  simp only [clearHits, vget, Vector.getElem_map]
  rfl

/-- The Match Engine as quiet is left (R188). -/
def quietLeft (clear : Bool) (m : MatchEngine) : MatchEngine :=
  { m with quiet := false, wake := false, table := if clear then clearHits m.table else m.table }

theorem quietLeaveAct_done {hitClear : Byte} (h : hitClear = 0 ∨ hitClear = 1) :
    quietLeaveAct hitClear s = doneWith [] (offerLocal (onMe (quietLeft (hitClear == 1)) s)) := by
  simp only [quietLeaveAct, flagOf_code h]
  rfl

theorem quietCounters_apart (a : Authority) : Ctr.received a ∉ [Ctr.quietEntries] ∧ Ctr.received a ∉ drainCounters := by
  cases a <;> decide

theorem quietEntries_notin {source : Mac} : Ctr.quietEntries ∉ answerCounters (.loc source) .done := by
  simp only [answerCounters, senderAuthority]
  decide

theorem drainCounters_unanswered {c : Counter} (hc : c ∈ drainCounters) : c ∉ statusCounters .done := by
  rcases List.mem_pair.1 hc with rfl | rfl <;> decide

/-- A local directive whose act ends in a drain: the notices stand ahead of its reply. -/
theorem drained_answered {source : Mac} {tag : Half} {code : Nat} (hfu : v.fu = s.fu) (hqm : v.qm = s.qm)
    (hdu : v.du = seenBy (.loc source) s.du) (hc : v.counters = (arrived (.loc source) s).counters) :
    let t := answerWith (.loc source) (replyCode code) tag (doneWith [] (offerLocal v))
    Drained s.qm.fifo s t ∧
      answeredAfter (noticesJoined s t) (.loc source) (replyMsg (replyCode code) tag .done []) s t ∧
      Replied (.loc source) code tag .done [] s t ∧
      countsOnly ([Ctr.locNoticesQueued, Ctr.noticeDeclined] ++ answerCounters (.loc source) .done) s t := by
  intro t
  have ha : accepts (.loc source) s := trivial
  obtain ⟨-, hapart⟩ := quietCounters_apart .loc
  obtain ⟨hdrained, hjoined⟩ := offerLocal_drained v
  have htfu : t.fu = (offerLocal v).fu := by simp [t, doneWith]
  have htdu : t.du = (offerLocal v).du := by simp [t, doneWith]
  have hcounts : countsOnly drainCounters (arrived (.loc source) s) (offerLocal v) :=
    ((countsOnly.refl _ _).congr hc).trans (offerLocal_drainCounters v)
  have hnotices : noticesJoined s t = noticesJoined v (offerLocal v) := noticesJoined_congr hfu htfu htdu
  have hbefore {c : Counter} (hm : c ∈ drainCounters) : v.counter c = s.counter c :=
    (counter_congr hc c).trans (arrived_countsOnly _ _ c fun k => hapart (List.mem_singleton.1 k ▸ hm))
  have hlater {c : Counter} (hm : c ∈ drainCounters) : t.counter c = (offerLocal v).counter c :=
    answerWith_countsOnly _ _ _ (doneWith [] (offerLocal v)) c (drainCounters_unanswered hm)
  have hqueue : (offerLocal v).qm = { s.qm with fifo := s.qm.fifo ++ noticesJoined s t } := by
    rw [hjoined, hqm, hnotices]
  have hmanager : (offerLocal v).du.manager = (seenBy (.loc source) s.du).manager := by simp [hdu]
  have hafter : answeredAfter (noticesJoined s t) (.loc source) (replyMsg (replyCode code) tag .done []) s t :=
    answerWith_after ha hqueue hmanager
  have hup : t.qm.homeUp = (offerLocal v).qm.homeUp := by
    have htqm : t.qm = _ := hafter
    rw [htqm, hqueue]
  rw [hqm] at hdrained
  exact ⟨hdrained.within hfu htfu htdu hup (by simp [t, doneWith])
      ⟨hbefore (by decide), hlater (by decide)⟩ ⟨hbefore (by decide), hlater (by decide)⟩,
    hafter,
    done_replied ha ⟨_, noticesJoined_kinds s t, hqueue⟩ hmanager hcounts hapart (by decide),
    answered_countsOnly (r := doneWith [] (offerLocal v)) hcounts⟩

/-- Settles O58: ENTER by the host address and the flag, LEAVE by its hit-clear code; a leave drains the local list. -/
theorem quietEntersAndLeaves : Obligations.QuietEntersAndLeaves := by
  intro source tag s
  have ha : accepts (.loc source) s := trivial
  obtain ⟨hentries, hdrain⟩ := quietCounters_apart .loc
  have henter {status : Status} {body : Bytes} (h : quietEnterAct (arrived (.loc source) s) =
      { state := arrived (.loc source) s, status := status, body := body }) :=
    exec_onlyAnswered (c := .quietEnter (.loc source) tag) rfl ha rfl rfl (by simp) h
  have hhost : (arrived (.loc source) s).param .hostAddress = s.param .hostAddress := arrived_param _ _ _
  have hme : (arrived (.loc source) s).me = s.me := by simp
  refine ⟨fun h0 => henter ?_, fun h0 hq => henter ?_, fun h0 hq => ?_, fun hitClear => ⟨fun h0 h1 => ?_, fun h => ?_⟩⟩
  · simp only [quietEnterAct, hhost, h0, if_true]
    rfl
  · simp only [quietEnterAct, hhost, if_neg h0, hme, hq, if_true]
    rfl
  · refine ⟨_, exec_answers rfl ha rfl rfl (by simp), ?_⟩
    have hact : act (.loc source) tag (.quiet 1 0) (arrived (.loc source) s) = doneWith []
        (bump Ctr.quietEntries (onMe (fun m => { m with quiet := true, wake := false }) (arrived (.loc source) s))) := by
      simp only [act, quietAct, if_true, quietEnterAct, hhost, if_neg h0, hme, hq, Bool.false_eq_true, if_false]
    rw [hact]
    have hcounts : countsOnly [Ctr.quietEntries] (arrived (.loc source) s)
        (bump Ctr.quietEntries (onMe (fun m => { m with quiet := true, wake := false }) (arrived (.loc source) s))) :=
      ((countsOnly.refl _ _).congr (by simp)).bump (by simp)
    refine ⟨by simp [doneWith], ?_, ⟨by simp [doneWith], ?_⟩, by simp [changesOnly_iff, doneWith],
      answered_countsOnly (r := doneWith [] _) hcounts⟩
    · refine counted_answerWith (r := doneWith [] _) ?_ quietEntries_notin
      exact counter_bump_same (onMe _ (arrived (.loc source) s)) Ctr.quietEntries
    · exact done_replied ha (onlyNotices_of_eq (by simp)) (by simp) hcounts hentries (by decide)
  · refine exec_onlyAnswered (c := .quietLeave (.loc source) tag hitClear) rfl ha rfl rfl (by simp) ?_
    simp only [act, quietAct, quietLeaveAct, flagOf_none h0 h1]
    rfl
  · refine ⟨_, exec_answers rfl ha rfl rfl (by simp), ?_⟩
    have hact : act (.loc source) tag (.quiet 2 hitClear) (arrived (.loc source) s) = _ := quietLeaveAct_done h
    rw [hact]
    obtain ⟨hdrained, hafter, hreply, hcounts⟩ := drained_answered (s := s) (source := source) (tag := tag) (code := 9)
      (v := onMe (quietLeft (hitClear == 1)) (arrived (.loc source) s)) (by simp) (by simp) (by simp) (by simp)
    refine ⟨by simp [doneWith, quietLeft], fun i => ?_, hdrained, ⟨by simp [doneWith], hreply⟩, hafter,
      by simp [changesOnly_iff, doneWith], hcounts⟩
    simp only [doneWith, answerWith_frame, offerLocal_frame, onMe_me, hme, quietLeft]
    rcases h with rfl | rfl
    · simp
    · simp [clearHits_get]

/-! ## The home port (R73, R91, R93) -/

/-- An act that ends in a drain, seen whole: before the drain it has left the lists, the settings and the drain's counters alone. -/
theorem drained_act (hfu : v.fu = s.fu) (hc : countsOnly cs s v) (hq : Ctr.locNoticesQueued ∉ cs)
    (hd : Ctr.noticeDeclined ∉ cs) : Drained v.qm.fifo s (offerLocal v) ∧
      (offerLocal v).qm = { v.qm with fifo := v.qm.fifo ++ noticesJoined s (offerLocal v) } := by
  obtain ⟨hdrained, hqm⟩ := offerLocal_drained v
  refine ⟨hdrained.within hfu rfl rfl rfl rfl ⟨hc _ hq, rfl⟩ ⟨hc _ hd, rfl⟩, ?_⟩
  rw [noticesJoined_congr hfu rfl rfl]
  exact hqm

/-- The front item as it leaves (R91), before the local list is offered again. -/
def itemLeft (i : FifoItem) (rest : List FifoItem) (s : State) : State :=
  s |> sendHome (onWire i.bytes) |> onQm (fun q => { q with fifo := rest }) |> bump (Ctr.itemsSent i.kind)

theorem itemSent_eq {i : FifoItem} {rest : List FifoItem} (hup : s.qm.homeUp = true) (h : s.qm.fifo = i :: rest) :
    itemSent s = offerLocal (itemLeft i rest s) := by
  simp only [itemSent, hup, if_true, h]
  rfl

theorem itemsSent_notin_drain (k : FifoKind) : Ctr.itemsSent k ∉ drainCounters := by
  cases k <;> decide

/-- Settles O37: the front item leaves, then the local list drains into the room. -/
theorem homeItemsLeaveInOrder : Obligations.HomeItemsLeaveInOrder := by
  intro s i rest hup hfifo
  refine ⟨offerLocal (itemLeft i rest s), congrArg Host.Outcome.next (itemSent_eq hup hfifo), ?_⟩
  have hcounts : countsOnly [Ctr.itemsSent i.kind] s (itemLeft i rest s) :=
    ((countsOnly.refl _ s).congr (by simp [sendHome])).bump (List.mem_singleton_self _)
  have hdrain := offerLocal_drainCounters (itemLeft i rest s)
  have hapart := itemsSent_notin_drain i.kind
  obtain ⟨hdrained, hqm⟩ := drained_act (s := s) (v := itemLeft i rest s) (by simp [itemLeft, sendHome]) hcounts
    (fun h => hapart (by simp [drainCounters, ← List.mem_singleton.1 h]))
    (fun h => hapart (by simp [drainCounters, ← List.mem_singleton.1 h]))
  have hrest : (itemLeft i rest s).qm = { s.qm with fifo := rest } := by simp [itemLeft, sendHome]
  rw [hrest] at hqm hdrained
  refine ⟨by simp [itemLeft, sendHome, onWire], hqm, hdrained, ?_, ?_, ?_⟩
  · exact (hdrain _ hapart).trans (counter_bump_same _ _)
  · simp [changesOnly_iff, itemLeft, sendHome]
  · exact (hcounts.mono (by simp)).trans (hdrain.mono (List.subset_cons_self _ _))

/-- The items lost when the home link goes down, counted (R93). -/
def lostItems (l : List FifoItem) (s : State) : State := l.foldl (fun s i => bump (Ctr.lostLinkDown i.kind) s) s

theorem lostLinkDown_inj {j k : FifoKind} : Ctr.lostLinkDown j = Ctr.lostLinkDown k ↔ j = k := by
  cases j <;> cases k <;> decide

theorem counter_lostItems (k : FifoKind) (l : List FifoItem) (h : s.counter (Ctr.lostLinkDown k) ≤ Config.max32) :
    counted (Ctr.lostLinkDown k) (l.countP (·.kind == k)) s (lostItems l s) := by
  unfold counted
  induction l generalizing s with
  | nil => exact (min_eq_left h).symm
  | cons i l ih =>
    have hnext : (bump (Ctr.lostLinkDown i.kind) s).counter (Ctr.lostLinkDown k) =
        if i.kind = k then satAdd Config.max32 (s.counter (Ctr.lostLinkDown k)) 1 else s.counter (Ctr.lostLinkDown k) := by
      rw [counter_bump_if]
      simp only [lostLinkDown_inj]
    have hle : (bump (Ctr.lostLinkDown i.kind) s).counter (Ctr.lostLinkDown k) ≤ Config.max32 := by
      rw [hnext]
      split
      · exact satAdd_le _ _ _
      · exact h
    have hrest : (lostItems (i :: l) s).counter (Ctr.lostLinkDown k) = _ := ih hle
    rw [hrest, hnext, List.countP_cons]
    by_cases hk : i.kind = k
    · simp only [if_pos hk, beq_iff_eq.2 hk]
      exact satAdd_satAdd _ _ _
    · simp [hk]

theorem lostItems_countsOnly (l : List FifoItem) (s : State) : countsOnly [Ctr.lostLinkDown .delivered,
    Ctr.lostLinkDown .localReply, Ctr.lostLinkDown .localNotice, Ctr.lostLinkDown .arpAnswer] s (lostItems l s) := by
  induction l generalizing s with
  | nil => exact .refl _ s
  | cons i l ih =>
    refine ((countsOnly.refl _ s).bump ?_).trans (ih (bump (Ctr.lostLinkDown i.kind) s))
    cases i.kind <;> decide

/-- Settles O38: up drains, down discards and counts. -/
theorem homeLinkChanges : Obligations.HomeLinkChanges := by
  intro s
  refine ⟨⟨homeUp s, rfl, ?_⟩, ⟨homeDown s, rfl, ?_⟩⟩
  · obtain ⟨hdrained, hqm⟩ := drained_act (s := s) (v := onQm (fun q => { q with homeUp := true }) s) (cs := []) (by simp)
      ((countsOnly.refl _ s).congr (by simp)) (by simp) (by simp)
    refine ⟨hqm, hdrained, by simp [changesOnly_iff], ?_⟩
    exact ((countsOnly.refl _ s).congr (by simp)).trans (offerLocal_drainCounters (onQm (fun q => { q with homeUp := true }) s))
  · have hcounters : (onQm (fun q => { q with homeUp := false, fifo := [] }) s).counters = s.counters := by simp
    refine ⟨?_, fun k hk => ?_, by simp [changesOnly_iff], ?_⟩
    · obtain ⟨-, -, -, -, -, hqm, -⟩ := lostItems_frame s.qm.fifo (onQm (fun q => { q with homeUp := false, fifo := [] }) s) _ rfl
      exact hqm.trans (by simp)
    · exact counter_lostItems k s.qm.fifo (s := onQm (fun q => { q with homeUp := false, fifo := [] }) s) hk
    · exact ((countsOnly.refl _ s).congr hcounters).trans (lostItems_countsOnly s.qm.fifo _)

end Sys2Proof.Machine

/-! PROOFS. O36: a frame at the home port, up and down. Each of the model's steps is said once as a condition of the statement: the hit
counted, the class taken, the ARP request answered, the frame queued or refused. -/

namespace Sys2Proof.Machine

variable {s t u v : State} {f : Bytes}

/-! ## The class action upstream (R83, R86, R87) -/

theorem reports_of_eq (hq : t.qm = s.qm) (hm : t.me = s.me) (hf : t.fu = s.fu) : Reports s t :=
  ⟨⟨[], by simp [hq]⟩, ⟨by rw [hm], by rw [hm], by rw [hm]⟩, by rw [hf]⟩

/-- The bytes of a queue with one more frame (R85, R86). -/
def bytesWith (q : List Bytes) (f : Bytes) : Nat := (q.map List.length).sum + f.length

theorem refusedBy_none_iff {frames bytes : Nat} {q : List Bytes} (hf : q.length < frames) (hb : bytesWith q f ≤ bytes) :
    refusedBy frames bytes q f = none := by
  have hb' : queueBytes q + f.length ≤ bytes := hb
  unfold refusedBy
  rw [if_neg (by omega), if_neg (by omega)]

theorem refusedBy_some {frames bytes : Nat} {q : List Bytes} (h : frames ≤ q.length ∨ bytes < bytesWith q f) :
    refusedBy frames bytes q f = some (if frames ≤ q.length then 1 else 2) := by
  unfold refusedBy
  by_cases hf : frames ≤ q.length
  · rw [if_pos (by omega), if_pos hf]
  · have hb : bytes < queueBytes q + f.length := h.resolve_left hf
    rw [if_neg (by omega), if_neg hf, if_pos hb]

theorem offerPriority_joins (hf : s.qm.priority.length < 64) (hb : bytesWith s.qm.priority f ≤ 16384) :
    offerPriority f s = bump Ctr.priorityQueued (onQm (fun q => { q with priority := q.priority ++ [f] }) s) := by
  unfold offerPriority
  rw [refusedBy_none_iff hf hb]

theorem offerPriority_refused (h : 64 ≤ s.qm.priority.length ∨ 16384 < bytesWith s.qm.priority f) :
    offerPriority f s = occurrence .priorityDrop (if 64 ≤ s.qm.priority.length then 1 else 2) (bump Ctr.priorityTailDrops s) := by
  unfold offerPriority
  rw [refusedBy_some h]

theorem onBattery_iff : s.onBattery = true ↔ s.fu.power ≠ .mains := by
  simp [State.onBattery]

theorem offerBulk_shed (h : s.fu.power ≠ .mains) : offerBulk f s = occurrence .bulkDrop 3 (bump Ctr.bulkShed s) := by
  unfold offerBulk
  rw [if_pos (onBattery_iff.2 h)]

theorem offerBulk_joins (hp : s.fu.power = .mains) (hf : s.qm.bulk.length < 128) (hb : bytesWith s.qm.bulk f ≤ 32768) :
    offerBulk f s = bump Ctr.bulkQueued (onQm (fun q => { q with bulk := q.bulk ++ [f] }) s) := by
  unfold offerBulk
  rw [if_neg fun h => onBattery_iff.1 h hp, refusedBy_none_iff hf hb]

theorem offerBulk_refused (hp : s.fu.power = .mains) (h : 128 ≤ s.qm.bulk.length ∨ 32768 < bytesWith s.qm.bulk f) :
    offerBulk f s = occurrence .bulkDrop (if 128 ≤ s.qm.bulk.length then 1 else 2) (bump Ctr.bulkTailDrops s) := by
  unfold offerBulk
  rw [if_neg fun h => onBattery_iff.1 h hp, refusedBy_some h]

/-! ## An upstream frame matched (R80) -/

/-- The Match Table with the hit of a match counted (R80). -/
def hitTable (found : Option (Fin 32)) (m : MatchEngine) : Vector MatchEntry 32 :=
  match found with
  | some i => vset m.table i { vget m.table i with hits := satAdd Config.max32 (vget m.table i).hits 1 }
  | none => m.table

theorem countHit_eq (found : Option (Fin 32)) (s : State) :
    countHit found s = onMe (fun m => { m with table := hitTable found m }) s := by
  cases found <;> rfl

/-- Whether the entry found forwards while quiet (R189, R192). -/
def State.forwards (s : State) (found : Option (Fin 32)) : Bool :=
  match found with
  | some i => (vget s.me.table i).forward
  | none => false

theorem hitTable_get (found : Option (Fin 32)) (m : MatchEngine) (i : Fin 32) :
    ∃ n, vget (hitTable found m) i = { vget m.table i with hits := n } := by
  cases found with
  | none => exact ⟨_, rfl⟩
  | some j =>
    simp only [hitTable, vget_vset]
    split
    · next h => exact ⟨_, by rw [h]⟩
    · exact ⟨_, rfl⟩

/-- A hit counted changes no field but the count. -/
theorem forwards_countHit (found j : Option (Fin 32)) (s : State) : (countHit found s).forwards j = s.forwards j := by
  cases j with
  | none => rfl
  | some i =>
    obtain ⟨n, hn⟩ := hitTable_get found s.me i
    simp [State.forwards, countHit_eq, hn]

theorem arpRecord_countHit (found j : Option (Fin 32)) (f : Bytes) (s : State) :
    (countHit found s).arpRecord j f = s.arpRecord j f := by
  cases j with
  | none => rfl
  | some i =>
    obtain ⟨n, hn⟩ := hitTable_get found s.me i
    simp [State.arpRecord, countHit_eq, hn]

/-- The record that answers a frame while the part is quiet, where one does (R192). -/
def State.answerFor (s : State) (found : Option (Fin 32)) (f : Bytes) : Option AnswerRecord :=
  if s.me.quiet ∧ isArpRequest f then s.arpRecord found f else none

theorem upstream_eq (f : Bytes) (s : State) : upstream f s =
    match s.answerFor (s.matchFor true (parseFrame f)) f with
    | none => classUpstream (s.classFor true (s.matchFor true (parseFrame f))) f
        (countHit (s.matchFor true (parseFrame f)) s)
    | some r =>
      let v := countHit (s.matchFor true (parseFrame f)) s |> bump Ctr.arpAnswers |> offerFifo .arpAnswer (arpAnswer r f)
      if s.forwards (s.matchFor true (parseFrame f)) then
        classUpstream (s.classFor true (s.matchFor true (parseFrame f))) f v
      else bump Ctr.quietDiscarded v := by
  generalize hfound : s.matchFor true (parseFrame f) = found
  have hquiet : (countHit found s).me.quiet = s.me.quiet := by simp [countHit_eq]
  have harp := arpRecord_countHit found found f s
  have hforward := forwards_countHit found found s
  have hup : upstream f s = match (if (countHit found s).me.quiet ∧ isArpRequest f then (countHit found s).arpRecord found f else none) with
    | none => classUpstream (s.classFor true found) f (countHit found s)
    | some r =>
      let v := countHit found s |> bump Ctr.arpAnswers |> offerFifo .arpAnswer (arpAnswer r f)
      if (countHit found s).forwards found then classUpstream (s.classFor true found) f v else bump Ctr.quietDiscarded v := by
    rw [← hfound]
    rfl
  rw [hup, hquiet, harp, hforward]
  rfl

/-! ## ARP answers (R192, R221) -/

theorem be32_natOf {l : Bytes} (h : l.length = 4) : be32 (natOf l) = l := by
  obtain ⟨a, b, c, d, rfl⟩ : ∃ a b c d, l = [a, b, c, d] := by
    match l, h with
    | [a, b, c, d], _ => exact ⟨a, b, c, d, rfl⟩
  have ha := a.isLt
  have hb := b.isLt
  have hc := c.isLt
  have hd := d.isLt
  simp only [be32, natOf, List.foldl_cons, List.foldl_nil, List.cons.injEq, and_true]
  refine ⟨?_, ?_, ?_, ?_⟩ <;>
  · refine BitVec.eq_of_toNat_eq ?_
    rw [byteOf_toNat]
    omega

theorem natOf_eq_iff {l : Bytes} (h : l.length = 4) (ip : Ip) : natOf l = ip.toNat ↔ l = be32 ip.toNat := by
  refine ⟨fun e => ?_, fun e => ?_⟩
  · rw [← e, be32_natOf h]
  · rw [e, natOf_be32 _ ip.isLt]

theorem isArpRequest_iff (f : Bytes) : isArpRequest f = true ↔ numAt f (typeOffset f) 2 = some 0x0806 ∧
    28 ≤ (payloadOf f).length ∧ (payloadOf f).take 8 = [0, 1, 8, 0, 6, 4, 0, 1] := by
  simp [isArpRequest, and_assoc]

/-- What makes a record the answer to a frame (R192). -/
theorem answerFor_iff {found : Option (Fin 32)} {r : AnswerRecord} : s.answerFor found f = some r ↔
    s.me.quiet = true ∧ numAt f (typeOffset f) 2 = some 0x0806 ∧ 28 ≤ (payloadOf f).length ∧
      (payloadOf f).take 8 = [0, 1, 8, 0, 6, 4, 0, 1] ∧ r.valid = true ∧
      ((payloadOf f).drop 24).take 4 = be32 r.ip.toNat ∧
      ∃ i k, found = some i ∧ (vget s.me.table i).answer = some k ∧ vget s.me.answers k = r := by
  unfold State.answerFor
  by_cases hreq : s.me.quiet = true ∧ isArpRequest f = true
  · obtain ⟨hq, ha⟩ := hreq
    obtain ⟨htype, hlen, hhead⟩ := (isArpRequest_iff f).1 ha
    have h4 : (((payloadOf f).drop 24).take 4).length = 4 := by
      simp only [List.length_take, List.length_drop]
      omega
    have hip (r : AnswerRecord) := natOf_eq_iff h4 r.ip
    rw [if_pos ⟨hq, ha⟩]
    simp only [hq, htype, hlen, hhead, true_and]
    constructor
    · intro h
      unfold State.arpRecord at h
      split at h
      · cases h
      · next i =>
        split at h
        · cases h
        · next k hk =>
          simp only [hip] at h
          split at h
          · next hv =>
            cases h
            exact ⟨hv.1, hv.2, i, k, rfl, hk, rfl⟩
          · cases h
    · rintro ⟨hv, hb, i, k, rfl, hk, rfl⟩
      simp only [State.arpRecord, hk, hip]
      exact if_pos ⟨hv, hb⟩
  · rw [if_neg hreq]
    refine ⟨fun h => (nomatch h), ?_⟩
    rintro ⟨hq, htype, hlen, hhead, -⟩
    exact absurd ⟨hq, (isArpRequest_iff f).2 ⟨htype, hlen, hhead⟩⟩ hreq

theorem arpAnswer_eq (r : AnswerRecord) (f : Bytes) : arpAnswer r f =
    ((payloadOf f).drop 8).take 6 ++ be48 r.hw.toNat ++ (if numAt f 12 2 = some 0x8100 then (f.drop 12).take 4 else []) ++
      [8, 6, 0, 1, 8, 0, 6, 4, 0, 2] ++ be48 r.hw.toNat ++ be32 r.ip.toNat ++ ((payloadOf f).drop 8).take 6 ++
      ((payloadOf f).drop 14).take 4 := by
  have htag : isTagged f = true ↔ numAt f 12 2 = some 0x8100 := by simp [isTagged]
  have htype : be16 0x0806 = [8, 6] := by decide
  simp [arpAnswer, htag, htype]

/-! ## What the class action leaves (R83, R86, R87) -/

/-- A counter bumped once in the middle of an act. -/
theorem counted_within {c : Counter} {cs ds : List Counter} (h : countsOnly cs s u) (hc : c ∉ cs)
    (k : countsOnly ds (bump c u) t) (hd : c ∉ ds) : counted c 1 s t := by
  have hbump : (bump c u).counter c = satAdd Config.max32 (u.counter c) 1 := counter_bump_same u c
  rw [counted, k c hd, hbump, h c hc]

/-- A counter that a later act leaves alone. -/
theorem counted_then {c : Counter} {n : Nat} {ds : List Counter} (h : counted c n s u) (k : countsOnly ds u t) (hd : c ∉ ds) :
    counted c n s t := (k c hd).trans h

/-- A counter that an earlier act has left alone. -/
theorem counted_after {c : Counter} {n : Nat} {cs : List Counter} (h : countsOnly cs s u) (hc : c ∉ cs) (k : counted c n u t) :
    counted c n s t := by
  rw [counted, k, h c hc]

theorem countedIf_then {p : Prop} {c : Counter} {n : Nat} {ds : List Counter} (h : countedIf p c n s u) (k : countsOnly ds u t)
    (hd : c ∉ ds) : countedIf p c n s t :=
  ⟨fun hp => counted_then (h.1 hp) k hd, fun hp => (k c hd).trans (h.2 hp)⟩

theorem countedIf_after {p : Prop} {c : Counter} {n : Nat} {cs : List Counter} (h : countsOnly cs s u) (hc : c ∉ cs)
    (k : countedIf p c n u t) : countedIf p c n s t :=
  ⟨fun hp => counted_after h hc (k.1 hp), fun hp => (k.2 hp).trans (h c hc)⟩

/-- The counters of the class action but the drop's. -/
def queueCounters : List Counter :=
  [Ctr.priorityTailDrops, Ctr.priorityQueued, Ctr.bulkShed, Ctr.bulkTailDrops, Ctr.bulkQueued] ++ reportCounters

theorem reportCounters_subset_queue : reportCounters ⊆ queueCounters := List.subset_append_right _ _

theorem offerPriority_countsOnly (f : Bytes) (s : State) : countsOnly queueCounters s (offerPriority f s) := by
  unfold offerPriority
  split
  · exact ((countsOnly.refl _ s).bump (by decide)).trans ((occurrence_countsOnly _ _ _).mono reportCounters_subset_queue)
  · exact ((countsOnly.refl _ s).congr (by simp)).bump (by decide)

theorem offerBulk_countsOnly (f : Bytes) (s : State) : countsOnly queueCounters s (offerBulk f s) := by
  unfold offerBulk
  split
  · exact ((countsOnly.refl _ s).bump (by decide)).trans ((occurrence_countsOnly _ _ _).mono reportCounters_subset_queue)
  · split
    · exact ((countsOnly.refl _ s).bump (by decide)).trans ((occurrence_countsOnly _ _ _).mono reportCounters_subset_queue)
    · exact ((countsOnly.refl _ s).congr (by simp)).bump (by decide)

theorem classUpstream_dropped (c : FrameClass) (f : Bytes) (s : State) :
    countedIf (c = .drop) Ctr.upDropped 1 s (classUpstream c f s) := by
  cases c with
  | priority => exact ⟨fun h => (nomatch h), fun _ => offerPriority_countsOnly f s _ (by decide)⟩
  | bulk => exact ⟨fun h => (nomatch h), fun _ => offerBulk_countsOnly f s _ (by decide)⟩
  | drop => exact ⟨fun _ => counter_bump_same s _, fun h => absurd rfl h⟩

theorem classUpstream_countsOnly (c : FrameClass) (f : Bytes) (s : State) :
    countsOnly (Ctr.upDropped :: queueCounters) s (classUpstream c f s) := by
  cases c with
  | priority => exact (offerPriority_countsOnly f s).mono (List.subset_cons_self _ _)
  | bulk => exact (offerBulk_countsOnly f s).mono (List.subset_cons_self _ _)
  | drop => exact (countsOnly.refl _ s).bump List.mem_cons_self

/-- While quiet a refusal's report puts no notice into the queues (R177). -/
theorem qm_refused {k : FaultKind} (hk : k.isCondition = false) (ho : ¬ noticesOffered s) (c : Counter) (d : Nat) :
    (occurrence k d (bump c s)).qm = s.qm :=
  (locList_occurrence_closed (s := bump c s) (fun h => by simp [hk] at h) (by simpa [noticesOffered] using ho) d).2.trans
    (by simp)

theorem qm_classUpstream (ho : ¬ noticesOffered s) (c : FrameClass) (f : Bytes) : (classUpstream c f s).qm = { s.qm with
      priority := s.qm.priority ++
        (if c = .priority ∧ s.qm.priority.length < 64 ∧ bytesWith s.qm.priority f ≤ 16384 then [f] else []),
      bulk := s.qm.bulk ++ (if c = .bulk ∧ s.fu.power = .mains ∧ s.qm.bulk.length < 128 ∧
        bytesWith s.qm.bulk f ≤ 32768 then [f] else []) } := by
  cases c with
  | priority =>
    by_cases hfit : s.qm.priority.length < 64 ∧ bytesWith s.qm.priority f ≤ 16384
    · simp [classUpstream, offerPriority_joins hfit.1 hfit.2, hfit]
    · rw [classUpstream, offerPriority_refused (by omega), qm_refused rfl ho]
      simp [hfit]
  | bulk =>
    by_cases hp : s.fu.power = .mains
    · by_cases hfit : s.qm.bulk.length < 128 ∧ bytesWith s.qm.bulk f ≤ 32768
      · simp [classUpstream, offerBulk_joins hp hfit.1 hfit.2, hfit, hp]
      · rw [classUpstream, offerBulk_refused hp (by omega), qm_refused rfl ho]
        simp [hfit]
    · rw [classUpstream, offerBulk_shed hp, qm_refused rfl ho]
      simp [hp]
  | drop => simp [classUpstream]

/-! ## HOME_FRAME_RECEIVED (R74, R75) -/

/-- An upstream frame that has passed both checks and been matched: counted, its entry's hit with it. -/
def matchedUp (f : Bytes) (s : State) : State := countHit (s.matchFor true (parseFrame f)) (bump Ctr.framesReceived s)

theorem homeFrameTaken_data {f : Bytes} (h : numAt f (typeOffset f) 2 ≠ some 0x9A21) : homeFrameTaken f s =
    match s.answerFor (s.matchFor true (parseFrame f)) f with
    | none => classUpstream (s.classFor true (s.matchFor true (parseFrame f))) f (matchedUp f s)
    | some r =>
      let v := matchedUp f s |> bump Ctr.arpAnswers |> offerFifo .arpAnswer (arpAnswer r f)
      if s.forwards (s.matchFor true (parseFrame f)) then
        classUpstream (s.classFor true (s.matchFor true (parseFrame f))) f v
      else bump Ctr.quietDiscarded v := by
  have htaken : homeFrameTaken f s = upstream f (bump Ctr.framesReceived s) := if_neg h
  rw [htaken, upstream_eq]
  rfl

theorem matchedUp_frame (f : Bytes) (s : State) :
    changesOnly [.matchEngine, .counters] s (matchedUp f s) ∧
      (matchedUp f s).me = { s.me with table := hitTable (s.matchFor true (parseFrame f)) s.me } ∧
      counted Ctr.framesReceived 1 s (matchedUp f s) ∧ countsOnly [Ctr.framesReceived] s (matchedUp f s) := by
  have hcounters : (matchedUp f s).counters = (bump Ctr.framesReceived s).counters := by simp [matchedUp, countHit_eq]
  refine ⟨by simp [changesOnly_iff, matchedUp, countHit_eq], by simp [matchedUp, countHit_eq], ?_, ?_⟩
  · exact (counter_congr hcounters _).trans (counter_bump_same s _)
  · exact ((countsOnly.refl _ s).bump (List.mem_singleton_self _)).congr hcounters

/-- A frame offered to the FIFO in the middle of an act that leaves the FIFO and the offer's counters alone. -/
theorem offeredTo.within {kind : FifoKind} {frame : Bytes} {cs ds : List Counter} (h : offeredTo kind frame u v)
    (hu : u.qm = s.qm) (ht : t.qm = v.qm) (hc : countsOnly cs s u) (hcs : Ctr.lostLinkDown kind ∉ cs ∧ Ctr.fifoFull kind ∉ cs)
    (hd : countsOnly ds v t) (hds : Ctr.lostLinkDown kind ∉ ds ∧ Ctr.fifoFull kind ∉ ds) : offeredTo kind frame s t := by
  obtain ⟨hqm, hdown, hfull⟩ := h
  rw [hu] at hqm hdown hfull
  exact ⟨ht.trans hqm, countedIf_then (countedIf_after hc hcs.1 hdown) hd hds.1,
    countedIf_then (countedIf_after hc hcs.2 hfull) hd hds.2⟩

/-- An ARP request answered and not forwarded (R192). -/
theorem arpAnswered_discarded {f : Bytes} {r : AnswerRecord} :
    let t := bump Ctr.quietDiscarded (matchedUp f s |> bump Ctr.arpAnswers |> offerFifo .arpAnswer (arpAnswer r f))
    offeredTo .arpAnswer (arpAnswer r f) s t ∧ counted Ctr.framesReceived 1 s t ∧ counted Ctr.arpAnswers 1 s t ∧
      counted Ctr.quietDiscarded 1 s t ∧ changesOnly [.matchEngine, .queues, .counters] s t ∧
      countsOnly ([Ctr.framesReceived, Ctr.arpAnswers, Ctr.quietDiscarded] ++ offerCounters .arpAnswer) s t := by
  intro t
  obtain ⟨hframe, -, hreceived, hcounts⟩ := matchedUp_frame f s
  have hoffer := offerFifo_offered .arpAnswer (arpAnswer r f) (bump Ctr.arpAnswers (matchedUp f s))
  have hoffered := offerFifo_countsOnly .arpAnswer (arpAnswer r f) (bump Ctr.arpAnswers (matchedUp f s))
  have hbumped : countsOnly [Ctr.framesReceived, Ctr.arpAnswers] s (bump Ctr.arpAnswers (matchedUp f s)) :=
    (hcounts.mono (by decide)).bump (by decide)
  have hlast : countsOnly ([Ctr.quietDiscarded] ++ offerCounters .arpAnswer) (bump Ctr.arpAnswers (matchedUp f s)) t :=
    (hoffered.mono (by decide)).bump (by decide)
  have hmatched : countsOnly ([Ctr.arpAnswers, Ctr.quietDiscarded] ++ offerCounters .arpAnswer) (matchedUp f s) t :=
    ((countsOnly.refl _ _).bump (by decide)).trans (hlast.mono (by decide))
  refine ⟨hoffer.within (cs := [Ctr.framesReceived, Ctr.arpAnswers]) (ds := [Ctr.quietDiscarded])
      ((bump_qm _ _).trans (hframe .queues (by decide))) (bump_qm _ _) hbumped (by decide)
      ((countsOnly.refl _ _).bump (by decide)) (by decide), counted_then hreceived hmatched (by decide),
    counted_within hcounts (by decide) hlast (by decide), ?_, ?_, ?_⟩
  · refine counted_within (c := Ctr.quietDiscarded) (u := offerFifo .arpAnswer (arpAnswer r f) (bump Ctr.arpAnswers (matchedUp f s)))
      (cs := [Ctr.framesReceived, Ctr.arpAnswers] ++ offerCounters .arpAnswer) ?_ (by decide) (countsOnly.refl [] _) (by decide)
    exact (hbumped.mono (by decide)).trans (hoffered.mono (by decide))
  · refine (hframe.mono (by decide)).trans ?_
    simp [changesOnly_iff, t]
  · exact (hcounts.mono (by decide)).trans (hmatched.mono (by decide))

/-- An ARP request answered and forwarded to the queue of its class (R192, R83). -/
theorem arpAnswered_forwarded {f : Bytes} {r : AnswerRecord} (hup : s.qm.homeUp = true) (hquiet : s.me.quiet = true)
    (c : FrameClass) :
    let t := classUpstream c f (matchedUp f s |> bump Ctr.arpAnswers |> offerFifo .arpAnswer (arpAnswer r f))
    counted Ctr.framesReceived 1 s t ∧ counted Ctr.arpAnswers 1 s t ∧
      t.qm = { s.qm with priority := t.qm.priority, bulk := t.qm.bulk, fifo := s.qm.fifo ++
        (if itemBytes s.qm.fifo + (arpAnswer r f).length ≤ 24576 then [{ kind := .arpAnswer, bytes := arpAnswer r f }] else []) } ∧
      t.qm.priority = s.qm.priority ++
        (if c = .priority ∧ s.qm.priority.length < 64 ∧ bytesWith s.qm.priority f ≤ 16384 then [f] else []) ∧
      t.qm.bulk = s.qm.bulk ++
        (if c = .bulk ∧ s.fu.power = .mains ∧ s.qm.bulk.length < 128 ∧ bytesWith s.qm.bulk f ≤ 32768 then [f] else []) ∧
      countedIf (c = .drop) Ctr.upDropped 1 s t ∧ changesOnly reportBlocks s t := by
  intro t
  obtain ⟨hframe, hme, hreceived, hcounts⟩ := matchedUp_frame f s
  obtain ⟨hqm, -, -⟩ := offerFifo_offered .arpAnswer (arpAnswer r f) (bump Ctr.arpAnswers (matchedUp f s))
  have hoffered := offerFifo_countsOnly .arpAnswer (arpAnswer r f) (bump Ctr.arpAnswers (matchedUp f s))
  generalize hv : offerFifo .arpAnswer (arpAnswer r f) (bump Ctr.arpAnswers (matchedUp f s)) = v at hqm hoffered
  have ht : t = classUpstream c f v := congrArg (classUpstream c f) hv
  have hmatched : (matchedUp f s).qm = s.qm := hframe .queues (by decide)
  have hvme : v.me.quiet = true := by simp [← hv, hme, hquiet]
  have hfaults : (matchedUp f s).fu = s.fu := hframe .faults (by decide)
  have hvfu : v.fu = s.fu := by simpa [← hv] using hfaults
  have hclosed : ¬ noticesOffered v := fun h => Bool.false_ne_true (h.2.symm.trans hvme)
  have hclass := qm_classUpstream hclosed c f
  simp only [bump_qm, hmatched, and_iff_right hup] at hqm
  rw [← ht, hqm, hvfu] at hclass
  have hlater := classUpstream_countsOnly c f v
  have hfirst : countsOnly ([Ctr.framesReceived, Ctr.arpAnswers] ++ offerCounters .arpAnswer) s v :=
    ((hcounts.mono (by decide)).bump (by decide)).trans (hoffered.mono (by decide))
  rw [← ht] at hlater
  have hafter : countsOnly (offerCounters .arpAnswer ++ Ctr.upDropped :: queueCounters) (bump Ctr.arpAnswers (matchedUp f s)) t :=
    (hoffered.mono (by decide)).trans (hlater.mono (by decide))
  refine ⟨?_, counted_within hcounts (by decide) hafter (by decide), by rw [hclass], by rw [hclass], by rw [hclass], ?_, ?_⟩
  · exact counted_then (counted_then hreceived ((countsOnly.refl [Ctr.arpAnswers] _).bump (by decide)) (by decide)) hafter (by decide)
  · rw [ht]
    exact countedIf_after hfirst (by decide) (classUpstream_dropped c f v)
  · have hblocks : changesOnly reportBlocks (matchedUp f s) t := by
      simp [changesOnly_iff, reportBlocks, t]
    exact (hframe.mono (by decide)).trans hblocks

/-- A frame that its queue refuses (R86, R87): one report of an event, one counter. -/
theorem refusedUp_effect {k : FaultKind} {c : Counter} (hk : k.isCondition = false) (hc : c ∉ Ctr.framesReceived :: reportCounters)
    (d : Nat) :
    let t := occurrence k d (bump c (matchedUp f s))
    Reports { s with me := { s.me with table := hitTable (s.matchFor true (parseFrame f)) s.me } } t ∧ counted c 1 s t ∧
      t.fault k = (s.fault k).occurred false s.fu.uptime d ∧ recordsOnly [k] s t ∧ counted Ctr.framesReceived 1 s t ∧
      changesOnly reportBlocks s t ∧ countsOnly ([Ctr.framesReceived, c] ++ reportCounters) s t := by
  intro t
  obtain ⟨hframe, hme, hreceived, hcounts⟩ := matchedUp_frame f s
  rw [List.mem_cons, not_or] at hc
  obtain ⟨hne, hreport⟩ := hc
  have hfu : (bump c (matchedUp f s)).fu = s.fu := (bump_fu _ _).trans (hframe .faults (by decide))
  have hlater : countsOnly reportCounters (bump c (matchedUp f s)) t := occurrence_countsOnly _ _ _
  refine ⟨occurrence_reports _ _ (reports_of_eq ((bump_qm _ _).trans (hframe .queues (by decide))) ((bump_me _ _).trans hme) hfu),
    counted_within hcounts (by simpa using hne) hlater hreport, ?_, fun j hj => ?_, ?_, ?_, ?_⟩
  · have hrec := fault_occurrence_recorded (s := bump c (matchedUp f s)) (k := k) (fun h => by simp [hk] at h) d
    rw [hk, fault_congr hfu, hfu] at hrec
    exact hrec
  · exact (occurrence_recordsOnly k d _ j hj).trans (fault_congr hfu j)
  · exact counted_then (counted_then hreceived ((countsOnly.refl [c] _).bump (by simp)) (by simpa using Ne.symm hne)) hlater
      (by decide)
  · refine (hframe.mono (by decide)).trans ?_
    simp [changesOnly_iff, reportBlocks, t]
  · have hfirst : countsOnly ([Ctr.framesReceived, c] ++ reportCounters) s (bump c (matchedUp f s)) :=
      (hcounts.mono (by simp)).bump (by simp)
    exact hfirst.trans (hlater.mono (by simp))

/-- A frame that joins its queue, or is dropped: one counter, and the queue. -/
theorem takenUp_effect {c : Counter} (hc : c ≠ Ctr.framesReceived) (g : QueueManager → QueueManager) :
    let t := bump c (onQm g (matchedUp f s))
    t.me = { s.me with table := hitTable (s.matchFor true (parseFrame f)) s.me } ∧ t.qm = g s.qm ∧
      counted Ctr.framesReceived 1 s t ∧ counted c 1 s t ∧ changesOnly [.matchEngine, .queues, .counters] s t ∧
      countsOnly [Ctr.framesReceived, c] s t := by
  intro t
  obtain ⟨hframe, hme, hreceived, hcounts⟩ := matchedUp_frame f s
  have hqm : (matchedUp f s).qm = s.qm := hframe .queues (by decide)
  have hqueue : countsOnly [Ctr.framesReceived] s (onQm g (matchedUp f s)) := hcounts.congr (by simp)
  refine ⟨by simp [t, hme], by simp [t, hqm], ?_, ?_, ?_, (hqueue.mono (by simp)).bump (by simp)⟩
  · exact counted_then (u := onQm g (matchedUp f s)) hreceived ((countsOnly.refl [c] _).bump (by simp)) (by simpa using hc.symm)
  · exact counted_within hqueue (by simpa using hc) (countsOnly.refl [] _) (by simp)
  · refine (hframe.mono (by decide)).trans ?_
    simp [changesOnly_iff, t]

/-! ## A frame delivered from channel 2 or 3 (R84, R189) -/

theorem isRunt_iff (f : Bytes) : isRunt f = true ↔ f.length < 14 ∨ numAt f 12 2 = some 0x8100 ∧ f.length < 18 := by
  simp [isRunt, isTagged]

theorem forHost_iff (f : Bytes) : s.forHost (parseFrame f) = true ↔
    s.me.quiet = true ∧ s.param .hostAddress ≠ 0 ∧ numAt f 0 6 = some (s.param .hostAddress) := by
  simp [State.forHost, parseFrame, and_assoc]

/-- Whether the entry found wakes the host (R189). -/
def State.wakesFor (s : State) (found : Option (Fin 32)) : Bool :=
  match found with
  | some i => (vget s.me.table i).wake
  | none => false

theorem wakesFor_countHit (found j : Option (Fin 32)) (s : State) : (countHit found s).wakesFor j = s.wakesFor j := by
  cases j with
  | none => rfl
  | some i =>
    obtain ⟨n, hn⟩ := hitTable_get found s.me i
    simp [State.wakesFor, countHit_eq, hn]

theorem quietRules_eq (found : Option (Fin 32)) (f : Bytes) (s : State) : quietRules found f s =
    if s.wakesFor found then
      (if s.forwards found then offerFifo .delivered f (s |> assertWake |> bump Ctr.wakeFrames)
        else bump Ctr.quietDiscarded (s |> assertWake |> bump Ctr.wakeFrames))
    else bump Ctr.quietDiscarded s := by
  cases found <;> rfl

/-- A downstream frame that has been matched: counted under its channel, its entry's hit with it. -/
def matchedDown (d : Counter) (f : Bytes) (s : State) : State := countHit (s.matchFor false (parseFrame f)) (bump d s)

theorem matchedDown_frame (d : Counter) (f : Bytes) (s : State) :
    changesOnly [.matchEngine, .counters] s (matchedDown d f s) ∧
      (matchedDown d f s).me = { s.me with table := hitTable (s.matchFor false (parseFrame f)) s.me } ∧
      counted d 1 s (matchedDown d f s) ∧ countsOnly [d] s (matchedDown d f s) := by
  have hcounters : (matchedDown d f s).counters = (bump d s).counters := by simp [matchedDown, countHit_eq]
  refine ⟨by simp [changesOnly_iff, matchedDown, countHit_eq], by simp [matchedDown, countHit_eq], ?_, ?_⟩
  · exact (counter_congr hcounters _).trans (counter_bump_same s _)
  · exact ((countsOnly.refl _ s).bump (List.mem_singleton_self _)).congr hcounters

/-- What is done with a downstream frame that is neither a runt nor too long (R84, R189). -/
theorem downstream_matched {d : Counter} (hr : ¬ (f.length < 14 ∨ numAt f 12 2 = some 0x8100 ∧ f.length < 18))
    (hl : f.length ≤ 1518) : downstream f (bump d s) =
      if s.forHost (parseFrame f) then
        (if s.wakesFor (s.matchFor false (parseFrame f)) then
          (if s.forwards (s.matchFor false (parseFrame f)) then
            offerFifo .delivered f (matchedDown d f s |> assertWake |> bump Ctr.wakeFrames)
            else bump Ctr.quietDiscarded (matchedDown d f s |> assertWake |> bump Ctr.wakeFrames))
        else bump Ctr.quietDiscarded (matchedDown d f s))
      else if s.classFor false (s.matchFor false (parseFrame f)) = .drop then bump Ctr.downDropped (matchedDown d f s)
      else offerFifo .delivered f (matchedDown d f s) := by
  have hrunt : isRunt f = false := by
    rw [← Bool.not_eq_true, isRunt_iff]
    exact hr
  generalize hfound : s.matchFor false (parseFrame f) = found
  have hwakes := wakesFor_countHit found found (bump d s)
  have hforwards := forwards_countHit found found (bump d s)
  have hdown : downstream f (bump d s) = if s.forHost (parseFrame f) then quietRules found f (countHit found (bump d s))
      else match s.classFor false found with
        | .drop => bump Ctr.downDropped (countHit found (bump d s))
        | .priority | .bulk => offerFifo .delivered f (countHit found (bump d s)) := by
    subst hfound
    unfold downstream
    rw [hrunt, if_neg Bool.false_ne_true, if_neg (by omega)]
    rfl
  have hm : matchedDown d f s = countHit found (bump d s) := by rw [← hfound]; rfl
  rw [hdown, quietRules_eq, hwakes, hforwards, hm]
  refine if_congr Iff.rfl rfl ?_
  cases s.classFor false found <;> rfl

/-- The counters of a downstream frame but its delivery's. -/
def downCounters : List Counter :=
  [Ctr.downDropped, Ctr.wakeFrames, Ctr.wakes, Ctr.quietDiscarded, Ctr.downRunts, Ctr.downOversize] ++ offerCounters .delivered

/-- A downstream frame dropped or discarded once it is matched. -/
theorem droppedDown_effect {d c : Counter} (hd : d ∉ downCounters) (hc : c ∈ downCounters) :
    let t := bump c (matchedDown d f s)
    t.me = { s.me with table := hitTable (s.matchFor false (parseFrame f)) s.me } ∧ counted c 1 s t ∧ counted d 1 s t ∧
      changesOnly [.matchEngine, .counters] s t ∧ countsOnly [d, c] s t := by
  intro t
  obtain ⟨hframe, hme, hdelivered, hcounts⟩ := matchedDown_frame d f s
  have hne : c ≠ d := fun e => hd (e ▸ hc)
  refine ⟨by simp [t, hme], counted_within hcounts (by simpa using hne) (countsOnly.refl [] _) (by simp),
    counted_then hdelivered ((countsOnly.refl [c] _).bump (by simp)) (by simpa using hne.symm), ?_,
    (hcounts.mono (by simp)).bump (by simp)⟩
  refine hframe.trans ?_
  simp [changesOnly_iff, t]

/-- A downstream frame offered to the FIFO once it is matched. -/
theorem offeredDown_effect {d : Counter} (hd : d ∉ downCounters) :
    let t := offerFifo .delivered f (matchedDown d f s)
    t.me = { s.me with table := hitTable (s.matchFor false (parseFrame f)) s.me } ∧ counted d 1 s t ∧
      offeredTo .delivered f s t ∧ changesOnly [.matchEngine, .queues, .counters] s t ∧
      countsOnly (d :: offerCounters .delivered) s t := by
  intro t
  obtain ⟨hframe, hme, hdelivered, hcounts⟩ := matchedDown_frame d f s
  have hoffered := offerFifo_countsOnly .delivered f (matchedDown d f s)
  have hapart : d ∉ offerCounters .delivered := fun h => hd (List.mem_append_right _ h)
  refine ⟨by simp [t, hme], counted_then hdelivered hoffered hapart, ?_, ?_,
    (hcounts.mono (by simp)).trans (hoffered.mono (List.subset_cons_self _ _))⟩
  · refine (offerFifo_offered .delivered f (matchedDown d f s)).within (hframe .queues (by decide)) rfl hcounts ?_
      (countsOnly.refl [] _) (by simp)
    simp only [offerCounters, List.mem_cons, List.not_mem_nil, or_false, not_or] at hapart ⊢
    exact ⟨Ne.symm hapart.1, Ne.symm hapart.2⟩
  · refine (hframe.mono (by decide)).trans ?_
    simp [changesOnly_iff, t]

theorem assertWake_asserts (h : s.me.wake = false) :
    assertWake s = bump Ctr.wakes (onMe (fun m => { m with wake := true }) s) := by
  simp [assertWake, h]

theorem assertWake_asserted (h : s.me.wake = true) : assertWake s = s := by
  simp [assertWake, h]

theorem assertWake_counted (s : State) : countedIf (s.me.wake = false) Ctr.wakes 1 s (assertWake s) := by
  cases hw : s.me.wake with
  | false =>
    rw [assertWake_asserts hw]
    exact ⟨fun _ => counter_bump_same (onMe _ s) Ctr.wakes, fun h => absurd rfl h⟩
  | true =>
    rw [assertWake_asserted hw]
    exact ⟨fun h => (nomatch h), fun _ => rfl⟩

theorem assertWake_wakes (s : State) : countsOnly [Ctr.wakes] s (assertWake s) := by
  unfold assertWake
  split
  · exact .refl _ s
  · exact ((countsOnly.refl _ s).congr (by simp)).bump (List.mem_singleton_self _)

theorem me_assertWake (s : State) : (assertWake s).me = { s.me with wake := true } := by
  cases hw : s.me.wake with
  | false => simp [assertWake_asserts hw]
  | true =>
    rw [assertWake_asserted hw, ← hw]

/-- A frame that wakes the host, before it is forwarded or discarded (R189). -/
def wokenDown (d : Counter) (f : Bytes) (s : State) : State := matchedDown d f s |> assertWake |> bump Ctr.wakeFrames

theorem wokenDown_effect {d : Counter} (hd : d ∉ downCounters) :
    (wokenDown d f s).me = { s.me with table := hitTable (s.matchFor false (parseFrame f)) s.me, wake := true } ∧
      counted Ctr.wakeFrames 1 s (wokenDown d f s) ∧ counted d 1 s (wokenDown d f s) ∧
      countedIf (s.me.wake = false) Ctr.wakes 1 s (wokenDown d f s) ∧
      changesOnly [.matchEngine, .counters] s (wokenDown d f s) ∧
      countsOnly [d, Ctr.wakeFrames, Ctr.wakes] s (wokenDown d f s) := by
  obtain ⟨hframe, hme, hdelivered, hcounts⟩ := matchedDown_frame d f s
  have hasserted := assertWake_wakes (matchedDown d f s)
  have hwake : (matchedDown d f s).me.wake = s.me.wake := by rw [hme]
  have hwf : Ctr.wakeFrames ≠ d := fun e => hd (e ▸ by decide)
  have hw : Ctr.wakes ≠ d := fun e => hd (e ▸ by decide)
  have hbumped : countsOnly [Ctr.wakeFrames] (assertWake (matchedDown d f s)) (wokenDown d f s) :=
    (countsOnly.refl _ _).bump (List.mem_singleton_self _)
  have hfirst : countsOnly [d, Ctr.wakes] s (assertWake (matchedDown d f s)) :=
    (hcounts.mono (by simp)).trans (hasserted.mono (by simp))
  refine ⟨by simp [wokenDown, me_assertWake, hme], counted_within hfirst ?_ (countsOnly.refl [] _) (by simp),
    counted_then (counted_then hdelivered hasserted (by simpa using hw.symm)) hbumped (by simpa using hwf.symm), ?_, ?_,
    (hfirst.mono (by simp)).trans (hbumped.mono (by simp))⟩
  · rw [List.mem_pair, not_or]
    exact ⟨hwf, by decide⟩
  · have hcounted := assertWake_counted (matchedDown d f s)
    rw [hwake] at hcounted
    exact countedIf_then (countedIf_after hcounts (by simpa using hw) hcounted) hbumped (by decide)
  · refine hframe.trans ?_
    simp [changesOnly_iff, wokenDown]

/-- The host woken and the frame forwarded. -/
theorem wokenDown_offered {d : Counter} (hd : d ∉ downCounters) :
    let t := offerFifo .delivered f (wokenDown d f s)
    t.me = { s.me with table := hitTable (s.matchFor false (parseFrame f)) s.me, wake := true } ∧
      counted Ctr.wakeFrames 1 s t ∧ counted d 1 s t ∧ countedIf (s.me.wake = false) Ctr.wakes 1 s t ∧
      offeredTo .delivered f s t ∧ countsOnly ([d, Ctr.wakeFrames, Ctr.wakes] ++ offerCounters .delivered) s t ∧
      changesOnly [.matchEngine, .queues, .counters] s t := by
  intro t
  obtain ⟨hme, hwoke, hdelivered, hwakes, hframe, hcounts⟩ := wokenDown_effect (s := s) (f := f) hd
  have hoffered := offerFifo_countsOnly .delivered f (wokenDown d f s)
  have hapart : d ∉ offerCounters .delivered := fun h => hd (List.mem_append_right _ h)
  refine ⟨by simp [t, hme], counted_then hwoke hoffered (by decide), counted_then hdelivered hoffered hapart,
    countedIf_then hwakes hoffered (by decide), ?_,
    (hcounts.mono (List.subset_append_left _ _)).trans (hoffered.mono (List.subset_append_right _ _)), ?_⟩
  · refine (offerFifo_offered .delivered f (wokenDown d f s)).within (hframe .queues (by decide)) rfl hcounts ?_
      (countsOnly.refl [] _) (by simp)
    have hlost : Ctr.lostLinkDown .delivered ≠ d := fun e => hd (e ▸ by decide)
    have hfull : Ctr.fifoFull .delivered ≠ d := fun e => hd (e ▸ by decide)
    simp only [List.mem_cons, hlost, hfull, false_or]
    decide
  · refine (hframe.mono (by decide)).trans ?_
    simp [changesOnly_iff, t]

/-- The host woken and the frame discarded. -/
theorem wokenDown_discarded {d : Counter} (hd : d ∉ downCounters) :
    let t := bump Ctr.quietDiscarded (wokenDown d f s)
    t.me = { s.me with table := hitTable (s.matchFor false (parseFrame f)) s.me, wake := true } ∧
      counted Ctr.wakeFrames 1 s t ∧ counted d 1 s t ∧ countedIf (s.me.wake = false) Ctr.wakes 1 s t ∧
      counted Ctr.quietDiscarded 1 s t ∧ t.qm = s.qm ∧
      countsOnly [d, Ctr.wakeFrames, Ctr.wakes, Ctr.quietDiscarded] s t ∧ changesOnly [.matchEngine, .counters] s t := by
  intro t
  obtain ⟨hme, hwoke, hdelivered, hwakes, hframe, hcounts⟩ := wokenDown_effect (s := s) (f := f) hd
  have hbumped : countsOnly [Ctr.quietDiscarded] (wokenDown d f s) t := (countsOnly.refl _ _).bump (List.mem_singleton_self _)
  have hq : Ctr.quietDiscarded ≠ d := fun e => hd (e ▸ by decide)
  refine ⟨by simp [t, hme], counted_then hwoke hbumped (by decide), counted_then hdelivered hbumped (by simpa using hq.symm),
    countedIf_then hwakes hbumped (by decide), counted_within hcounts ?_ (countsOnly.refl [] _) (by simp),
    (bump_qm _ _).trans (hframe .queues (by decide)), (hcounts.mono (by simp)).trans (hbumped.mono (by simp)), ?_⟩
  · simp only [List.mem_cons, hq, false_or]
    decide
  · refine hframe.trans ?_
    simp [changesOnly_iff, t]

theorem framesDelivered_notin {c : Chan} (h : c = 2 ∨ c = 3) : Ctr.framesDelivered c ∉ downCounters := by
  rcases h with rfl | rfl <;> decide

theorem deliver_down {c : Chan} (h : c = 2 ∨ c = 3) (f : Bytes) (s : State) :
    deliver c f s = downstream f (bump (Ctr.framesDelivered c) s) := by
  rcases h with rfl | rfl <;> rfl

/-- A downstream frame that is not matched at all: its delivery and the check it fails. -/
theorem uncheckedDown_effect {d c : Counter} (hd : d ∉ downCounters) (hc : c ∈ downCounters) :
    let t := bump c (bump d s)
    counted c 1 s t ∧ counted d 1 s t ∧ changesOnly [.counters] s t ∧ countsOnly [d, c] s t := by
  intro t
  have hne : c ≠ d := fun e => hd (e ▸ hc)
  have hfirst : countsOnly [d] s (bump d s) := (countsOnly.refl _ s).bump (List.mem_singleton_self _)
  refine ⟨counted_within hfirst (by simpa using hne) (countsOnly.refl [] _) (by simp),
    counted_then (counter_bump_same s d) ((countsOnly.refl [c] _).bump (by simp)) (by simpa using hne.symm), ?_,
    (hfirst.mono (by simp)).bump (by simp)⟩
  simp [changesOnly_iff, t]

theorem downstream_runt (h : f.length < 14 ∨ numAt f 12 2 = some 0x8100 ∧ f.length < 18) :
    downstream f s = bump Ctr.downRunts s := if_pos ((isRunt_iff f).2 h)

theorem downstream_oversize (h : 1518 < f.length) : downstream f s = bump Ctr.downOversize s := by
  have hrunt : ¬ isRunt f = true := by
    rw [isRunt_iff]
    omega
  exact (if_neg hrunt).trans (if_pos h)

theorem homeFrameArrives_good {frame : Bytes} (hup : s.qm.homeUp = true) (h64 : 64 ≤ frame.length) (h1522 : frame.length ≤ 1522)
    (hg : frame.drop (frame.length - 4) = fcsBytes (frame.take (frame.length - 4))) :
    homeFrameArrives frame s = homeFrameTaken (frame.take (frame.length - 4)) s := by
  have hlen : ¬ (frame.length < 64 ∨ 1522 < frame.length) := by omega
  simp only [homeFrameArrives, hup, Bool.not_true, Bool.false_eq_true, if_false, if_neg hlen, if_pos hg]

theorem homeFrameArrives_badFcs {frame : Bytes} (hup : s.qm.homeUp = true) (h64 : 64 ≤ frame.length) (h1522 : frame.length ≤ 1522)
    (hg : ¬ frame.drop (frame.length - 4) = fcsBytes (frame.take (frame.length - 4))) :
    homeFrameArrives frame s = bump Ctr.fcsErrors s := by
  have hlen : ¬ (frame.length < 64 ∨ 1522 < frame.length) := by omega
  simp only [homeFrameArrives, hup, Bool.not_true, Bool.false_eq_true, if_false, if_neg hlen, if_neg hg]

theorem homeFrameArrives_badLength {frame : Bytes} (hup : s.qm.homeUp = true) (h : frame.length < 64 ∨ 1522 < frame.length) :
    homeFrameArrives frame s = bump Ctr.lengthErrors s := by
  simp only [homeFrameArrives, hup, Bool.not_true, Bool.false_eq_true, if_false, if_pos h]

/-- A frame that no record answers takes the action of its class. -/
theorem homeFrameTaken_unanswered {f : Bytes} (hm : numAt f (typeOffset f) 2 ≠ some 0x9A21)
    (h : s.answerFor (s.matchFor true (parseFrame f)) f = none) :
    homeFrameTaken f s = classUpstream (s.classFor true (s.matchFor true (parseFrame f))) f (matchedUp f s) := by
  rw [homeFrameTaken_data hm, h]

/-- One counter alone. -/
theorem bump_alone (c : Counter) (s : State) :
    counted c 1 s (bump c s) ∧ changesOnly [.counters] s (bump c s) ∧ countsOnly [c] s (bump c s) :=
  ⟨counter_bump_same s c, by simp [changesOnly_iff], (countsOnly.refl _ s).bump (List.mem_singleton_self _)⟩

/-- Settles O36: the checks of either direction in their order, then what is done with a matched frame. -/
theorem homeFramesAreQueuedByClass : Obligations.HomeFramesAreQueuedByClass := by
  intro s frame
  refine ⟨fun hup => ⟨fun hlen => ?_, fun h64 h1522 hg => ?_, fun h64 h1522 hg hm => ?_⟩, fun c hc => ?_⟩
  · exact ⟨_, congrArg Host.Outcome.next (homeFrameArrives_badLength hup hlen), bump_alone _ s⟩
  · exact ⟨_, congrArg Host.Outcome.next (homeFrameArrives_badFcs hup h64 h1522 hg), bump_alone _ s⟩
  · have hexec : exec (.homeFrameReceived frame) s = .next (homeFrameTaken (frame.take (frame.length - 4)) s) :=
      congrArg Host.Outcome.next (homeFrameArrives_good hup h64 h1522 hg)
    generalize frame.take (frame.length - 4) = f at hexec hm ⊢
    obtain ⟨hframe, hme, -⟩ := matchedUp_frame f s
    have hqm : (matchedUp f s).qm = s.qm := hframe .queues (by decide)
    have hfu : (matchedUp f s).fu = s.fu := hframe .faults (by decide)
    refine ⟨fun r hr hf => ?_, fun r hr hf => ?_, fun hno => ?_⟩
    · have hans := answerFor_iff.2 hr
      have hforwards : s.forwards (s.matchFor true (parseFrame f)) = false := hf
      refine ⟨_, hexec.trans (congrArg _ (homeFrameTaken_data hm)), ?_⟩
      simp only [hans, hforwards, Bool.false_eq_true, if_false]
      rw [← arpAnswer_eq]
      exact ⟨Eq.trans (by simp) hme, arpAnswered_discarded⟩
    · have hans := answerFor_iff.2 hr
      have hforwards : s.forwards (s.matchFor true (parseFrame f)) = true := hf
      refine ⟨_, hexec.trans (congrArg _ (homeFrameTaken_data hm)), ?_⟩
      simp only [hans, hforwards, if_true]
      rw [← arpAnswer_eq]
      exact arpAnswered_forwarded hup hr.1 _
    · have hans : s.answerFor (s.matchFor true (parseFrame f)) f = none :=
        Option.eq_none_iff_forall_ne_some.2 fun r hr => hno r (answerFor_iff.1 hr)
      have htaken := homeFrameTaken_unanswered hm hans
      refine ⟨fun hcls => ?_, fun hcls hn hb => ?_, fun hcls hover => ?_, fun hcls hp hn hb => ?_, fun hcls hp hover => ?_,
        fun hcls hp => ?_⟩ <;> rw [hcls] at htaken <;> refine ⟨_, hexec.trans (congrArg _ htaken), ?_⟩
      · obtain ⟨hme, -, hreceived, hdropped, -, hcounts⟩ := takenUp_effect (s := s) (f := f) (c := Ctr.upDropped) (by decide) id
        refine ⟨hme, hreceived, hdropped, ?_, hcounts⟩
        refine hframe.trans ?_
        simp [changesOnly_iff, classUpstream]
      · rw [classUpstream, offerPriority_joins (by rwa [hqm]) (by rwa [hqm])]
        exact takenUp_effect (by decide) fun q => { q with priority := q.priority ++ [f] }
      · rw [classUpstream, offerPriority_refused (by rwa [hqm]), hqm]
        exact refusedUp_effect rfl (by decide) _
      · rw [classUpstream, offerBulk_joins (by rwa [hfu]) (by rwa [hqm]) (by rwa [hqm])]
        exact takenUp_effect (by decide) fun q => { q with bulk := q.bulk ++ [f] }
      · rw [classUpstream, offerBulk_refused (by rwa [hfu]) (by rwa [hqm]), hqm]
        exact refusedUp_effect rfl (by decide) _
      · rw [classUpstream, offerBulk_shed (by rwa [hfu])]
        exact refusedUp_effect rfl (by decide) _
  · have hd := framesDelivered_notin hc
    rw [deliver_down hc]
    generalize Ctr.framesDelivered c = d at hd
    refine ⟨fun hrunt => ?_, fun hlong => ?_, fun hr hl => ?_⟩
    · rw [downstream_runt hrunt]
      obtain ⟨hrunts, hdelivered, hframe, hcounts⟩ := uncheckedDown_effect (s := s) hd (c := Ctr.downRunts) (by decide)
      exact ⟨⟨List.forall_mem_singleton.2 hrunts, hdelivered⟩, hframe, hcounts⟩
    · rw [downstream_oversize hlong]
      obtain ⟨hoversize, hdelivered, hframe, hcounts⟩ := uncheckedDown_effect (s := s) hd (c := Ctr.downOversize) (by decide)
      exact ⟨⟨List.forall_mem_singleton.2 hoversize, hdelivered⟩, hframe, hcounts⟩
    · rw [downstream_matched hr hl]
      simp only [forHost_iff]
      refine ⟨fun hh hcls => ?_, fun hh hcls => ?_, fun hh hw => ?_, fun hh hw => ?_⟩
      · rw [if_neg hh, if_pos hcls]
        obtain ⟨hme, hdropped, hdelivered, hframe, hcounts⟩ := droppedDown_effect (s := s) (f := frame) hd
          (c := Ctr.downDropped) (by decide)
        exact ⟨hme, ⟨List.forall_mem_singleton.2 hdropped, hdelivered⟩, hframe, hcounts⟩
      · rw [if_neg hh, if_neg hcls]
        obtain ⟨hme, hdelivered, hoffered, hframe, hcounts⟩ := offeredDown_effect (s := s) (f := frame) hd
        exact ⟨hme, ⟨by simp, hdelivered⟩, hoffered, hframe, hcounts⟩
      · have hwakes : s.wakesFor (s.matchFor false (parseFrame frame)) = true := hw
        rw [if_pos hh, if_pos hwakes]
        by_cases hf : s.forwards (s.matchFor false (parseFrame frame)) = true
        · rw [if_pos hf]
          obtain ⟨hme, hwoke, hdelivered, hcounted, hoffered, hcounts, hframe⟩ := wokenDown_offered (s := s) (f := frame) hd
          exact ⟨hme, ⟨List.forall_mem_singleton.2 hwoke, hdelivered⟩, hcounted, fun _ => ⟨hoffered, hcounts⟩,
            fun hno => absurd (hno.symm.trans hf) Bool.false_ne_true, hframe⟩
        · rw [if_neg hf]
          obtain ⟨hme, hwoke, hdelivered, hcounted, hdiscarded, hqm, hcounts, hframe⟩ :=
            wokenDown_discarded (s := s) (f := frame) hd
          exact ⟨hme, ⟨List.forall_mem_singleton.2 hwoke, hdelivered⟩, hcounted, fun hyes => absurd hyes hf,
            fun _ => ⟨hdiscarded, hqm, hcounts⟩, hframe.mono (by decide)⟩
      · have hwakes : ¬ s.wakesFor (s.matchFor false (parseFrame frame)) = true := fun h => Bool.false_ne_true (hw.symm.trans h)
        rw [if_pos hh, if_neg hwakes]
        obtain ⟨hme, hdiscarded, hdelivered, hframe, hcounts⟩ := droppedDown_effect (s := s) (f := frame) hd
          (c := Ctr.quietDiscarded) (by decide)
        exact ⟨hme, ⟨List.forall_mem_singleton.2 hdiscarded, hdelivered⟩, hframe, hcounts⟩

end Sys2Proof.Machine

/-! PROOFS. O29, O30 and O32: a line block read back, a frame across the line, and the checks of a received block in their order. -/

namespace Sys2Proof.Machine

variable {s t u : State}

/-! ## A line block read back (R2, R3, section 11.1) -/

/-- The header and the payload area of a line block. -/
def blockBody (size : BlockSize) (c : Chan) (kind : BlockKind) (urgent fill : Bool) (seq : Byte) (used : Nat)
    (frameNo : Byte) (payload : Bytes) : Bytes :=
  [byteOf (c.val * 16 + kind.code * 4 + urgent.toNat * 2 + fill.toNat), seq, byteOf used, frameNo] ++
    (payload ++ List.replicate (size.payload - payload.length) 0)

theorem blockBytes_eq (size : BlockSize) (c : Chan) (kind : BlockKind) (urgent fill : Bool) (seq : Byte) (used : Nat)
    (frameNo : Byte) (payload : Bytes) : blockBytes size c kind urgent fill seq used frameNo payload =
      blockBody size c kind urgent fill seq used frameNo payload ++
        be16 (crc16 (blockBody size c kind urgent fill seq used frameNo payload)).toNat := by
  simp only [blockBytes, blockBody, List.append_assoc]

theorem BlockSize.bytes_eq (size : BlockSize) : size.bytes = size.payload + 6 := by
  cases size <;> rfl

theorem blockBody_length {size : BlockSize} {c : Chan} {kind : BlockKind} {urgent fill : Bool} {seq : Byte} {used : Nat}
    {frameNo : Byte} {payload : Bytes} (h : payload.length ≤ size.payload) :
    (blockBody size c kind urgent fill seq used frameNo payload).length = size.bytes - 2 := by
  simp only [blockBody, List.length_append, List.length_cons, List.length_nil, List.length_replicate, size.bytes_eq]
  omega

theorem BlockKind.code_lt (k : BlockKind) : k.code < 4 := by
  cases k <;> decide

theorem BlockKind.ofCode_code (k : BlockKind) : BlockKind.ofCode k.code = k := by
  cases k <;> rfl

/-- The first byte of a block keeps the channel, the kind and both marks apart. -/
theorem headByte_fields (c : Chan) (kind : BlockKind) (urgent fill : Bool) :
    let head := (byteOf (c.val * 16 + kind.code * 4 + urgent.toNat * 2 + fill.toNat)).toNat
    Fin.ofNat 16 (head / 16) = c ∧ BlockKind.ofCode (head / 4 % 4) = kind ∧ (head % 2 == 1) = fill := by
  have hc := c.isLt
  have hk := kind.code_lt
  have hu : urgent.toNat ≤ 1 := urgent.toNat_le
  have hf : fill.toNat ≤ 1 := fill.toNat_le
  have hhead : (byteOf (c.val * 16 + kind.code * 4 + urgent.toNat * 2 + fill.toNat)).toNat =
      c.val * 16 + kind.code * 4 + urgent.toNat * 2 + fill.toNat := by
    rw [byteOf_toNat]
    omega
  intro head
  have hchan : head / 16 = c.val := by omega
  have hkind : head / 4 % 4 = kind.code := by omega
  have hfill : head % 2 = fill.toNat := by omega
  refine ⟨?_, ?_, ?_⟩
  · rw [hchan]
    exact Fin.ext (Nat.mod_eq_of_lt hc)
  · rw [hkind, kind.ofCode_code]
  · rw [hfill]
    cases fill <;> rfl

theorem readBlock_blockBytes {size : BlockSize} {c : Chan} {kind : BlockKind} {urgent fill : Bool} {seq : Byte} {used : Nat}
    {frameNo : Byte} {payload : Bytes} (h : payload.length ≤ size.payload) (hu : used < 256) :
    readBlock size (blockBytes size c kind urgent fill seq used frameNo payload) =
      { chan := c, kind := kind, fill := fill, seq := seq, used := used, frameNo := frameNo,
        payload := payload ++ List.replicate (size.payload - payload.length) 0 } := by
  obtain ⟨hchan, hkind, hfill⟩ := headByte_fields c kind urgent fill
  have hused : (byteOf used).toNat = used := by
    rw [byteOf_toNat]
    omega
  have harea : (payload ++ List.replicate (size.payload - payload.length) (0 : Byte)).length = size.payload := by
    simp only [List.length_append, List.length_replicate]
    omega
  rw [blockBytes_eq, blockBody, List.append_assoc]
  generalize be16 _ = check
  simp only [readBlock, List.cons_append, List.nil_append, List.getD_cons_zero, List.getD_cons_succ, List.drop_succ_cons,
    List.drop_zero, hchan, hkind, hfill, hused, List.take_left' harea]

theorem blockGood_blockBytes {size : BlockSize} {c : Chan} {kind : BlockKind} {urgent fill : Bool} {seq : Byte} {used : Nat}
    {frameNo : Byte} {payload : Bytes} (h : payload.length ≤ size.payload) :
    (blockBytes size c kind urgent fill seq used frameNo payload).length = size.bytes ∧
      blockGood size (blockBytes size c kind urgent fill seq used frameNo payload) = true := by
  have hbody := blockBody_length (c := c) (kind := kind) (urgent := urgent) (fill := fill) (seq := seq) (used := used)
    (frameNo := frameNo) h
  have hlen : (blockBytes size c kind urgent fill seq used frameNo payload).length = size.bytes := by
    rw [blockBytes_eq, List.length_append, hbody, be16_length, size.bytes_eq]
    omega
  refine ⟨hlen, ?_⟩
  rw [blockGood, hlen, blockBytes_eq, ← hbody]
  simp

/-- Settles O29: header, payload area and CRC stand where the reader looks for them. -/
theorem lineBlocksReadBack : Obligations.LineBlocksReadBack := by
  intro size c kind urgent fill seq used frameNo payload hp hu
  obtain ⟨hlen, hgood⟩ := blockGood_blockBytes (c := c) (kind := kind) (urgent := urgent) (fill := fill) (seq := seq)
    (used := used) (frameNo := frameNo) hp
  exact ⟨hlen, hgood, readBlock_blockBytes hp hu⟩

/-! ## A block taken in its place (R11 to R14) -/

/-- The state as a good block of a channel that is neither out of sequence nor looped reaches reassembly. -/
def inSequence (b : LineBlock) (s : State) : State :=
  s |> bump Ctr.goodReceived |> onChan b.chan fun h => { h with expected := some (b.seq + 1) }

theorem blockArrives_good {bytes : Bytes} (hl : s.ls.link = .carrying) (hg : blockGood s.lbu.size bytes = true) :
    blockArrives bytes s = goodBlock (readBlock s.lbu.size bytes) s := by
  simp [blockArrives, State.carrying, hl, hg]

/-- The mark and the count of a block out of sequence, where nothing is collected (R12). -/
def afterSequence (b : LineBlock) (s : State) : State :=
  whenever (decide (¬ ((s.chan b.chan).expected = none ∨ (s.chan b.chan).expected = some b.seq)))
    (fun s => s |> bump Ctr.sequenceGaps |> onLs (fun l => { l with gapMark := true })) s

/-- A partial frame there is none of, so a gap leaves its mark and its count, and nothing to abandon (R12). -/
theorem checkSequence_idle (b : LineBlock) (h : (s.chan b.chan).asm = none) :
    checkSequence b s =
      onChan b.chan (fun h => { h with expected := some (b.seq + 1) }) (afterSequence b s) := by
  have hidle : ((onLs (fun l => { l with gapMark := true }) (bump Ctr.sequenceGaps s)).chan b.chan).asm = none := h
  cases he : (s.chan b.chan).expected with
  | none => simp [checkSequence, afterSequence, he, whenever]
  | some e =>
    by_cases heq : e = b.seq
    · simp [checkSequence, afterSequence, he, heq, whenever]
    · simp [checkSequence, afterSequence, he, heq, whenever, abandon_idle _ hidle]

theorem takeBlock_sane {b : LineBlock} (hm : malformed s.lbu.size b = false) (hl : s.looped b.chan = false) :
    takeBlock b s = reassemble b s := by
  simp [takeBlock, hm, hl]

theorem goodBlock_inSequence {b : LineBlock} (hf : b.fill = false) (ha : assigned b.chan = true)
    (he : (s.chan b.chan).expected = none ∨ (s.chan b.chan).expected = some b.seq)
    (hm : malformed s.lbu.size b = false) (hl : s.looped b.chan = false) :
    goodBlock b s = reassemble b (inSequence b s) := by
  have hseq : checkSequence b (bump Ctr.goodReceived s) = inSequence b s := checkSequence_expected he
  simp only [goodBlock, hf, ha, Bool.false_eq_true, if_false, if_true, hseq]
  exact takeBlock_sane hm hl

/-! ## A frame put on a channel, block by block (R5, R6) -/

/-- The block of a frame at one position, as `blocksOf` lists them. -/
def frameBlock (size : BlockSize) (c : Chan) (seq frameNo : Byte) (f : Bytes) (i : Nat) : Bytes :=
  blockBytes size c (kindAt i (blocksFor size f.length)) false false (seq + byteOf i)
    ((f.drop (i * size.payload)).take size.payload).length frameNo ((f.drop (i * size.payload)).take size.payload)

theorem blocksOf_eq (size : BlockSize) (c : Chan) (seq frameNo : Byte) (f : Bytes) :
    blocksOf size c seq frameNo f = (List.range (blocksFor size f.length)).map (frameBlock size c seq frameNo f) := rfl

theorem byteOf_succ (i : Nat) : byteOf (i + 1) = byteOf i + 1 := by
  rw [byteOf, BitVec.ofNat_add]
  rfl

/-- The blocks a frame takes hold it, and one fewer does not. -/
theorem blocksFor_bounds (size : BlockSize) {len : Nat} (h : 1 ≤ len) :
    1 ≤ blocksFor size len ∧ len ≤ blocksFor size len * size.payload ∧
      (blocksFor size len - 1) * size.payload + 1 ≤ len := by
  cases size <;> simp only [blocksFor, BlockSize.payload] <;> omega

theorem emitNext_line (c : Chan) (sd : Sending) (s : State) :
    (emitNext c sd s).out.line = s.out.line ++
      [blockBytes s.lbu.size c (kindAt sd.emitted sd.total) false false (s.chan c).txSeq
        ((sd.bytes.drop (sd.emitted * s.lbu.size.payload)).take s.lbu.size.payload).length sd.frameNo
        ((sd.bytes.drop (sd.emitted * s.lbu.size.payload)).take s.lbu.size.payload)] := by
  unfold emitNext
  split
  · rw [(frameLeft_out _ _ _).1]
    rfl
  · rfl

/-- A block that does not complete its frame: the next one follows it in sequence. -/
theorem emitNext_next {c : Chan} {sd : Sending} (h : sd.emitted + 1 < sd.total) :
    ((emitNext c sd s).chan c).seg = some { sd with emitted := sd.emitted + 1 } ∧
      ((emitNext c sd s).chan c).txSeq = (s.chan c).txSeq + 1 ∧ (emitNext c sd s).lbu = s.lbu := by
  rw [emitNext, if_neg (by omega)]
  refine ⟨by simp, ?_, rfl⟩
  simp only [chan_onChan_same]
  rw [emitOn, chan_congr (bump_bf _ _), chan_onChan_same]
  rfl

/-- From any of a frame's blocks on, continuing it emits all that are left, in order. -/
theorem continueFrame_line {size : BlockSize} {c : Chan} {seq : Byte} {sd : Sending} (n : Nat)
    (htotal : sd.total = blocksFor size sd.bytes.length) (hn : sd.emitted + n + 1 = sd.total)
    (hsize : s.lbu.size = size) (hseq : (s.chan c).txSeq = seq + byteOf sd.emitted) :
    (continueFrame c n (emitNext c sd s)).out.line =
      s.out.line ++ (List.range' sd.emitted (n + 1)).map (frameBlock size c seq sd.frameNo sd.bytes) := by
  have hfirst : (emitNext c sd s).out.line = s.out.line ++ [frameBlock size c seq sd.frameNo sd.bytes sd.emitted] := by
    rw [emitNext_line, hsize, hseq, htotal]
    rfl
  induction n generalizing sd s with
  | zero => exact hfirst
  | succ n ih =>
    obtain ⟨hseg, htx, hlbu⟩ := emitNext_next (s := s) (c := c) (sd := sd) (by omega)
    have hstep : continueFrame c (n + 1) (emitNext c sd s) =
        continueFrame c n (emitNext c { sd with emitted := sd.emitted + 1 } (emitNext c sd s)) := by
      simp only [continueFrame, hseg]
    have htx' : ((emitNext c sd s).chan c).txSeq = seq + byteOf (sd.emitted + 1) := by
      rw [htx, hseq, byteOf_succ, BitVec.add_assoc]
    rw [hstep, ih (sd := { sd with emitted := sd.emitted + 1 }) htotal (by simp only; omega) (by rw [hlbu, hsize]) htx'
      (by rw [emitNext_line, hlbu, hsize, htx', htotal]; rfl), hfirst, List.range'_succ, List.append_assoc]
    rfl

/-! ## The frame collected at the other end (R12 to R15) -/

section Receiver

variable {r : State} {c : Chan} {seq frameNo : Byte} {f : Bytes}

/-- The receiver after some of a frame's blocks: it expects the next, and has collected the frame so far. -/
def collected (c : Chan) (seq frameNo : Byte) (f : Bytes) (i : Nat) (r : State) : State :=
  r |> bumpBy Ctr.goodReceived i |> onChan c fun h =>
    { h with expected := some (seq + byteOf i), asm := some { frameNo := frameNo, bytes := f.take (i * r.lbu.size.payload) } }

theorem vset_vset {α : Type} {n : Nat} (v : Vector α n) (i : Fin n) (x y : α) : vset (vset v i x) i y = vset v i y := by
  simp [vset]

theorem onChan_onChan (c : Chan) (g h : Channel → Channel) (s : State) :
    onChan c g (onChan c h s) = onChan c (g ∘ h) s := by
  simp [onChan, onBf, vset_vset]

theorem onChan_congr {g h : Channel → Channel} (e : g (s.chan c) = h (s.chan c)) : onChan c g s = onChan c h s := by
  have e' : g (vget s.bf.channels c) = h (vget s.bf.channels c) := e
  simp only [onChan, onBf, e']

theorem bump_bumpBy (d : Counter) (n : Nat) (s : State) : bump d (bumpBy d n s) = bumpBy d (n + 1) s := by
  have h : satAdd Config.max32 (satAdd Config.max32 (vget s.counters d) n) 1 =
      satAdd Config.max32 (vget s.counters d) (n + 1) := by
    unfold satAdd
    omega
  simp only [bump, bumpBy, vset_vset, vget_vset_same, h]

theorem bumpBy_onChan (d : Counter) (n : Nat) (c : Chan) (g : Channel → Channel) (s : State) :
    bumpBy d n (onChan c g s) = onChan c g (bumpBy d n s) := rfl

theorem extend_takes {b : LineBlock} {a : Collecting} (data : Bytes) (take : Bytes → State → State)
    (ha : (s.chan b.chan).asm = some a) (hn : a.frameNo = b.frameNo) (hl : a.bytes.length + b.used ≤ largestFrame b.chan) :
    extend b data take s = take (a.bytes ++ data) s := by
  simp [extend, ha, hn, Nat.not_lt.2 hl]

/-- The fields of a frame's block as the receiver reads them. -/
def blockRead (size : BlockSize) (c : Chan) (seq frameNo : Byte) (f : Bytes) (i : Nat) : LineBlock :=
  let part := (f.drop (i * size.payload)).take size.payload
  { chan := c, kind := kindAt i (blocksFor size f.length), fill := false, seq := seq + byteOf i, used := part.length,
    frameNo := frameNo, payload := part ++ List.replicate (size.payload - part.length) 0 }

theorem BlockSize.payload_lt (size : BlockSize) : size.payload < 256 := by
  cases size <;> decide

theorem readBlock_frameBlock (size : BlockSize) (c : Chan) (seq frameNo : Byte) (f : Bytes) (i : Nat) :
    blockGood size (frameBlock size c seq frameNo f i) = true ∧
      readBlock size (frameBlock size c seq frameNo f i) = blockRead size c seq frameNo f i := by
  have hpart : ((f.drop (i * size.payload)).take size.payload).length ≤ size.payload := List.length_take_le _ _
  exact ⟨(blockGood_blockBytes hpart).2, readBlock_blockBytes hpart (Nat.lt_of_le_of_lt hpart size.payload_lt)⟩

/-- The part of the frame that a block carries. -/
theorem blockRead_data (size : BlockSize) (c : Chan) (seq frameNo : Byte) (f : Bytes) (i : Nat) :
    (blockRead size c seq frameNo f i).payload.take (blockRead size c seq frameNo f i).used =
      (f.drop (i * size.payload)).take size.payload := List.take_left' rfl

theorem BlockSize.payload_pos (size : BlockSize) : 0 < size.payload := by
  cases size <;> decide

/-- Every block but a frame's last is full, and the last carries the rest. -/
theorem blockRead_used (size : BlockSize) (c : Chan) (seq frameNo : Byte) {f : Bytes} {i : Nat}
    (hi : i < blocksFor size f.length) :
    i * size.payload + (blockRead size c seq frameNo f i).used ≤ f.length ∧
      (i + 1 < blocksFor size f.length → (blockRead size c seq frameNo f i).used = size.payload) ∧
      (¬ i + 1 < blocksFor size f.length → i * size.payload + (blockRead size c seq frameNo f i).used = f.length ∧
        (blockRead size c seq frameNo f i).used ≠ 0 ∧ (blockRead size c seq frameNo f i).used ≤ size.payload) := by
  have hused : (blockRead size c seq frameNo f i).used = min size.payload (f.length - i * size.payload) := by
    simp [blockRead]
  rw [hused]
  cases size <;> simp only [blocksFor, BlockSize.payload] at hi ⊢ <;> omega

theorem blockRead_sane (size : BlockSize) (c : Chan) (seq frameNo : Byte) {f : Bytes} {i : Nat}
    (hi : i < blocksFor size f.length) : malformed size (blockRead size c seq frameNo f i) = false := by
  obtain ⟨-, hfull, hlast⟩ := blockRead_used size c seq frameNo (f := f) hi
  have hpos := size.payload_pos
  by_cases hmore : i + 1 < blocksFor size f.length
  · have hk : kindAt i (blocksFor size f.length) = .first ∨ kindAt i (blocksFor size f.length) = .middle := by
      unfold kindAt
      rw [if_neg (by omega), if_pos hmore]
      split
      · exact .inl rfl
      · exact .inr rfl
    rcases hk with hk | hk <;> simp [malformed, show (blockRead size c seq frameNo f i).kind = _ from hk, hfull hmore]
  · have hk : kindAt i (blocksFor size f.length) = .whole ∨ kindAt i (blocksFor size f.length) = .last := by
      unfold kindAt
      rw [if_neg hmore]
      split
      · exact .inl rfl
      · exact .inr (if_neg (by omega))
    obtain ⟨hused, hne, hle⟩ := hlast hmore
    rcases hk with hk | hk <;>
      simp [malformed, show (blockRead size c seq frameNo f i).kind = _ from hk, hne, hle]

/-- A frame's block taken by a receiver that expects it, or none in particular. -/
theorem blockArrives_frameBlock {u : State} {i : Nat} (ha : assigned c = true)
    (hi : i < blocksFor u.lbu.size f.length) (hl : u.ls.link = .carrying) (hloop : u.ls.loopback = none)
    (he : (u.chan c).expected = none ∨ (u.chan c).expected = some (seq + byteOf i)) :
    blockArrives (frameBlock u.lbu.size c seq frameNo f i) u =
      reassemble (blockRead u.lbu.size c seq frameNo f i) (inSequence (blockRead u.lbu.size c seq frameNo f i) u) := by
  obtain ⟨hgood, hread⟩ := readBlock_frameBlock u.lbu.size c seq frameNo f i
  rw [blockArrives_good hl hgood, hread]
  exact goodBlock_inSequence rfl ha he (blockRead_sane _ _ _ _ hi) (by simp [State.looped, hloop])

/-- The frame so far is the frame cut at a block, and a block more is that cut one block later. -/
theorem take_block (f : Bytes) (i p : Nat) : f.take (i * p) ++ (f.drop (i * p)).take p = f.take ((i + 1) * p) := by
  rw [Nat.succ_mul, List.take_add]

theorem collected_inSequence (i : Nat) (size : BlockSize) :
    inSequence (blockRead size c seq frameNo f i) (collected c seq frameNo f i r) =
      (r |> bumpBy Ctr.goodReceived (i + 1) |> onChan c fun h =>
        { h with expected := some (seq + byteOf (i + 1)),
                 asm := some { frameNo := frameNo, bytes := f.take (i * r.lbu.size.payload) } }) := by
  rw [inSequence, collected, bump, bumpBy_onChan]
  show onChan c _ (onChan c _ (bump Ctr.goodReceived (bumpBy Ctr.goodReceived i r))) = _
  rw [bump_bumpBy, onChan_onChan]
  refine onChan_congr ?_
  simp only [Function.comp, blockRead, byteOf_succ, BitVec.add_assoc]

/-- A MIDDLE or LAST block meets a receiver that has collected the frame up to it. -/
theorem blockArrives_collected {i : Nat} (ha : assigned c = true) (hf : f.length ≤ largestFrame c)
    (hi : i < blocksFor r.lbu.size f.length) (h1 : 1 ≤ i) (hl : r.ls.link = .carrying) (hloop : r.ls.loopback = none) :
    let u := r |> bumpBy Ctr.goodReceived (i + 1) |> onChan c fun h =>
        { h with expected := some (seq + byteOf (i + 1)),
                 asm := some { frameNo := frameNo, bytes := f.take (i * r.lbu.size.payload) } }
    let whole := f.take ((i + 1) * r.lbu.size.payload)
    blockArrives (frameBlock r.lbu.size c seq frameNo f i) (collected c seq frameNo f i r) =
      if i + 1 < blocksFor r.lbu.size f.length then setAsm c (some { frameNo := frameNo, bytes := whole }) u
      else deliver c whole (setAsm c none u) := by
  intro u whole
  have harr := blockArrives_frameBlock (f := f) (seq := seq) (frameNo := frameNo) (u := collected c seq frameNo f i r) ha
    hi hl hloop (.inr (by simp [collected]))
  have hseq : inSequence (blockRead r.lbu.size c seq frameNo f i) (collected c seq frameNo f i r) = u := collected_inSequence i _
  have hu : (u.chan c).asm = some { frameNo := frameNo, bytes := f.take (i * r.lbu.size.payload) } := by simp [u]
  have hlen : (f.take (i * r.lbu.size.payload)).length + (blockRead r.lbu.size c seq frameNo f i).used ≤ largestFrame c := by
    have := (blockRead_used r.lbu.size c seq frameNo (f := f) hi).1
    have := List.length_take_le (i * r.lbu.size.payload) f
    omega
  refine harr.trans ?_
  show reassemble (blockRead r.lbu.size c seq frameNo f i) (inSequence (blockRead r.lbu.size c seq frameNo f i) _) = _
  rw [hseq]
  by_cases hmore : i + 1 < blocksFor r.lbu.size f.length
  · have hkind : (blockRead r.lbu.size c seq frameNo f i).kind = .middle := by
      simp only [blockRead, kindAt]
      rw [if_neg (by omega), if_neg (by omega), if_pos hmore]
    simp only [reassemble, hkind]
    rw [extend_takes _ _ hu rfl hlen, blockRead_data, take_block, if_pos hmore]
    rfl
  · have hkind : (blockRead r.lbu.size c seq frameNo f i).kind = .last := by
      simp only [blockRead, kindAt]
      rw [if_neg (by omega), if_neg (by omega), if_neg hmore]
    simp only [reassemble, hkind]
    rw [extend_takes _ _ hu rfl hlen, blockRead_data, take_block, if_neg hmore]
    rfl

/-- The state that a frame's last block leaves for its consumer. -/
def frameTaken (c : Chan) (seq : Byte) (n : Nat) (r : State) : State :=
  r |> bumpBy Ctr.goodReceived n |> onChan c fun h => { h with expected := some (seq + byteOf n) }

theorem runAll_received (b : Bytes) (l : List Bytes) (s : State) :
    runAll ((b :: l).map .lineBlockReceived) s = runAll (l.map .lineBlockReceived) (blockArrives b s) := rfl

/-- A receiver that has collected the frame up to a block takes the rest, and delivers the frame whole. -/
theorem runAll_collected {n i : Nat} (ha : assigned c = true) (hf : f.length ≤ largestFrame c) (h : 1 ≤ f.length)
    (hi : i + n + 1 = blocksFor r.lbu.size f.length) (h1 : 1 ≤ i) (hl : r.ls.link = .carrying) (hloop : r.ls.loopback = none)
    (hasm : (r.chan c).asm = none) :
    runAll (((List.range' i (n + 1)).map (frameBlock r.lbu.size c seq frameNo f)).map .lineBlockReceived)
      (collected c seq frameNo f i r) = deliver c f (frameTaken c seq (blocksFor r.lbu.size f.length) r) := by
  induction n generalizing i with
  | zero =>
    obtain ⟨-, hfit, -⟩ := blocksFor_bounds r.lbu.size h
    have hlast : i + 1 = blocksFor r.lbu.size f.length := hi
    rw [List.range'_succ, List.map_cons, runAll_received, blockArrives_collected ha hf (by omega) h1 hl hloop, if_neg (by omega),
      List.take_of_length_le (by rw [hlast]; exact hfit)]
    show deliver c f (onChan c _ (onChan c _ _)) = _
    rw [onChan_onChan, hlast]
    refine congrArg _ (onChan_congr ?_)
    show _ = ({ r.chan c with expected := _ } : Channel)
    rw [← hasm]
    rfl
  | succ n ih =>
    have hnext : setAsm c (some { frameNo := frameNo, bytes := f.take ((i + 1) * r.lbu.size.payload) })
        (r |> bumpBy Ctr.goodReceived (i + 1) |> onChan c fun h =>
          { h with expected := some (seq + byteOf (i + 1)),
                   asm := some { frameNo := frameNo, bytes := f.take (i * r.lbu.size.payload) } }) =
        collected c seq frameNo f (i + 1) r := onChan_onChan _ _ _ _
    rw [List.range'_succ, List.map_cons, runAll_received, blockArrives_collected ha hf (by omega) h1 hl hloop,
      if_pos (by omega), hnext]
    exact ih (by omega) (by omega)

/-- The first block of a frame that takes several: the receiver starts to collect it. -/
theorem blockArrives_first (ha : assigned c = true) (hf : f.length ≤ largestFrame c) (hi : 1 < blocksFor r.lbu.size f.length)
    (hl : r.ls.link = .carrying) (hloop : r.ls.loopback = none) (hasm : (r.chan c).asm = none)
    (he : (r.chan c).expected = none ∨ (r.chan c).expected = some seq) :
    blockArrives (frameBlock r.lbu.size c seq frameNo f 0) r = collected c seq frameNo f 1 r := by
  have hseq0 : seq + byteOf 0 = seq := BitVec.add_zero seq
  rw [blockArrives_frameBlock ha (by omega) hl hloop (by rwa [hseq0])]
  obtain ⟨hle, hfull, -⟩ := blockRead_used r.lbu.size c seq frameNo (f := f) (i := 0) (by omega)
  have hkind : (blockRead r.lbu.size c seq frameNo f 0).kind = .first := by
    simp only [blockRead, kindAt]
    rw [if_neg (by omega), if_pos trivial]
  have hidle : ((inSequence (blockRead r.lbu.size c seq frameNo f 0) r).chan
      (blockRead r.lbu.size c seq frameNo f 0).chan).asm = none := by
    rw [inSequence, chan_onChan_same]
    exact hasm
  simp only [reassemble, hkind, abandon_idle _ hidle]
  rw [if_neg (by simp only [blockRead] at *; omega), blockRead_data]
  show onChan c _ (onChan c _ _) = _
  rw [onChan_onChan]
  refine onChan_congr ?_
  simp [blockRead, byteOf]

/-- A frame that one block holds is delivered at once. -/
theorem blockArrives_whole (ha : assigned c = true) (hf : f.length ≤ largestFrame c) (h : 1 ≤ f.length)
    (hi : blocksFor r.lbu.size f.length = 1)
    (hl : r.ls.link = .carrying) (hloop : r.ls.loopback = none) (hasm : (r.chan c).asm = none)
    (he : (r.chan c).expected = none ∨ (r.chan c).expected = some seq) :
    blockArrives (frameBlock r.lbu.size c seq frameNo f 0) r = deliver c f (frameTaken c seq 1 r) := by
  have hseq0 : seq + byteOf 0 = seq := BitVec.add_zero seq
  rw [blockArrives_frameBlock ha (by omega) hl hloop (by rwa [hseq0])]
  obtain ⟨hle, -, hlast⟩ := blockRead_used r.lbu.size c seq frameNo (f := f) (i := 0) (by omega)
  obtain ⟨-, hfit, -⟩ := blocksFor_bounds r.lbu.size h
  have hkind : (blockRead r.lbu.size c seq frameNo f 0).kind = .whole := by
    simp only [blockRead, kindAt]
    rw [if_pos (by omega)]
  have hidle : ((inSequence (blockRead r.lbu.size c seq frameNo f 0) r).chan
      (blockRead r.lbu.size c seq frameNo f 0).chan).asm = none := by
    rw [inSequence, chan_onChan_same]
    exact hasm
  simp only [reassemble, hkind, abandon_idle _ hidle]
  rw [if_neg (by simp only [blockRead] at *; omega), blockRead_data, Nat.zero_mul, List.drop_zero,
    List.take_of_length_le (by rw [hi] at hfit; omega)]
  refine congrArg (deliver c f) (onChan_congr ?_)
  simp [blockRead, byteOf]

end Receiver

/-- Settles O30: the sender puts the frame's blocks on the line in order, and the receiver collects them one by one. -/
theorem framesCrossTheLine : Obligations.FramesCrossTheLine := by
  intro c f source s r ha h hf hsize hl hloop hasm he blocks
  have hcount : blocks.length = blocksFor s.lbu.size f.length := by simp [blocks, blocksOf_eq]
  obtain ⟨hpos, -, -⟩ := blocksFor_bounds s.lbu.size h
  obtain ⟨n, hn⟩ : ∃ n, blocksFor s.lbu.size f.length = n + 1 := ⟨_, (Nat.sub_add_cancel hpos).symm⟩
  have hblocks : blocks = (List.range' 0 (n + 1)).map (frameBlock s.lbu.size c (s.chan c).txSeq (s.chan c).nextFrame f) := by
    rw [← hn, ← List.range_eq_range']
    rfl
  rw [hcount]
  constructor
  · rw [hn, startFrame, Nat.add_sub_cancel]
    refine (continueFrame_line n rfl (by simp only; omega) rfl ?_).trans (congrArg _ hblocks.symm)
    simp [byteOf]
  · rw [hblocks, ← hsize, List.range'_succ, List.map_cons, runAll_received]
    cases n with
    | zero =>
      rw [blockArrives_whole ha hf h (by rw [hsize]; exact hn) hl hloop hasm he, hsize, hn]
      rfl
    | succ n =>
      rw [blockArrives_first ha hf (by rw [hsize]; omega) hl hloop hasm he]
      exact runAll_collected ha hf h (by rw [hsize]; omega) (by omega) hl hloop hasm

/-! ## The checks in their order (R11) -/

/-- What a FIRST block leaves of a channel that collects nothing (R12, R14). -/
def firstCollected (b : LineBlock) (s : State) : State :=
  s |> bump Ctr.goodReceived |> afterSequence b |> onChan b.chan fun h =>
        { h with expected := some (b.seq + 1), asm := some { frameNo := b.frameNo, bytes := b.payload.take b.used } }

theorem afterSequence_in {b : LineBlock} (he : (s.chan b.chan).expected = none ∨ (s.chan b.chan).expected = some b.seq) :
    afterSequence b s = s := by
  simp [afterSequence, whenever, he]

theorem afterSequence_out {b : LineBlock} (he : ¬ ((s.chan b.chan).expected = none ∨ (s.chan b.chan).expected = some b.seq)) :
    afterSequence b s = onLs (fun l => { l with gapMark := true }) (bump Ctr.sequenceGaps s) := by
  rw [afterSequence, decide_eq_true he]
  rfl

theorem afterSequence_kept (b : LineBlock) (s : State) : (afterSequence b s).bf = s.bf ∧
    (afterSequence b s).lbu = s.lbu ∧ (afterSequence b s).ls.loopback = s.ls.loopback := by
  unfold afterSequence whenever
  split <;> exact ⟨rfl, rfl, rfl⟩

theorem afterSequence_countsOnly (b : LineBlock) (s : State) : countsOnly [Ctr.sequenceGaps] s (afterSequence b s) :=
  (countsOnly.refl _ s).whenever fun v => ((countsOnly.refl _ v).bump (by simp)).congr rfl

theorem firstCollected_changesOnly (b : LineBlock) (s : State) :
    changesOnly [.framer, .supervisor, .counters] s (firstCollected b s) := by
  unfold firstCollected afterSequence whenever
  split <;> simp [changesOnly_iff]

theorem goodBlock_first {b : LineBlock} (hf : b.fill = false) (ha : assigned b.chan = true) (hk : b.kind = .first)
    (hm : malformed s.lbu.size b = false) (hlen : b.used ≤ largestFrame b.chan) (hl : s.looped b.chan = false)
    (hasm : (s.chan b.chan).asm = none) : goodBlock b s = firstCollected b s := by
  obtain ⟨v, hv⟩ : ∃ v, v = afterSequence b (bump Ctr.goodReceived s) := ⟨_, rfl⟩
  have hseq : checkSequence b (bump Ctr.goodReceived s) =
      onChan b.chan (fun h => { h with expected := some (b.seq + 1) }) v := hv ▸ checkSequence_idle b hasm
  obtain ⟨hbf, hlbu, hloop⟩ : v.bf = s.bf ∧ v.lbu = s.lbu ∧ v.ls.loopback = s.ls.loopback :=
    hv ▸ afterSequence_kept b (bump Ctr.goodReceived s)
  have hidle : ((onChan b.chan (fun h => { h with expected := some (b.seq + 1) }) v).chan b.chan).asm = none := by
    rw [chan_onChan_same, chan_congr hbf]
    exact hasm
  simp only [goodBlock, hf, ha, Bool.false_eq_true, if_false, if_true, hseq]
  rw [takeBlock_sane (by simpa [hlbu] using hm) (by simpa [State.looped, hloop] using hl)]
  simp only [reassemble, hk, abandon_idle _ hidle]
  rw [if_neg (by omega), setAsm, onChan_onChan, hv]
  rfl

/-- Settles O32: each check of R11 ends the handling of what it refuses, and a FIRST block that passes them all is collected. -/
theorem blocksAreCheckedInOrder : Obligations.BlocksAreCheckedInOrder := by
  intro s bytes
  refine ⟨fun hl => ?_, fun hl hg => ?_, fun hl hg => ?_⟩
  · have hc : s.carrying = false := by simpa [State.carrying] using hl
    have hstep : exec (.lineBlockReceived bytes) s = .next (bump Ctr.offLine s) :=
      congrArg Host.Outcome.next (by simp [blockArrives, hc])
    exact ⟨_, hstep, counter_bump_same s _, by simp [changesOnly_iff], (countsOnly.refl _ s).bump (by simp)⟩
  · have hstep : exec (.lineBlockReceived bytes) s = .next (badBlock s) :=
      congrArg Host.Outcome.next (by simp [blockArrives, State.carrying, hl, hg])
    exact ⟨_, hstep, rfl, counter_bump_same s _, by simp [changesOnly_iff, badBlock],
      ((countsOnly.refl _ s).bump (by simp)).congr rfl⟩
  intro b
  have hstep : exec (.lineBlockReceived bytes) s = .next (goodBlock b s) := congrArg Host.Outcome.next (blockArrives_good hl hg)
  rw [hstep]
  clear_value b
  refine ⟨fun hf => ?_, fun hf hch => ?_, fun hf hch hk hu hlen hloop hasm => ?_⟩
  · refine ⟨_, rfl, ?_⟩
    simp only [goodBlock, hf, if_true]
    exact ⟨counter_bump_same s _, by simp [changesOnly_iff], (countsOnly.refl _ s).bump (by simp)⟩
  · have ha : assigned b.chan = false := by
      simp [assigned, Fin.le_def]
      omega
    refine ⟨_, rfl, ?_⟩
    simp only [goodBlock, hf, ha, Bool.false_eq_true, if_false]
    exact ⟨counter_bump_same s _, by simp [changesOnly_iff], (countsOnly.refl _ s).bump (by simp)⟩
  · have ha : assigned b.chan = true := by
      simp [assigned, Fin.le_def]
      omega
    have hsane : malformed s.lbu.size b = false := by simp [malformed, hk, hu]
    have hbf : (afterSequence b (bump Ctr.goodReceived s)).bf = s.bf := (afterSequence_kept b _).1
    refine ⟨firstCollected b s, congrArg Host.Outcome.next (goodBlock_first hf ha hk hsane hlen hloop hasm), fun c => ?_, ?_, ?_,
      ?_, ?_⟩
    · rw [firstCollected, chan_onChan, chan_congr hbf, chan_congr hbf]
      by_cases hc : c = b.chan
      · simp [hc]
      · rw [if_neg hc, if_neg (Ne.symm hc)]
    · by_cases he : (s.chan b.chan).expected = none ∨ (s.chan b.chan).expected = some b.seq
      · rw [if_pos he]
        have hls : (firstCollected b s).ls = (afterSequence b (bump Ctr.goodReceived s)).ls := rfl
        exact hls.trans (by rw [afterSequence_in (s := bump Ctr.goodReceived s) he]; simp)
      · rw [if_neg he]
        have hout := afterSequence_out (s := bump Ctr.goodReceived s) he
        refine ⟨congrArg State.ls hout, ?_⟩
        exact counted_after ((countsOnly.refl _ s).bump (c := Ctr.goodReceived) (by simp)) (cs := [Ctr.goodReceived]) (by decide)
          ((rfl : (firstCollected b s).counter _ = (afterSequence b (bump Ctr.goodReceived s)).counter _).trans
            ((congrArg (fun u => u.counter Ctr.sequenceGaps) hout).trans (counter_bump_same _ _)))
    · exact counted_then (counter_bump_same s _) ((afterSequence_countsOnly b _).congr rfl) (by decide)
    · exact firstCollected_changesOnly b s
    · exact (((countsOnly.refl _ s).bump (by simp)).trans
        ((afterSequence_countsOnly b _).mono (by simp))).congr rfl

end Sys2Proof.Machine

/-! PROOFS. The Line Supervisor's moves: O19, O21, O22 and O26. First what each move leaves of the supervisor, the records and the
counters; then the slots dropped with the line (R163); then the four statements. -/

namespace Sys2Proof.Machine

variable {s t u : State}

/-! ## Records (R169, R170) -/

theorem recordsOnly.refl (ks : List FaultKind) (s : State) : recordsOnly ks s s := fun _ _ => rfl

theorem recordsOnly.trans {ks : List FaultKind} (h : recordsOnly ks s u) (k : recordsOnly ks u t) : recordsOnly ks s t :=
  fun j hj => (k j hj).trans (h j hj)

theorem recordsOnly.mono {ks js : List FaultKind} (h : recordsOnly ks s t) (hs : ks ⊆ js) : recordsOnly js s t :=
  fun j hj => h j fun hk => hj (hs hk)

theorem recordsOnly_of_fu {ks : List FaultKind} (h : t.fu = s.fu) : recordsOnly ks s t := fun _ _ => fault_congr h _

/-- A record that an act leaves alone. -/
theorem recordsOnly.kept {ks : List FaultKind} {k : FaultKind} (h : recordsOnly ks s t) (hk : k ∉ ks) : t.fault k = s.fault k :=
  h k hk

theorem Reports.uptime (h : Reports s t) : t.fu.uptime = s.fu.uptime := by rw [h.monitor]

theorem occurrence_uptime (k : FaultKind) (detail : Nat) (s : State) : (occurrence k detail s).fu.uptime = s.fu.uptime :=
  (occurrence_reports k detail (Reports.refl s)).uptime

theorem fault_occurrence_reported (k : FaultKind) (detail : Nat) (s : State) :
    (occurrence k detail s).fault k = reported k detail s.fu.uptime (s.fault k) := by
  rw [fault_occurrence, reported, State.isActive]
  cases k.isCondition <;> cases (s.fault k).active <;> simp

theorem fault_occurrence_other {k j : FaultKind} (h : k ≠ j) (detail : Nat) (s : State) :
    (occurrence k detail s).fault j = s.fault j := by
  rw [fault_occurrence, if_neg fun c => h c.1]

theorem fault_endCondition_other {k j : FaultKind} (h : k ≠ j) (s : State) : (endCondition k s).fault j = s.fault j := by
  rw [fault_endCondition, if_neg h]

/-! ## The transceiver (R20) and the link state (R39) -/

theorem sendHalt_out (s : State) : (sendHalt s).out = { s.out with xcvr := s.out.xcvr ++ [.halt] } := rfl

theorem sendTrain_ls (i : Fin 8) (s : State) : (sendTrain i s).ls =
    { s.ls with rung := i, train := some { limit := 1000 * s.param .trainTimeout, elapsed := 0 } } := rfl

theorem sendTrain_out (i : Fin 8) (s : State) : (sendTrain i s).out =
    { s.out with xcvr := s.out.xcvr ++ [.train (vget s.ls.profile i).cap] } := rfl

theorem sendTrain_counted (i : Fin 8) (s : State) : counted Ctr.trainingsStarted 1 s (sendTrain i s) := counter_bump_same _ _

theorem sendTrain_countsOnly (i : Fin 8) (s : State) : countsOnly [Ctr.trainingsStarted] s (sendTrain i s) :=
  ((countsOnly.refl _ s).congr rfl).bump (by simp)

theorem enterLink_ls (new : LinkState) (s : State) : (enterLink new s).ls = { s.ls with link := new } := by
  simp only [enterLink, whenever]
  split <;> simp

/-- A change of link state that loses no line is nothing but that. -/
theorem enterLink_quiet {new : LinkState} (h : (s.ls.link.wasUp && new.isDown) = false) :
    enterLink new s = onLs (fun l => { l with link := new }) s := by
  simp [enterLink, h, whenever]

theorem enterLink_lost {new : LinkState} (h : (s.ls.link.wasUp && new.isDown) = true) :
    enterLink new s = occurrence .lineDown s.ls.rate (onLs (fun l => { l with link := new }) s) := by
  simp [enterLink, h, whenever]

theorem enterLink_recordsOnly (new : LinkState) (s : State) : recordsOnly [.lineDown] s (enterLink new s) := by
  cases h : s.ls.link.wasUp && new.isDown with
  | false => rw [enterLink_quiet h]; exact recordsOnly_of_fu rfl
  | true => rw [enterLink_lost h]; exact (recordsOnly_of_fu rfl).trans (occurrence_recordsOnly _ _ _)

theorem enterLink_fault (new : LinkState) (s : State) : (enterLink new s).fault .lineDown =
    if (s.ls.link.wasUp && new.isDown) = true then reported .lineDown s.ls.rate s.fu.uptime (s.fault .lineDown)
    else s.fault .lineDown := by
  cases h : s.ls.link.wasUp && new.isDown with
  | false => rw [enterLink_quiet h]; rfl
  | true => rw [enterLink_lost h, fault_occurrence_reported]; rfl

theorem enterLink_countsOnly (new : LinkState) (s : State) : countsOnly reportCounters s (enterLink new s) := by
  cases h : s.ls.link.wasUp && new.isDown with
  | false => rw [enterLink_quiet h]; exact (countsOnly.refl _ s).congr rfl
  | true => rw [enterLink_lost h]; exact ((countsOnly.refl _ s).congr rfl).trans (occurrence_countsOnly _ _ _)

theorem bumpBy_countsOnly (c : Counter) (n : Nat) (s : State) : countsOnly [c] s (bumpBy c n s) := fun d hd => by
  rw [counter_bumpBy, if_neg fun e => hd (by simp [e])]

/-! ## Stray messages (R21) -/

theorem stray_counted (s : State) : changesOnly [.counters] s (stray s) ∧ countsOnly [Ctr.strayMessages] s (stray s) ∧
    counted Ctr.strayMessages 1 s (stray s) :=
  ⟨by simp [changesOnly_iff, stray], (countsOnly.refl _ s).bump (by simp), counter_bump_same _ _⟩

/-- Settles O19: each message asks the link state first, and where it does not fit is counted and no more. -/
theorem strayMessagesAreOnlyCounted : Obligations.StrayMessagesAreOnlyCounted := by
  intro s c h
  have hstep : exec c s = .next (stray s) := by
    rcases h with ⟨⟨rate, margin, rfl⟩, h1, h2⟩ | ⟨rfl, h1, h2⟩ | ⟨rfl, h1⟩ | ⟨rfl, h1⟩ | ⟨⟨margin, rfl⟩, h1⟩
    · exact congrArg Host.Outcome.next (if_neg ((isTraining_iff _).not.2 (not_or.2 ⟨h1, h2⟩)))
    · exact congrArg Host.Outcome.next (if_neg ((isTraining_iff _).not.2 (not_or.2 ⟨h1, h2⟩)))
    · exact congrArg Host.Outcome.next (if_neg (by simpa [State.carrying] using h1))
    · exact congrArg Host.Outcome.next (if_neg h1)
    · exact congrArg Host.Outcome.next (if_neg (by simpa [State.carrying] using h1))
  exact ⟨_, hstep, stray_counted s⟩

/-! ## A training failed (R31) -/

theorem trainingFailed_below {i : Fin 8} (h : s.rungBelow s.ls.rung = some i) (halt : Bool) :
    trainingFailed halt s = sendTrain i (whenever halt sendHalt s) := by
  simp only [trainingFailed, h]

theorem trainingFailed_lowest (h : s.rungBelow s.ls.rung = none) (halt : Bool) : trainingFailed halt s = enterWaiting s := by
  simp only [trainingFailed, h]

/-- A TRAINED below the floor rate fails the training; its rate may have been clamped (R22). -/
theorem trainedTaken_below {rate : Nat} {margin : Int}
    (h : min rate (vget s.ls.profile s.ls.rung).cap < s.param .floorRate) : trainedTaken rate margin s =
      (s |> whenever ((vget s.ls.profile s.ls.rung).cap < rate) (bump Ctr.ratesClamped) |> bump Ctr.trainingsBelowFloor
        |> bump Ctr.noTrainReceived |> trainingFailed false) := by
  have hparam : (whenever (decide ((vget s.ls.profile s.ls.rung).cap < rate)) (bump Ctr.ratesClamped) s).param .floorRate =
      s.param .floorRate := by
    unfold whenever
    split <;> rfl
  simp only [trainedTaken, hparam, if_pos h]

/-- The state in which a training fails, once the cause has been counted (R22, R31). -/
def failing (c : Instr) (s : State) : State :=
  match c with
  | .trained rate _ => s |> whenever ((vget s.ls.profile s.ls.rung).cap < rate) (bump Ctr.ratesClamped)
      |> bump Ctr.trainingsBelowFloor |> bump Ctr.noTrainReceived
  | .trainTimerExpiry => bump Ctr.trainTimerExpiries s
  | _ => bump Ctr.noTrainReceived s

/-- The three causes of a failed training. -/
def failsTraining (c : Instr) (s : State) : Prop :=
  c = .noTrain ∨ (c = .trainTimerExpiry ∧ s.ls.train ≠ none) ∨
    ∃ rate margin, c = .trained rate margin ∧ min rate (vget s.ls.profile s.ls.rung).cap < s.param .floorRate

theorem exec_failsTraining {c : Instr} (h : s.ls.link = .training ∨ s.ls.link = .retraining) (hc : failsTraining c s) :
    exec c s = .next (trainingFailed (c == .trainTimerExpiry) (failing c s)) := by
  have htrain : s.ls.link.isTraining = true := (isTraining_iff _).2 h
  rcases hc with rfl | ⟨rfl, ht⟩ | ⟨rate, margin, rfl, hr⟩
  · exact congrArg Host.Outcome.next (if_pos htrain)
  · exact congrArg Host.Outcome.next (if_pos ⟨htrain, Option.isSome_iff_ne_none.2 ht⟩)
  · exact congrArg Host.Outcome.next ((if_pos htrain).trans (trainedTaken_below hr))

/-- Only counters have moved by then. -/
theorem failing_alone (c : Instr) (s : State) : changesOnly [.counters] s (failing c s) := by
  unfold failing whenever
  split
  · split <;> simp [changesOnly_iff]
  · simp [changesOnly_iff]
  · simp [changesOnly_iff]

theorem failing_countsOnly (c : Instr) (s : State) : countsOnly
    [Ctr.ratesClamped, Ctr.trainingsBelowFloor, Ctr.noTrainReceived, Ctr.trainTimerExpiries] s (failing c s) := by
  unfold failing
  split
  · exact (((countsOnly.refl _ s).whenever fun v => (countsOnly.refl _ v).bump (by simp)).bump (by simp)).bump (by simp)
  · exact (countsOnly.refl _ s).bump (by simp)
  · exact (countsOnly.refl _ s).bump (by simp)

/-- What the rung below takes over from a failed training. -/
theorem trainingFailed_next {i : Fin 8} (h : s.rungBelow s.ls.rung = some i) (halt : Bool) :
    (trainingFailed halt s).ls =
        { s.ls with rung := i, train := some { limit := 1000 * s.param .trainTimeout, elapsed := 0 } } ∧
      (trainingFailed halt s).out = { s.out with
        xcvr := s.out.xcvr ++ ((if halt then [.halt] else []) ++ [.train (vget s.ls.profile i).cap]) } ∧
      changesOnly [.supervisor, .outputs, .counters] s (trainingFailed halt s) ∧
      counted Ctr.trainingsStarted 1 s (trainingFailed halt s) ∧ countsOnly [Ctr.trainingsStarted] s (trainingFailed halt s) := by
  rw [trainingFailed_below h]
  cases halt with
  | false => exact ⟨rfl, rfl, by simp [changesOnly_iff, whenever], sendTrain_counted i s, sendTrain_countsOnly i s⟩
  | true =>
    refine ⟨rfl, ?_, by simp [changesOnly_iff, whenever, sendHalt, sendXcvr], sendTrain_counted i _,
      ((countsOnly.refl _ s).congr rfl).trans (sendTrain_countsOnly i _)⟩
    show ({ s.out with xcvr := s.out.xcvr ++ [.halt] ++ [_] } : Outputs) = _
    rw [List.append_assoc]
    rfl

/-- What a cause of failure leaves for the ladder to look at. -/
theorem failing_same (c : Instr) (s : State) : (failing c s).ls = s.ls ∧ (failing c s).du = s.du ∧ (failing c s).out = s.out ∧
    (failing c s).bf = s.bf ∧ (failing c s).cc = s.cc ∧ (failing c s).fu = s.fu ∧ (failing c s).qm = s.qm ∧
    (failing c s).me = s.me := by
  unfold failing whenever
  split
  · split <;> exact ⟨rfl, rfl, rfl, rfl, rfl, rfl, rfl, rfl⟩
  · exact ⟨rfl, rfl, rfl, rfl, rfl, rfl, rfl, rfl⟩
  · exact ⟨rfl, rfl, rfl, rfl, rfl, rfl, rfl, rfl⟩

/-- A failed training with a valid rung below, whatever failed it. -/
theorem exec_failsTraining_next {c : Instr} {i : Fin 8} (h : s.ls.link = .training ∨ s.ls.link = .retraining)
    (hi : s.rungBelow s.ls.rung = some i) (hc : failsTraining c s) :
    ∃ t, exec c s = .next t ∧
      t.ls = { s.ls with rung := i, train := some { limit := 1000 * s.param .trainTimeout, elapsed := 0 } } ∧
      t.out = { s.out with xcvr := s.out.xcvr ++
        ((if c = .trainTimerExpiry then [.halt] else []) ++ [.train (vget s.ls.profile i).cap]) } ∧
      changesOnly [.supervisor, .outputs, .counters] s t ∧ counted Ctr.trainingsStarted 1 s t ∧
      countsOnly [Ctr.trainingsStarted] (failing c s) t := by
  obtain ⟨hls, hdu, hout, -⟩ := failing_same c s
  have hbelow : (failing c s).rungBelow (failing c s).ls.rung = some i := by
    rw [hls, ← hi]
    simp only [State.rungBelow, State.rungValid, hls]
  obtain ⟨hl, ho, hch, hcount, honly⟩ := trainingFailed_next hbelow (c == .trainTimerExpiry)
  refine ⟨_, exec_failsTraining h hc, ?_, ?_, ((failing_alone c s).mono (by decide)).trans hch,
    counted_after (failing_countsOnly c s) (by decide) hcount, honly⟩
  · rw [hl, hls, param_congr hdu]
  · rw [ho, hout, hls]
    simp only [beq_iff_eq]

/-- Settles O21: the three causes count, the ladder's next rung is tried, and only the train timer sends HALT before. -/
theorem failedTrainingGoesDownTheLadder : Obligations.FailedTrainingGoesDownTheLadder := by
  intro s i h hi down
  refine ⟨?_, fun rate margin hr => ?_, fun ht => ?_⟩
  · obtain ⟨t, hx, hl, ho, hch, hts, honly⟩ := exec_failsTraining_next (c := .noTrain) h hi (.inl rfl)
    exact ⟨t, hx, hl, ho, counted_then (s := s) (counter_bump_same _ _) honly (by decide), hts, hch,
      (((countsOnly.refl _ s).bump (by simp)).trans (honly.mono (by simp)))⟩
  · obtain ⟨t, hx, hl, ho, hch, hts, honly⟩ := exec_failsTraining_next h hi (.inr (.inr ⟨rate, margin, rfl, hr⟩))
    refine ⟨t, hx, hl, ho, counted_then ?_ honly (by decide), hts, hch, ?_⟩
    · have hclamp : countsOnly [Ctr.ratesClamped] s
          (whenever (decide ((vget s.ls.profile s.ls.rung).cap < rate)) (bump Ctr.ratesClamped) s) :=
        (countsOnly.refl _ s).whenever fun v => (countsOnly.refl _ v).bump (by simp)
      exact counted_then (counted_after hclamp (by decide) (counter_bump_same _ _))
        ((countsOnly.refl [Ctr.noTrainReceived] _).bump (by simp)) (by decide)
    · exact ((((countsOnly.refl _ s).whenever fun v => (countsOnly.refl _ v).bump (by simp)).bump (by simp)).bump
        (by simp)).trans (honly.mono (by simp))
  · obtain ⟨t, hx, hl, ho, hch, hts, honly⟩ := exec_failsTraining_next h hi (.inr (.inl ⟨rfl, ht⟩))
    exact ⟨t, hx, hl, ho, counted_then (s := s) (counter_bump_same _ _) honly (by decide), hts, hch,
      (((countsOnly.refl _ s).bump (by simp)).trans (honly.mono (by simp)))⟩

/-! ## Slots dropped with the line (R163) -/

/-- What a handset lifted with the line down can do to a call: it joins one that is CONNECTED (R151, R152). -/
def onlyJoined (s t : State) : Prop := ∀ n, t.call n = s.call n ∨
  ((s.call n).state = .connected ∧ t.call n = { s.call n with attached := (t.call n).attached })

theorem onlyJoined.refl (s : State) : onlyJoined s s := fun _ => .inl rfl

theorem onlyJoined.trans (h : onlyJoined s u) (k : onlyJoined u t) : onlyJoined s t := by
  intro n
  rcases h n with h | ⟨hc, h⟩ <;> rcases k n with k | ⟨kc, k⟩
  · exact .inl (k.trans h)
  · exact .inr ⟨h ▸ kc, h ▸ k⟩
  · exact .inr ⟨hc, by rw [k]; exact h⟩
  · refine .inr ⟨hc, ?_⟩
    rw [k, h]

theorem onlyJoined_of_cc (h : t.cc = s.cc) : onlyJoined s t := fun n => .inl (call_congr h n)

theorem onlyJoined.state (h : onlyJoined s t) (n : Slot) :
    (t.call n).state = (s.call n).state ∧ (t.call n).signals = (s.call n).signals ∧
      (t.call n).endCause = (s.call n).endCause ∧ ((s.call n).state = .free → t.call n = s.call n) := by
  rcases h n with h | ⟨hc, h⟩
  · exact ⟨by rw [h], by rw [h], by rw [h], fun _ => h⟩
  · exact ⟨by rw [h], by rw [h], by rw [h], fun hf => by rw [hf] at hc; cases hc⟩

/-- The counters of a handset lifted with the line down. -/
def liftCounters : List Counter := [Ctr.offHooks .a, Ctr.offHooks .b, Ctr.callsJoined]

theorem offHook_lineDown (h : s.carrying = false) (p : Port) :
    onlyJoined s (offHook p s) ∧ recordsOnly [] s (offHook p s) ∧ countsOnly liftCounters s (offHook p s) := by
  have hbump : Ctr.offHooks p ∈ liftCounters := by cases p <;> simp [liftCounters]
  have hc : (bump (Ctr.offHooks p) s).carrying = false := h
  unfold offHook
  dsimp only
  split
  · next n hn =>
    have hconn : ((bump (Ctr.offHooks p) s).call n).state = .connected := joinSlot_connected hn
    refine ⟨fun m => ?_, recordsOnly_of_fu (by simp), ?_⟩
    · have hcc : (join p n (bump (Ctr.offHooks p) s)).cc =
          (onCall n (fun c => { c with attached := c.attached.put p true }) (bump (Ctr.offHooks p) s)).cc := by
        simp [join, attach]
      rw [call_congr hcc, call_onCall]
      split
      · next e => subst e; exact .inr ⟨hconn, rfl⟩
      · exact .inl rfl
    · exact (((countsOnly.refl _ s).bump hbump).congr (by simp [attach])).bump (by simp [liftCounters])
  · rw [hc]
    exact ⟨onlyJoined_of_cc (by simp), recordsOnly_of_fu (by simp), ((countsOnly.refl _ s).bump hbump).congr (by simp)⟩

theorem takeIfLifted_lineDown (h : s.carrying = false) (p : Port) :
    onlyJoined s (takeIfLifted p s) ∧ recordsOnly [] s (takeIfLifted p s) ∧ countsOnly liftCounters s (takeIfLifted p s) := by
  unfold takeIfLifted
  split
  · exact offHook_lineDown h p
  · exact ⟨.refl s, .refl _ s, .refl _ s⟩

theorem takeLifted_lineDown (h : s.carrying = false) (ports : PortSet) :
    onlyJoined s (takeLifted ports s) ∧ recordsOnly [] s (takeLifted ports s) ∧ countsOnly liftCounters s (takeLifted ports s) := by
  have hone : ∀ (b : Bool) (p : Port) (v : State), v.carrying = false →
      onlyJoined v (whenever b (takeIfLifted p) v) ∧ recordsOnly [] v (whenever b (takeIfLifted p) v) ∧
        countsOnly liftCounters v (whenever b (takeIfLifted p) v) := by
    intro b p v hv
    cases b with
    | false => exact ⟨.refl v, .refl _ v, .refl _ v⟩
    | true => exact takeIfLifted_lineDown hv p
  have hmid : (whenever ports.a (takeIfLifted .a) s).carrying = false := by
    unfold whenever
    split
    · simpa [State.carrying] using h
    · exact h
  obtain ⟨hj, hr, hc⟩ := hone ports.a .a s h
  obtain ⟨kj, kr, kc⟩ := hone ports.b .b _ hmid
  exact ⟨hj.trans kj, hr.trans kr, hc.trans kc⟩

theorem floorCheck_lineDown (h : s.carrying = false) : floorCheck s = s := by
  unfold floorCheck
  split
  · simp [h]
  · rfl

/-- A slot freed while no line carries: its record, and the media brought in line with it (R147). -/
theorem freeSlot_lineDown (h : s.carrying = false) (n : Slot) (cause : Cause) : freeSlot n cause s =
    followCall n (onCall n (fun c => c.freed cause s.ls.link.isHold) s) :=
  floorCheck_lineDown (by simpa [State.carrying] using h)

theorem followCall_countsOnly (n : Slot) (s : State) : countsOnly [Ctr.staleVoice] s (followCall n s) :=
  ((countsOnly.refl _ s).congr (u := onMedia n (fun u => u.change (s.call n).mediaState) s) rfl).whenever
    fun v => (countsOnly.refl _ v).bump (by simp)

theorem followCall_media (n m : Slot) (s : State) : (followCall n s).media m =
    if n = m then (s.media n).change (s.call n).mediaState else s.media m := by
  have hb : ∀ (b : Bool) (v : State), (whenever b (bump Ctr.staleVoice) v).media m = v.media m := by
    intro b v
    cases b <;> rfl
  rw [followCall, setMedia, hb, media_onMedia]

/-- The counters of a slot dropped with the line. -/
def dropCounters : List Counter :=
  [Ctr.framesCutShort, Ctr.signalsDiscarded, Ctr.staleVoice, Ctr.callsDropped] ++ liftCounters ++ reportCounters

/-- A slot dropped, before the handsets that it rang are looked at again. -/
def dropped (n : Slot) (s : State) : State :=
  s |> stopAll (s.call n).ringSet |> releaseAll (s.call n).attached |> cutShort n.chan (fun src => src == .signal n)
    |> bumpBy Ctr.signalsDiscarded (s.call n).signals.length |> onCall n (fun c => { c with signals := [] })
    |> freeSlot n .line |> occurrence .callDropped n.number |> bump Ctr.callsDropped

theorem dropSlot_eq (n : Slot) (s : State) :
    dropSlot n s = if (s.call n).state = .free then s else takeLifted (s.call n).ringSet (dropped n s) := by
  unfold dropSlot State.nonFree
  by_cases h : (s.call n).state = .free
  · simp [h]
  · simp [h, dropped]

/-- The state in which a slot is freed as it is dropped. -/
def silenced (n : Slot) (s : State) : State :=
  s |> stopAll (s.call n).ringSet |> releaseAll (s.call n).attached |> cutShort n.chan (fun src => src == .signal n)
    |> bumpBy Ctr.signalsDiscarded (s.call n).signals.length |> onCall n (fun c => { c with signals := [] })

theorem dropped_eq (h : s.carrying = false) (n : Slot) : dropped n s =
    (silenced n s |> onCall n (fun c => c.freed .line s.ls.link.isHold) |> followCall n
      |> occurrence .callDropped n.number |> bump Ctr.callsDropped) := by
  have hls : (silenced n s).ls = s.ls := by simp [silenced]
  have hc : (silenced n s).carrying = false := by simpa [State.carrying, hls] using h
  have hfree := freeSlot_lineDown hc n .line
  rw [hls] at hfree
  exact congrArg (fun v => bump Ctr.callsDropped (occurrence .callDropped n.number v)) hfree

theorem call_dropped (h : s.carrying = false) (n m : Slot) : (dropped n s).call m =
    if n = m then CallSlot.freed { s.call n with signals := [] } .line s.ls.link.isHold else s.call m := by
  have hsil : (silenced n s).call m = if n = m then { s.call n with signals := [] } else s.call m := by
    have hcc : (s |> stopAll (s.call n).ringSet |> releaseAll (s.call n).attached
        |> cutShort n.chan (fun src => src == .signal n)
        |> bumpBy Ctr.signalsDiscarded (s.call n).signals.length).cc = s.cc := by simp
    rw [silenced, call_onCall, call_congr hcc, call_congr hcc]
  have hcc' : (dropped n s).cc = (onCall n (fun c => c.freed .line s.ls.link.isHold) (silenced n s)).cc := by
    rw [dropped_eq h]
    simp
  rw [call_congr hcc', call_onCall]
  by_cases e : n = m
  · subst e
    rw [if_pos rfl, if_pos rfl, hsil, if_pos rfl]
  · rw [if_neg e, if_neg e, hsil, if_neg e]

/-- A slot dropped: FREE by the line, its signals gone; another slot can only be joined (R163, R112). -/
theorem dropSlot_calls (h : s.carrying = false) (n m : Slot) :
    ((dropSlot n s).call m).state = (if n = m then .free else (s.call m).state) ∧
      ((dropSlot n s).call m).endCause = (if n = m ∧ (s.call m).state ≠ .free then some .line else (s.call m).endCause) ∧
      ((dropSlot n s).call m).signals = (if n = m ∧ (s.call m).state ≠ .free then [] else (s.call m).signals) ∧
      ((s.call m).state = .free → (dropSlot n s).call m = s.call m) := by
  rw [dropSlot_eq]
  by_cases hf : (s.call n).state = .free
  · rw [if_pos hf]
    by_cases e : n = m
    · subst e
      simp [hf]
    · simp [e]
  · have hcarry : (dropped n s).carrying = false := by simpa [State.carrying, dropped] using h
    obtain ⟨hst, hsig, hend, hfree⟩ := (takeLifted_lineDown hcarry (s.call n).ringSet).1.state m
    rw [if_neg hf, hst, hsig, hend]
    rw [call_dropped h] at *
    by_cases e : n = m
    · subst e
      simp [hf, CallSlot.freed]
    · simp only [e, if_false, false_and] at *
      exact ⟨trivial, trivial, trivial, hfree⟩

theorem dropSlot_lineDown (h : s.carrying = false) (n : Slot) :
    recordsOnly [.callDropped] s (dropSlot n s) ∧ countsOnly dropCounters s (dropSlot n s) ∧ (dropSlot n s).lbu = s.lbu := by
  rw [dropSlot_eq]
  by_cases hf : (s.call n).state = .free
  · rw [if_pos hf]
    exact ⟨.refl _ s, .refl _ s, rfl⟩
  · have hcarry : (dropped n s).carrying = false := by simpa [State.carrying, dropped] using h
    obtain ⟨-, hrec, hcount⟩ := takeLifted_lineDown hcarry (s.call n).ringSet
    rw [if_neg hf]
    refine ⟨.trans ?_ (hrec.mono (by simp)), .trans ?_ (hcount.mono (by decide)), ?_⟩
    · rw [dropped_eq h]
      exact (recordsOnly_of_fu (by simp [silenced])).trans (occurrence_recordsOnly _ _ _)
    · rw [dropped_eq h]
      have hstill : countsOnly dropCounters s (s |> stopAll (s.call n).ringSet |> releaseAll (s.call n).attached) :=
        (countsOnly.refl _ s).congr (by simp)
      have hsil : countsOnly dropCounters s (silenced n s) :=
        ((hstill.trans ((cutShort_countsOnly _ _ _).mono (by decide))).trans
          ((bumpBy_countsOnly Ctr.signalsDiscarded _ _).mono (by decide))).congr rfl
      have hfollow := ((hsil.congr (u := onCall n (fun c => c.freed .line s.ls.link.isHold) (silenced n s)) rfl).trans
        ((followCall_countsOnly n _).mono (by decide)))
      exact (hfollow.trans ((occurrence_countsOnly _ _ _).mono (by decide))).bump (by decide)
    · rw [dropped_eq h]
      simp [silenced]

theorem dropSlot_carrying (h : s.carrying = false) (n : Slot) : (dropSlot n s).carrying = false := by
  simpa [State.carrying] using h

/-- Both slots dropped. -/
theorem dropAll_lineDown (h : s.carrying = false) :
    recordsOnly [.callDropped] s (dropAll s) ∧ countsOnly dropCounters s (dropAll s) ∧ (dropAll s).lbu = s.lbu := by
  obtain ⟨hr, hc, hl⟩ := dropSlot_lineDown h .zero
  obtain ⟨kr, kc, kl⟩ := dropSlot_lineDown (dropSlot_carrying h .zero) .one
  exact ⟨hr.trans kr, hc.trans kc, kl.trans hl⟩

theorem dropAll_changesOnly (h : s.carrying = false) :
    changesOnly ([.framer, .phones, .calls, .media] ++ reportBlocks) s (dropAll s) := by
  simp [changesOnly_iff, reportBlocks, (dropAll_lineDown h).2.2]

theorem dropAll_calls (h : s.carrying = false) (n : Slot) : ((dropAll s).call n).state = .free ∧
    ((s.call n).state ≠ .free → ((dropAll s).call n).endCause = some .line ∧ ((dropAll s).call n).signals = []) ∧
    ((s.call n).state = .free → (dropAll s).call n = s.call n) := by
  obtain ⟨hst, hend, hsig, hfree⟩ := dropSlot_calls h .zero n
  obtain ⟨kst, kend, ksig, kfree⟩ := dropSlot_calls (dropSlot_carrying h .zero) .one n
  refine ⟨kst.trans ?_, fun hn => ⟨kend.trans ?_, ksig.trans ?_⟩, fun hf => (kfree ?_).trans (hfree hf)⟩
  · rw [hst]
    cases n <;> rfl
  · rw [hst, hend]
    cases n <;> simp [hn]
  · rw [hst, hsig]
    cases n <;> simp [hn]
  · rw [hst, hf]
    split <;> rfl

/-! ## The lowest rung failed (R32) -/

/-- The line halted and the backoff timer started. -/
def backingOff (s : State) : State :=
  s |> sendHalt
    |> onLs (fun l => { l with train := none, hold := none, backoff := some (startSec s.ls.backoffLength),
                               backoffLength := min (2 * s.ls.backoffLength) 480 })

/-- WAITING entered, before the slots are dropped. -/
def waiting (s : State) : State :=
  s |> backingOff |> enterLink .waiting |> occurrence .noRung s.ls.backoffLength |> bump Ctr.waitsEntered

theorem enterWaiting_eq (s : State) : enterWaiting s = dropAll (waiting s) := rfl

theorem waiting_ls (s : State) : (waiting s).ls =
    { s.ls with link := .waiting, train := none, hold := none,
                backoff := some { limit := 1000 * s.ls.backoffLength, elapsed := 0 },
                backoffLength := min (2 * s.ls.backoffLength) 480 } := by
  have hocc : ∀ v : State, (bump Ctr.waitsEntered (occurrence .noRung s.ls.backoffLength v)).ls = v.ls := fun v => by simp
  rw [waiting, hocc, enterLink_ls]
  rfl

theorem waiting_faults (s : State) :
    (waiting s).fault .noRung = reported .noRung s.ls.backoffLength s.fu.uptime (s.fault .noRung) ∧
      (waiting s).fault .lineDown = (if s.ls.link.wasUp = true then
        reported .lineDown s.ls.rate s.fu.uptime (s.fault .lineDown) else s.fault .lineDown) ∧
      recordsOnly [.noRung, .lineDown] s (waiting s) := by
  unfold waiting
  generalize hv : enterLink .waiting _ = v
  have hup : v.fu.uptime = s.fu.uptime := by
    rw [← hv]
    exact (enterLink_reports (s := backingOff s) _ (reports_same (Reports.refl s) rfl rfl rfl)).uptime
  have hrec : recordsOnly [.lineDown] s v := by
    rw [← hv]
    exact (recordsOnly_of_fu (t := backingOff s) rfl).trans (enterLink_recordsOnly _ _)
  refine ⟨?_, ?_, ?_⟩
  · rw [fault_bump, fault_occurrence_reported, hup, hrec.kept (by decide)]
  · rw [fault_bump, fault_occurrence_other (by decide), ← hv, enterLink_fault]
    simp [LinkState.isDown]
    rfl
  · exact (hrec.mono (by simp)).trans ((occurrence_recordsOnly _ _ _).mono (by simp))

theorem waiting_counted (s : State) : counted Ctr.waitsEntered 1 s (waiting s) := by
  have hstart : countsOnly reportCounters s (backingOff s) := (countsOnly.refl _ s).congr rfl
  exact counted_after ((hstart.trans (enterLink_countsOnly _ _)).trans (occurrence_countsOnly _ _ _)) (by decide)
    (counter_bump_same _ _)

theorem waiting_changesOnly (s : State) : changesOnly (.supervisor :: .outputs :: reportBlocks) s (waiting s) := by
  simp [changesOnly_iff, reportBlocks, waiting, backingOff, sendHalt, sendXcvr]

/-- Settles O22: whatever failed it, the round's end halts the line, waits, and drops every slot with the line down. -/
theorem failedRoundWaits : Obligations.FailedRoundWaits := by
  intro s c h hlow hc
  obtain ⟨hls, -, hout, -, hcc, hfu, hqm, hme⟩ := failing_same c s
  have hlow' : (failing c s).rungBelow (failing c s).ls.rung = none := by
    rw [hls, ← hlow]
    simp only [State.rungBelow, State.rungValid, hls]
  have hcarry : (waiting (failing c s)).carrying = false := by simp [State.carrying, waiting_ls]
  obtain ⟨hrec, hcount, -⟩ := dropAll_lineDown hcarry
  obtain ⟨hno, hdown, hwrec⟩ := waiting_faults (failing c s)
  have hcall : ∀ n, (waiting (failing c s)).call n = s.call n := fun n =>
    (call_congr (by simp [waiting, backingOff, sendHalt, sendXcvr]) n).trans (call_congr hcc n)
  have hfail : ∀ k, (failing c s).fault k = s.fault k := fun k => fault_congr hfu k
  refine ⟨enterWaiting (failing c s), ?_, ?_, ?_, ?_, ?_, ?_, ?_, fun n => ?_, fun n hn => ?_, fun n hn => ?_, ?_, ?_⟩
  · rw [exec_failsTraining h hc, trainingFailed_lowest hlow']
  · rw [enterWaiting_eq, (dropAll_frame _).2.1, waiting_ls, hls]
  · rw [← hout]
    simp [enterWaiting_eq, waiting, backingOff, sendHalt, sendXcvr]
  · rw [enterWaiting_eq, hrec.kept (by decide), hno, hls, hfu, hfail]
  · rw [enterWaiting_eq, hrec.kept (by decide), hdown, hls, hfu, hfail]
    rcases h with h | h <;> simp [h, LinkState.wasUp]
  · exact ((recordsOnly_of_fu hfu).trans (hwrec.mono (by simp))).trans (hrec.mono (by simp))
  · exact (reports_same (Reports.refl s) hqm hme hfu).trans (enterWaiting_reports (Reports.refl _))
  · exact (dropAll_calls hcarry n).1
  · rw [← hcall] at hn
    exact (dropAll_calls hcarry n).2.1 hn
  · have hkeep := (dropAll_calls hcarry n).2.2 (by rw [hcall]; exact hn)
    exact hkeep.trans (hcall n)
  · exact counted_after (failing_countsOnly c s) (by decide)
      (counted_then (waiting_counted _) hcount (by decide))
  · exact ((failing_alone c s).mono (by decide)).trans
      (((waiting_changesOnly _).mono (by decide)).trans ((dropAll_changesOnly hcarry).mono (by decide)))

/-! ## The hold timer and the backoff timer (R36, R32) -/

/-- The hold given up, before the slots are dropped. -/
def holdOver (s : State) : State :=
  s |> onLs (fun l => { l with hold := none }) |> enterLink .training |> bump Ctr.holdLimitExpiries

/-- Settles O26: the hold limit drops every slot with the line down, and the end of the backoff starts a round. -/
theorem holdAndBackoffTimersExpire : Obligations.HoldAndBackoffTimersExpire := by
  intro s
  constructor
  · intro h ht
    have hls : (holdOver s).ls = { s.ls with link := .training, hold := none } := by
      rw [holdOver, bump_ls, enterLink_ls]
      rfl
    have hcarry : (holdOver s).carrying = false := by simp [State.carrying, hls]
    obtain ⟨hrec, hcount, -⟩ := dropAll_lineDown hcarry
    have hcall : ∀ n, (holdOver s).call n = s.call n := fun n => call_congr (by simp [holdOver]) n
    have hlink : recordsOnly [.lineDown] s (holdOver s) := (recordsOnly_of_fu rfl).trans (enterLink_recordsOnly _ _)
    refine ⟨dropAll (holdOver s), congrArg Host.Outcome.next (if_pos ⟨h, Option.isSome_iff_ne_none.2 ht⟩), ?_, fun n => ?_,
      fun n hn => ?_, ?_, ?_, ?_, ?_, ?_⟩
    · rw [(dropAll_frame _).2.1, hls]
    · exact (dropAll_calls hcarry n).1
    · rw [← hcall] at hn
      exact (dropAll_calls hcarry n).2.1 hn
    · rw [hrec.kept (by decide), holdOver, fault_bump, enterLink_fault]
      simp [h, LinkState.wasUp, LinkState.isDown]
      rfl
    · exact (hlink.mono (by simp)).trans (hrec.mono (by simp))
    · exact dropAll_reports (reports_bump (enterLink_reports _ (reports_onLs (Reports.refl s))))
    · refine counted_then (counted_after (cs := reportCounters) ?_ (by decide) (counter_bump_same _ _)) hcount (by decide)
      exact ((countsOnly.refl _ s).congr rfl).trans (enterLink_countsOnly _ _)
    · have hover : changesOnly (.supervisor :: reportBlocks) s (holdOver s) := by
        simp [changesOnly_iff, reportBlocks, holdOver]
      exact (hover.mono (by decide)).trans ((dropAll_changesOnly hcarry).mono (by decide))
  · intro h ht
    have hquiet : ∀ v : State, v.ls.link = .waiting → enterLink .training v = onLs (fun l => { l with link := .training }) v :=
      fun v hv => enterLink_quiet (by simp [hv, LinkState.wasUp])
    have hround : newRound s =
        onLs (fun l => { l with link := .training }) (sendTrain s.startRung (onLs (fun l => { l with backoff := none }) s)) :=
      hquiet _ h
    have hstep : exec .backoffExpiry s = .next (newRound s) :=
      congrArg Host.Outcome.next (if_pos ⟨h, Option.isSome_iff_ne_none.2 ht⟩)
    refine ⟨_, hstep, ?_⟩
    rw [hround]
    refine ⟨rfl, rfl, counter_bump_same _ _, by simp [changesOnly_iff], ?_⟩
    exact ((countsOnly.refl _ s).congr rfl).trans
      ((sendTrain_countsOnly s.startRung (onLs (fun l => { l with backoff := none }) s)).congr rfl)

end Sys2Proof.Machine

/-! PROOFS. CARRYING left (R30), slots held (R160), and the line trained again: O23, O25 and O27. -/

namespace Sys2Proof.Machine

variable {s t u : State}

/-! ## A change of every channel -/

theorem mem_chanList (c : Chan) : c ∈ chanList := by
  revert c
  decide

/-- A change made on each channel of a list in turn reaches the channels listed, if making it twice makes it once. -/
theorem chan_foldl {f : State → Chan → State} {g : Channel → Channel} (hg : ∀ h, g (g h) = g h)
    (hf : ∀ s c d, (f s c).chan d = if d = c then g (s.chan d) else s.chan d) (l : List Chan) (s : State) (d : Chan) :
    (l.foldl f s).chan d = if d ∈ l then g (s.chan d) else s.chan d := by
  induction l generalizing s with
  | nil => simp
  | cons c l ih =>
    rw [List.foldl_cons, ih, hf]
    by_cases hc : d = c <;> by_cases hl : d ∈ l <;> simp [hc, hl, hg]

theorem chan_dropAllSegs (s : State) (d : Chan) : (dropAllSegs s).chan d = { s.chan d with seg := none } := by
  unfold dropAllSegs
  refine (chan_foldl (g := fun h => { h with seg := none }) (fun _ => rfl) (fun s c d => ?_) chanList s d).trans
    (if_pos (mem_chanList d))
  rw [dropSeg, chan_onChan]
  by_cases h : d = c
  · simp [h]
  · rw [if_neg h, if_neg (Ne.symm h)]

theorem chan_abandonAll (s : State) (d : Chan) : (abandonAll s).chan d = { s.chan d with asm := none } := by
  unfold abandonAll
  exact (chan_foldl (g := fun h => { h with asm := none }) (fun _ => rfl) (fun s c d => chan_abandon c d .line s) chanList s
    d).trans (if_pos (mem_chanList d))

theorem chan_unsetExpected (s : State) (d : Chan) : (unsetExpected s).chan d = { s.chan d with expected := none } := by
  unfold unsetExpected
  refine (chan_foldl (g := fun h => { h with expected := none }) (fun _ => rfl) (fun s c d => ?_) chanList s d).trans
    (if_pos (mem_chanList d))
  rw [chan_onChan]
  by_cases h : d = c
  · simp [h]
  · rw [if_neg h, if_neg (Ne.symm h)]

/-- What each turn of a change over the channels keeps, the whole change keeps. -/
theorem foldl_keeps {α : Type} {f : State → Chan → State} {v : State → α} (hf : ∀ s c, v (f s c) = v s) (l : List Chan)
    (s : State) : v (l.foldl f s) = v s := by
  induction l generalizing s with
  | nil => rfl
  | cons c l ih => rw [List.foldl_cons, ih, hf]

theorem loopStore_dropAllSegs (s : State) : (dropAllSegs s).bf.loopStore = s.bf.loopStore := by
  unfold dropAllSegs
  generalize chanList = l
  exact foldl_keeps (f := fun s c => dropSeg c s) (v := fun s => s.bf.loopStore) (fun _ _ => rfl) l s

theorem loopStore_unsetExpected (s : State) : (unsetExpected s).bf.loopStore = s.bf.loopStore := by
  unfold unsetExpected
  generalize chanList = l
  exact foldl_keeps (f := fun s c => onChan c (fun h => { h with expected := none }) s) (v := fun s => s.bf.loopStore)
    (fun _ _ => rfl) l s

theorem loopStore_abandonAll (s : State) : (abandonAll s).bf.loopStore = s.bf.loopStore := by
  unfold abandonAll
  generalize chanList = l
  exact foldl_keeps (v := fun s => s.bf.loopStore) (fun s c => loopStore_abandon c .line s) l s

theorem abandonAll_recordsOnly (s : State) : recordsOnly [.reassemblyLoss] s (abandonAll s) := by
  unfold abandonAll
  generalize chanList = l
  induction l generalizing s with
  | nil => exact .refl _ s
  | cons c l ih => exact (abandon_recordsOnly c .line s).trans (ih _)

theorem abandonAll_countsOnly (s : State) : countsOnly (Ctr.framesAbandoned :: reportCounters) s (abandonAll s) := by
  unfold abandonAll
  generalize chanList = l
  induction l generalizing s with
  | nil => exact .refl _ s
  | cons c l ih => exact (abandon_countsOnly c .line s).trans (ih _)

/-! ## Loopback and an urgent claim ended -/

theorem endLoopback_ls (s : State) : (endLoopback s).ls = { s.ls with loopback := none } := by
  unfold endLoopback
  split
  · rfl
  · next h => rw [← h]

theorem endLoopback_bf (s : State) : (endLoopback s).bf =
    if s.ls.loopback = none then s.bf else { s.bf with loopStore := [] } := by
  unfold endLoopback
  split
  · next h => rw [h]; rfl
  · next h => rw [if_pos h]

theorem endLoopback_chan (s : State) (c : Chan) : (endLoopback s).chan c = s.chan c := by
  unfold endLoopback
  split <;> rfl

theorem endLoopback_countsOnly (s : State) : countsOnly [Ctr.loopedDiscarded] s (endLoopback s) := by
  unfold endLoopback
  split
  · exact (((countsOnly.refl _ s).congr rfl).trans (bumpBy_countsOnly _ _ (onLs (fun l => { l with loopback := none }) s))).congr rfl
  · exact .refl _ s

theorem dropClaim_lbu (s : State) : (dropClaim s).lbu = { s.lbu with urgent := false } := by
  unfold dropClaim
  split
  · rfl
  · next h =>
      have hb : s.lbu.urgent = false := by simpa using h
      rw [← hb]

theorem dropClaim_countsOnly (s : State) : countsOnly [Ctr.gaspClaimsDropped] s (dropClaim s) := by
  unfold dropClaim
  split
  · exact ((countsOnly.refl _ s).congr rfl).bump (by simp)
  · exact .refl _ s

/-! ## CARRYING left (R30) -/

/-- The frames given up and the conditions of the line ended, as CARRYING is left. -/
def framesGivenUp (s : State) : State :=
  s |> dropAllSegs |> abandonAll |> endCondition .severeRun |> endCondition .marginLow
    |> onLs fun l => { l with lowMargin := 0, stepUpDeferred := false, silence := none }

theorem leaveCarrying_eq (s : State) : leaveCarrying s = dropClaim (endLoopback (framesGivenUp s)) := rfl

theorem framesGivenUp_ls (s : State) : (framesGivenUp s).ls =
    { s.ls with lowMargin := 0, stepUpDeferred := false, silence := none } := by
  simp [framesGivenUp]

theorem framesGivenUp_bf (s : State) : (framesGivenUp s).bf.loopStore = s.bf.loopStore ∧
    ∀ c, (framesGivenUp s).chan c = { s.chan c with seg := none, asm := none } := by
  have hbf : (framesGivenUp s).bf = (abandonAll (dropAllSegs s)).bf := by simp [framesGivenUp]
  refine ⟨?_, fun c => ?_⟩
  · rw [hbf, loopStore_abandonAll, loopStore_dropAllSegs]
  · rw [chan_congr hbf, chan_abandonAll, chan_dropAllSegs]

theorem leaveCarrying_ls (s : State) : (leaveCarrying s).ls =
    { s.ls with lowMargin := 0, stepUpDeferred := false, silence := none, loopback := none } := by
  rw [leaveCarrying_eq, (dropClaim_frame _).2.2.1, endLoopback_ls, framesGivenUp_ls]

theorem leaveCarrying_chan (s : State) (c : Chan) :
    (leaveCarrying s).chan c = { s.chan c with seg := none, asm := none } := by
  rw [leaveCarrying_eq, chan_congr (dropClaim_frame _).2.1, endLoopback_chan, (framesGivenUp_bf s).2]

theorem leaveCarrying_loopStore (s : State) :
    (leaveCarrying s).bf.loopStore = if s.ls.loopback = none then s.bf.loopStore else [] := by
  rw [leaveCarrying_eq, (dropClaim_frame _).2.1, endLoopback_bf, framesGivenUp_ls]
  split
  · exact (framesGivenUp_bf s).1
  · rfl

theorem leaveCarrying_lbu (s : State) : (leaveCarrying s).lbu = { s.lbu with urgent := false } := by
  have hlbu : (endLoopback (framesGivenUp s)).lbu = s.lbu := by simp [framesGivenUp]
  rw [leaveCarrying_eq, dropClaim_lbu, hlbu]

theorem leaveCarrying_fu (s : State) : (leaveCarrying s).fu = (framesGivenUp s).fu := by simp [leaveCarrying_eq]

theorem leaveCarrying_recordsOnly (s : State) : recordsOnly [.severeRun, .marginLow, .reassemblyLoss] s (leaveCarrying s) := by
  refine .trans ?_ (recordsOnly_of_fu (leaveCarrying_fu s))
  have hloss : recordsOnly [.reassemblyLoss] s (abandonAll (dropAllSegs s)) :=
    (recordsOnly_of_fu (by simp)).trans (abandonAll_recordsOnly _)
  exact (((hloss.mono (by simp)).trans ((endCondition_recordsOnly .severeRun _).mono (by simp))).trans
    ((endCondition_recordsOnly .marginLow _).mono (by simp))).trans
      (recordsOnly_of_fu (by simp only [framesGivenUp, onLs_fu]))

theorem leaveCarrying_faults (s : State) :
    (leaveCarrying s).fault .severeRun = { s.fault .severeRun with active := false } ∧
      (leaveCarrying s).fault .marginLow = { s.fault .marginLow with active := false } := by
  have hloss : recordsOnly [.reassemblyLoss] s (abandonAll (dropAllSegs s)) :=
    (recordsOnly_of_fu (by simp)).trans (abandonAll_recordsOnly _)
  have hfu : ∀ k, (leaveCarrying s).fault k =
      (endCondition .marginLow (endCondition .severeRun (abandonAll (dropAllSegs s)))).fault k := fun k =>
    fault_congr ((leaveCarrying_fu s).trans (by simp only [framesGivenUp, onLs_fu])) k
  rw [hfu, hfu]
  constructor
  · rw [fault_endCondition_other (by decide), fault_endCondition_same, hloss.kept (by decide)]
  · rw [fault_endCondition_same, fault_endCondition_other (by decide), hloss.kept (by decide)]

/-- The counters of CARRYING left. -/
def leaveCounters : List Counter := [Ctr.framesAbandoned, Ctr.loopedDiscarded, Ctr.gaspClaimsDropped] ++ reportCounters

theorem leaveCarrying_countsOnly (s : State) : countsOnly leaveCounters s (leaveCarrying s) := by
  have hframes : countsOnly leaveCounters s (abandonAll (dropAllSegs s)) :=
    ((countsOnly.refl _ s).congr (by simp)).trans ((abandonAll_countsOnly _).mono (by decide))
  have hgiven : countsOnly leaveCounters s (framesGivenUp s) := hframes.congr (by simp [framesGivenUp])
  exact (hgiven.trans ((endLoopback_countsOnly _).mono (by decide))).trans ((dropClaim_countsOnly _).mono (by decide))

/-! ## Slots held (R160) -/

theorem holdSlot_call (n m : Slot) (s : State) : (holdSlot n s).call m =
    if n = m ∧ (s.call n).state ≠ .free then { s.call n with held := true } else s.call m := by
  unfold holdSlot State.nonFree
  by_cases hf : (s.call n).state = .free
  · simp [hf]
  · rw [if_pos (by simpa using hf), call_congr (followCall_frame n _).2.2.2.2.2.2.2.1, call_onCall]
    simp [hf]

theorem holdSlot_media (n m : Slot) (s : State) : (holdSlot n s).media m =
    if n = m ∧ (s.call n).state ≠ .free then (s.media n).change ((holdSlot n s).call n).mediaState else s.media m := by
  rw [holdSlot_call n n]
  unfold holdSlot State.nonFree
  by_cases hf : (s.call n).state = .free
  · simp [hf]
  · rw [if_pos (by simpa using hf), followCall_media, call_onCall_same]
    simp only [hf, not_false_eq_true, and_true, ne_eq, and_self, if_true]
    rfl

theorem holdSlot_countsOnly (n : Slot) (s : State) : countsOnly [Ctr.staleVoice] s (holdSlot n s) := by
  unfold holdSlot
  split
  · exact ((countsOnly.refl _ s).congr rfl).trans (followCall_countsOnly n (onCall n (fun c => { c with held := true }) s))
  · exact .refl _ s

/-- Every slot in use is held, and its media with it. -/
theorem holdSlots_call (s : State) (n : Slot) : (holdSlots s).call n =
    if (s.call n).state = .free then s.call n else { s.call n with held := true } := by
  unfold holdSlots
  rw [holdSlot_call, holdSlot_call, holdSlot_call]
  cases n <;> simp

theorem holdSlots_media (s : State) (n : Slot) : (holdSlots s).media n =
    if (s.call n).state = .free then s.media n else (s.media n).change ((holdSlots s).call n).mediaState := by
  unfold holdSlots
  cases n with
  | zero => rw [holdSlot_media .one, holdSlot_call .one .zero]; simp [holdSlot_media .zero]
  | one => rw [holdSlot_media, holdSlot_media, holdSlot_call .zero .one]; simp

theorem holdSlots_countsOnly (s : State) : countsOnly [Ctr.staleVoice] s (holdSlots s) :=
  (holdSlot_countsOnly .zero s).trans (holdSlot_countsOnly .one _)

/-! ## The line trained again (R27) -/

theorem inUse_iff (s : State) : s.inUse = true ↔ (s.call .zero).state ≠ .free ∨ (s.call .one).state ≠ .free := by
  simp [State.inUse, State.nonFree]

theorem inUse_congr (h : ∀ n, t.call n = s.call n) : t.inUse = s.inUse := by
  simp only [State.inUse, State.nonFree, h]

/-- RETRAINING entered by a line with slots in use. -/
def retraining (s : State) : State :=
  s |> onLs (fun l => { l with link := .retraining })
    |> onLs (fun l => { l with hold := some (startSec (s.param .holdLimit)) })

theorem enterTraining_used (h : s.inUse = true) : enterTraining s = holdSlots (retraining s) := by
  rw [enterTraining, if_pos h, enterLink_quiet (by simp [LinkState.isDown])]
  rfl

theorem enterTraining_idle (h : s.inUse = false) : enterTraining s = enterLink .training s := by
  rw [enterTraining, if_neg (by simp [h])]

theorem enterTraining_ls (s : State) : (enterTraining s).ls =
    if s.inUse = true then
      { s.ls with link := .retraining, hold := some { limit := 1000 * s.param .holdLimit, elapsed := 0 } }
    else { s.ls with link := .training } := by
  cases h : s.inUse with
  | true => rw [enterTraining_used h, (holdSlots_frame _).2.2.1]; rfl
  | false => rw [enterTraining_idle h, enterLink_ls]; rfl

theorem enterTraining_call (s : State) (n : Slot) : (enterTraining s).call n =
    if (s.call n).state = .free then s.call n else { s.call n with held := true } := by
  cases h : s.inUse with
  | true => exact (congrArg (fun v => v.call n) (enterTraining_used h)).trans (holdSlots_call _ n)
  | false =>
    have hfree : ∀ m, (s.call m).state = .free := fun m => by
      simp only [State.inUse, State.nonFree, Bool.or_eq_false_iff, bne_eq_false_iff_eq] at h
      cases m
      · exact h.1
      · exact h.2
    rw [enterTraining_idle h, if_pos (hfree n), call_congr (enterLink_frame _ _).2.2.2.2.1]

theorem enterTraining_recordsOnly (s : State) : recordsOnly [.lineDown] s (enterTraining s) := by
  cases h : s.inUse with
  | true => rw [enterTraining_used h]; exact recordsOnly_of_fu (by simp [retraining])
  | false => rw [enterTraining_idle h]; exact enterLink_recordsOnly _ _

theorem enterTraining_countsOnly (s : State) : countsOnly (Ctr.staleVoice :: reportCounters) s (enterTraining s) := by
  cases h : s.inUse with
  | true =>
    have hstart : countsOnly (Ctr.staleVoice :: reportCounters) s (retraining s) := (countsOnly.refl _ s).congr rfl
    rw [enterTraining_used h]
    exact hstart.trans ((holdSlots_countsOnly _).mono (by simp))
  | false => rw [enterTraining_idle h]; exact (enterLink_countsOnly _ _).mono (by simp)

/-! ## A ride (R33) -/

/-- The line riding, before its slots are held. -/
def riding (s : State) : State :=
  s |> onLs (fun l => { l with syncLostMark := true }) |> bump Ctr.rides |> leaveCarrying
    |> onLs (fun l => { l with link := .riding }) |> onLs (fun l => { l with ride := some (startMs (s.param .rideTime)) })

theorem startRide_eq (h : s.param .rideTime ≠ 0) : startRide s = holdSlots (riding s) := by
  have hride : ∀ v : State, enterLink .riding v = onLs (fun l => { l with link := .riding }) v :=
    fun v => enterLink_quiet (by simp [LinkState.isDown])
  unfold startRide
  rw [if_neg h, hride]
  rfl

/-- What a ride leaves of the state in which it starts. -/
theorem riding_facts (s : State) :
    (riding s).ls = { s.ls with link := .riding, syncLostMark := true, lowMargin := 0, stepUpDeferred := false,
                                silence := none, loopback := none,
                                ride := some { limit := s.param .rideTime, elapsed := 0 } } ∧
    (∀ c, (riding s).chan c = { s.chan c with seg := none, asm := none }) ∧
    (riding s).bf.loopStore = (if s.ls.loopback = none then s.bf.loopStore else []) ∧
    (riding s).lbu = { s.lbu with urgent := false } ∧ (riding s).cc = s.cc ∧ (riding s).mdu = s.mdu := by
  unfold riding
  generalize hv : bump Ctr.rides _ = v
  obtain ⟨hls, hbf, hlbu, hcc, hmdu⟩ : v.ls = { s.ls with syncLostMark := true } ∧ v.bf = s.bf ∧ v.lbu = s.lbu ∧
      v.cc = s.cc ∧ v.mdu = s.mdu := by
    rw [← hv]
    exact ⟨rfl, rfl, rfl, rfl, rfl⟩
  have lls := leaveCarrying_ls v
  have lchan := leaveCarrying_chan v
  have lstore := leaveCarrying_loopStore v
  have llbu := leaveCarrying_lbu v
  have lcc : (leaveCarrying v).cc = s.cc := by simp [hcc]
  have lmdu : (leaveCarrying v).mdu = s.mdu := by simp [hmdu]
  generalize leaveCarrying v = w at *
  refine ⟨?_, fun c => ?_, ?_, ?_, lcc, lmdu⟩
  · simp only [onLs_ls, lls, hls]
    rfl
  · exact (lchan c).trans (by rw [chan_congr hbf])
  · exact lstore.trans (by rw [hls, hbf])
  · exact llbu.trans (by rw [hlbu])

/-- The counters of a ride's start. -/
def rideCounters : List Counter := [Ctr.rides, Ctr.staleVoice] ++ leaveCounters

theorem riding_counts (s : State) : counted Ctr.rides 1 s (riding s) ∧ countsOnly rideCounters s (riding s) := by
  have hleave := leaveCarrying_countsOnly (bump Ctr.rides (onLs (fun l => { l with syncLostMark := true }) s))
  have hafter : countsOnly leaveCounters (bump Ctr.rides (onLs (fun l => { l with syncLostMark := true }) s)) (riding s) :=
    hleave.congr (by simp only [riding, onLs_counters])
  have hbefore : counted Ctr.rides 1 s (bump Ctr.rides (onLs (fun l => { l with syncLostMark := true }) s)) :=
    counter_bump_same _ _
  refine ⟨counted_then hbefore hafter (by decide), .trans ?_ (hafter.mono (by decide))⟩
  exact ((countsOnly.refl _ s).congr (u := onLs (fun l => { l with syncLostMark := true }) s) rfl).bump (by decide)

theorem riding_records (s : State) : recordsOnly [.severeRun, .marginLow, .reassemblyLoss] s (riding s) ∧
    ((riding s).fault .severeRun).active = false ∧ ((riding s).fault .marginLow).active = false ∧ Reports s (riding s) := by
  unfold riding
  generalize hv : bump Ctr.rides _ = v
  obtain ⟨hfu, hqm, hme⟩ : v.fu = s.fu ∧ v.qm = s.qm ∧ v.me = s.me := by
    rw [← hv]
    exact ⟨rfl, rfl, rfl⟩
  obtain ⟨hsev, hlow⟩ := leaveCarrying_faults v
  refine ⟨((recordsOnly_of_fu hfu).trans (leaveCarrying_recordsOnly v)).trans (recordsOnly_of_fu (by simp)), ?_, ?_, ?_⟩
  · rw [fault_congr (t := onLs _ _) (s := leaveCarrying v) (by simp), hsev]
  · rw [fault_congr (t := onLs _ _) (s := leaveCarrying v) (by simp), hlow]
  · exact reports_onLs (reports_onLs (leaveCarrying_reports (reports_same (Reports.refl s) hqm hme hfu)))

theorem riding_changesOnly (s : State) :
    changesOnly ([.framer, .supervisor, .budget] ++ reportBlocks) s (riding s) := by
  simp [changesOnly_iff, reportBlocks, riding]

theorem exec_rideStarts {c : Instr} (hc : c = .syncLost ∨ c = .transceiverSilent) (h : s.ls.link = .carrying) :
    exec c s = .next (startRide (if c = .transceiverSilent then bump Ctr.transceiverSilent s else s)) := by
  have hcarry : s.carrying = true := by simp [State.carrying, h]
  rcases hc with rfl | rfl
  · exact congrArg Host.Outcome.next (if_pos hcarry)
  · exact congrArg Host.Outcome.next (if_pos hcarry)

/-- Settles O23: the two ways into a ride differ in one count, and a ride leaves CARRYING and holds the slots. -/
theorem lostSyncStartsARide : Obligations.LostSyncStartsARide := by
  intro s c hc h ht
  obtain ⟨v, hv⟩ : ∃ v, v = if c = .transceiverSilent then bump Ctr.transceiverSilent s else s := ⟨_, rfl⟩
  have hstep := exec_rideStarts hc h
  rw [← hv] at hstep
  have halone : ∀ cs, Ctr.transceiverSilent ∈ cs → countsOnly cs s v := fun cs hm => by
    rw [hv]
    split
    · exact (countsOnly.refl _ s).bump hm
    · exact .refl _ s
  have hblocks : changesOnly [.counters] s v := by
    rw [hv]
    split <;> simp [changesOnly_iff]
  obtain ⟨hls, hdu, hbf, hlbu, hcc, hmdu, hfu, hqm, hme⟩ : v.ls = s.ls ∧ v.du = s.du ∧ v.bf = s.bf ∧ v.lbu = s.lbu ∧
      v.cc = s.cc ∧ v.mdu = s.mdu ∧ v.fu = s.fu ∧ v.qm = s.qm ∧ v.me = s.me := by
    rw [hv]
    split <;> exact ⟨rfl, rfl, rfl, rfl, rfl, rfl, rfl, rfl, rfl⟩
  obtain ⟨rls, rchan, rstore, rlbu, rcc, rmdu⟩ := riding_facts v
  obtain ⟨rrec, rsev, rlow, rrep⟩ := riding_records v
  obtain ⟨rcount, ronly⟩ := riding_counts v
  have hcall : ∀ n, (riding v).call n = s.call n := fun n => (call_congr rcc n).trans (call_congr hcc n)
  have hmedia : ∀ n, (riding v).media n = s.media n := fun n => (media_congr rmdu n).trans (media_congr hmdu n)
  have hfu' : (holdSlots (riding v)).fu = (riding v).fu := by simp
  refine ⟨holdSlots (riding v), ?_, ?_, fun ch => ?_, ?_, ?_, fun n hn => ?_, fun n hn => ⟨?_, ?_⟩, fun n hn => ?_, ?_, ?_, ?_,
    ?_, ?_, fun hs => ?_, ?_, ?_⟩
  · rw [hstep, startRide_eq (by rwa [param_congr hdu])]
  · rw [(holdSlots_frame _).2.2.1, rls, hls, param_congr hdu]
  · rw [chan_congr (holdSlots_frame _).2.1, rchan, chan_congr hbf]
  · rw [(holdSlots_frame _).2.1, rstore, hls, hbf]
  · rw [(holdSlots_frame _).2.2.2.1, rlbu, hlbu]
  · rw [holdSlots_call, hcall, if_neg hn]
  · rw [holdSlots_call, hcall, if_pos hn]
  · rw [holdSlots_media, hcall, hmedia, if_pos hn]
  · rw [holdSlots_media, hcall, hmedia, if_neg hn]
  · rw [fault_congr hfu']; exact rsev
  · rw [fault_congr hfu']; exact rlow
  · exact ((recordsOnly_of_fu hfu).trans rrec).trans (recordsOnly_of_fu hfu')
  · exact holdSlots_reports ((reports_same (Reports.refl s) hqm hme hfu).trans rrep)
  · exact counted_after (halone [Ctr.transceiverSilent] (by simp)) (by decide)
      (counted_then rcount (holdSlots_countsOnly _) (by decide))
  · rw [hs, if_pos rfl] at hv
    have hcount : counted Ctr.transceiverSilent 1 s v := by
      rw [hv]
      exact counter_bump_same _ _
    exact counted_then hcount (ronly.trans ((holdSlots_countsOnly _).mono (by decide))) (by decide)
  · refine ((hblocks.mono (by decide)).trans ((riding_changesOnly v).mono (by decide))).trans ?_
    simp [changesOnly_iff, reportBlocks]
  · exact ((halone _ (by decide)).trans (ronly.mono (by decide))).trans ((holdSlots_countsOnly _).mono (by decide))

/-! ## A line stepped down or up (R44, R45) -/

/-- CARRYING left and the line trained at another rung, before the step is reported. -/
def steppedTo (i : Fin 8) (s : State) : State := s |> leaveCarrying |> sendHalt |> sendTrain i

theorem steppedTo_facts (i : Fin 8) (s : State) :
    (steppedTo i s).ls = { s.ls with lowMargin := 0, stepUpDeferred := false, silence := none, loopback := none, rung := i,
                                     train := some { limit := 1000 * s.param .trainTimeout, elapsed := 0 } } ∧
    (steppedTo i s).out = { s.out with xcvr := s.out.xcvr ++ [.halt, .train (vget s.ls.profile i).cap] } ∧
    (∀ c, (steppedTo i s).chan c = { s.chan c with seg := none, asm := none }) ∧
    (steppedTo i s).lbu = { s.lbu with urgent := false } ∧ (steppedTo i s).cc = s.cc ∧ (steppedTo i s).du = s.du ∧
    (steppedTo i s).fu = (leaveCarrying s).fu := by
  have lls := leaveCarrying_ls s
  have lchan := leaveCarrying_chan s
  have llbu := leaveCarrying_lbu s
  have lcc : (leaveCarrying s).cc = s.cc := by simp
  have ldu : (leaveCarrying s).du = s.du := by simp
  have lout : (leaveCarrying s).out = s.out := by simp
  unfold steppedTo
  generalize leaveCarrying s = w at *
  refine ⟨?_, ?_, lchan, llbu, lcc, ldu, rfl⟩
  · rw [sendTrain_ls]
    show ({ w.ls with rung := i, train := some { limit := 1000 * w.param .trainTimeout, elapsed := 0 } } : Supervisor) = _
    rw [lls, param_congr ldu]
  · rw [sendTrain_out, sendHalt_out]
    show ({ w.out with xcvr := w.out.xcvr ++ [.halt] ++ [.train (vget w.ls.profile i).cap] } : Outputs) = _
    rw [lout, lls, List.append_assoc]
    rfl

theorem steppedTo_changesOnly (i : Fin 8) (s : State) :
    changesOnly ([.framer, .supervisor, .budget, .outputs] ++ reportBlocks) s (steppedTo i s) := by
  simp [changesOnly_iff, reportBlocks, steppedTo, sendHalt, sendXcvr]

theorem steppedTo_countsOnly (i : Fin 8) (s : State) : countsOnly (Ctr.trainingsStarted :: leaveCounters) s (steppedTo i s) := by
  have hhalt : countsOnly leaveCounters (leaveCarrying s) (sendHalt (leaveCarrying s)) := by
    generalize leaveCarrying s = w
    exact (countsOnly.refl _ w).congr rfl
  exact (((leaveCarrying_countsOnly s).trans hhalt).mono (List.subset_cons_self _ _)).trans
    ((sendTrain_countsOnly _ _).mono (by simp))

theorem steppedTo_reports (i : Fin 8) (s : State) : Reports s (steppedTo i s) :=
  sendTrain_reports _ (sendHalt_reports (leaveCarrying_reports (Reports.refl s)))

/-- A step-down reported, before the link state is entered. -/
def steppedDown (i : Fin 8) (s : State) : State := s |> steppedTo i |> occurrence .stepDown i.val |> bump Ctr.stepDowns

theorem stepDownTo_eq (i : Fin 8) (s : State) : stepDownTo i s = enterTraining (steppedDown i s) := rfl

/-- What a step-down makes of the supervisor, by whether a slot is in use. -/
theorem stepDownTo_ls (i : Fin 8) (s : State) : (stepDownTo i s).ls =
    { s.ls with lowMargin := 0, stepUpDeferred := false, silence := none, loopback := none, rung := i,
                train := some { limit := 1000 * s.param .trainTimeout, elapsed := 0 },
                link := if s.inUse = true then .retraining else .training,
                hold := if s.inUse = true then some { limit := 1000 * s.param .holdLimit, elapsed := 0 } else s.ls.hold } := by
  obtain ⟨hls, -, -, -, hcc, hdu, -⟩ := steppedTo_facts i s
  have dls : (steppedDown i s).ls = (steppedTo i s).ls := by simp [steppedDown]
  have dcc : (steppedDown i s).cc = s.cc := by simp [steppedDown, hcc]
  have ddu : (steppedDown i s).du = s.du := by simp [steppedDown, hdu]
  have huse : (steppedDown i s).inUse = s.inUse := inUse_congr fun n => call_congr dcc n
  rw [stepDownTo_eq, enterTraining_ls, huse, dls, hls, param_congr ddu]
  split <;> rfl

theorem stepDownTo_kept (i : Fin 8) (s : State) :
    (stepDownTo i s).out = { s.out with xcvr := s.out.xcvr ++ [.halt, .train (vget s.ls.profile i).cap] } ∧
    (∀ c, (stepDownTo i s).chan c = { s.chan c with seg := none, asm := none }) ∧
    (stepDownTo i s).lbu = { s.lbu with urgent := false } ∧
    (∀ n, (stepDownTo i s).call n = if (s.call n).state = .free then s.call n else { s.call n with held := true }) ∧
    (stepDownTo i s).du = s.du := by
  obtain ⟨-, hout, hchan, hlbu, hcc, hdu, -⟩ := steppedTo_facts i s
  obtain ⟨dout, dbf, dlbu, dcc, ddu⟩ : (steppedDown i s).out = (steppedTo i s).out ∧ (steppedDown i s).bf = (steppedTo i s).bf ∧
      (steppedDown i s).lbu = (steppedTo i s).lbu ∧ (steppedDown i s).cc = (steppedTo i s).cc ∧
      (steppedDown i s).du = (steppedTo i s).du := by simp [steppedDown]
  obtain ⟨ebf, elbu, eout, edu⟩ : (stepDownTo i s).bf = (steppedDown i s).bf ∧ (stepDownTo i s).lbu = (steppedDown i s).lbu ∧
      (stepDownTo i s).out = (steppedDown i s).out ∧ (stepDownTo i s).du = (steppedDown i s).du := by simp [stepDownTo_eq]
  refine ⟨eout.trans (dout.trans hout), fun c => ?_, elbu.trans (dlbu.trans hlbu), fun n => ?_, edu.trans (ddu.trans hdu)⟩
  · rw [chan_congr ebf, chan_congr dbf, hchan]
  · rw [stepDownTo_eq, enterTraining_call, call_congr dcc, call_congr hcc]

theorem stepDownTo_records (i : Fin 8) (s : State) :
    recordsOnly [.stepDown, .severeRun, .marginLow, .reassemblyLoss, .lineDown] s (stepDownTo i s) ∧
    (stepDownTo i s).fault .stepDown = (s.fault .stepDown).occurred false s.fu.uptime i.val ∧
    (stepDownTo i s).fault .severeRun = { s.fault .severeRun with active := false } ∧
    (stepDownTo i s).fault .marginLow = { s.fault .marginLow with active := false } := by
  obtain ⟨-, -, -, -, -, -, hfu⟩ := steppedTo_facts i s
  obtain ⟨hsev, hlow⟩ := leaveCarrying_faults s
  have hleave := leaveCarrying_recordsOnly s
  have hup := (steppedTo_reports i s).uptime
  have hlink := enterTraining_recordsOnly (steppedDown i s)
  have hstep : ∀ k, k ≠ .stepDown → (steppedDown i s).fault k = (leaveCarrying s).fault k := fun k hk => by
    rw [steppedDown, fault_bump, fault_occurrence_other (Ne.symm hk), fault_congr hfu]
  rw [stepDownTo_eq]
  refine ⟨fun k hk => ?_, ?_, ?_, ?_⟩
  · simp only [List.mem_cons, not_or] at hk
    obtain ⟨hk1, hk2, hk3, hk4, hk5, -⟩ := hk
    rw [hlink.kept (by simpa using hk5), hstep k hk1, hleave.kept (by simp [hk2, hk3, hk4])]
  · rw [hlink.kept (by decide), steppedDown, fault_bump, fault_occurrence_reported, hup, fault_congr hfu,
      hleave.kept (by decide)]
    exact if_neg fun hc => absurd hc.1 (by decide)
  · rw [hlink.kept (by decide), hstep _ (by decide), hsev]
  · rw [hlink.kept (by decide), hstep _ (by decide), hlow]

/-- The counters of a step-down beside its own. -/
def stepCounters : List Counter := [Ctr.trainingsStarted, Ctr.staleVoice] ++ leaveCounters

theorem stepDownTo_counted (i : Fin 8) (s : State) : counted Ctr.stepDowns 1 s (stepDownTo i s) ∧
    countsOnly (Ctr.stepDowns :: stepCounters) s (stepDownTo i s) := by
  have hbefore : countsOnly (Ctr.trainingsStarted :: leaveCounters) s (occurrence .stepDown i.val (steppedTo i s)) :=
    (steppedTo_countsOnly i s).trans ((occurrence_countsOnly _ _ _).mono (by decide))
  have hafter := enterTraining_countsOnly (steppedDown i s)
  refine ⟨counted_after hbefore (by decide) (counted_then (counter_bump_same _ _) hafter (by decide)), ?_⟩
  exact ((hbefore.mono (by decide)).bump (by decide)).trans (hafter.mono (by decide))

theorem stepDownTo_blocks (i : Fin 8) (s : State) : Reports s (stepDownTo i s) ∧
    changesOnly ([.framer, .supervisor, .budget, .calls, .media, .outputs] ++ reportBlocks) s (stepDownTo i s) := by
  refine ⟨enterTraining_reports (reports_bump (occurrence_reports _ _ (steppedTo_reports i s))), ?_⟩
  refine ((steppedTo_changesOnly i s).mono (by decide)).trans ?_
  rw [stepDownTo_eq]
  simp [changesOnly_iff, reportBlocks, steppedDown]

theorem stepUpTo_eq (i : Fin 8) (s : State) : stepUpTo i s = bump Ctr.stepUps (enterLink .training (steppedTo i s)) := rfl

/-! ## A ride failed (R35) -/

/-- The line halted and trained at the same rung after a ride, before the link state is entered. -/
def rideOver (s : State) : State :=
  s |> sendHalt |> onLs (fun l => { l with ride := none }) |> sendTrain s.sameRung |> occurrence .retrain s.sameRung.val
    |> bump Ctr.rideExpiries

theorem rideFails_eq (s : State) : rideFails s = enterTraining (rideOver s) := rfl

theorem rideOver_facts (s : State) :
    (rideOver s).ls = { s.ls with ride := none, rung := s.sameRung,
                                  train := some { limit := 1000 * s.param .trainTimeout, elapsed := 0 } } ∧
    (rideOver s).out = { s.out with xcvr := s.out.xcvr ++ [.halt, .train (vget s.ls.profile s.sameRung).cap] } ∧
    (rideOver s).cc = s.cc ∧ (rideOver s).du = s.du ∧
    changesOnly ([.supervisor, .outputs] ++ reportBlocks) s (rideOver s) := by
  refine ⟨?_, ?_, by simp [rideOver, sendHalt, sendXcvr], by simp [rideOver, sendHalt, sendXcvr],
    by simp [changesOnly_iff, reportBlocks, rideOver, sendHalt, sendXcvr]⟩
  · simp only [rideOver, bump_ls, (occurrence_frame _ _ _).2.2.1, sendTrain_ls]
    rfl
  · have hout : (rideOver s).out = (sendTrain s.sameRung (onLs (fun l => { l with ride := none }) (sendHalt s))).out := by
      simp [rideOver]
    rw [hout, sendTrain_out]
    show ({ s.out with xcvr := s.out.xcvr ++ [.halt] ++ [_] } : Outputs) = _
    rw [List.append_assoc]
    rfl

theorem rideOver_reports (s : State) : Reports s (rideOver s) ∧ recordsOnly [.retrain] s (rideOver s) ∧
    (rideOver s).fault .retrain = reported .retrain s.sameRung.val s.fu.uptime (s.fault .retrain) ∧
    counted Ctr.rideExpiries 1 s (rideOver s) := by
  unfold rideOver
  generalize hv : sendTrain s.sameRung _ = v
  obtain ⟨hfu, hqm, hme⟩ : v.fu = s.fu ∧ v.qm = s.qm ∧ v.me = s.me := by
    rw [← hv]
    exact ⟨rfl, rfl, rfl⟩
  have hcount : countsOnly [Ctr.trainingsStarted] s v := by
    rw [← hv]
    exact ((countsOnly.refl _ s).congr rfl).trans (sendTrain_countsOnly _ (onLs (fun l => { l with ride := none }) (sendHalt s)))
  refine ⟨?_, ?_, ?_, ?_⟩
  · exact reports_bump (occurrence_reports _ _ (reports_same (Reports.refl s) hqm hme hfu))
  · exact (recordsOnly_of_fu hfu).trans (occurrence_recordsOnly _ _ _)
  · rw [fault_bump, fault_occurrence_reported, hfu, fault_congr hfu]
  · exact counted_after (hcount.mono (List.subset_append_left _ reportCounters)
      |>.trans ((occurrence_countsOnly _ _ _).mono (List.subset_append_right _ _))) (by decide) (counter_bump_same _ _)

/-! ## The ride timer stays stopped after a SYNC_BACK -/

theorem lastSlotFree_ride (s : State) : (lastSlotFree s).ls.ride = s.ls.ride := by
  unfold lastSlotFree
  split
  · rw [enterLink_ls]; rfl
  · split
    · split
      · rw [stepUpTo_eq, bump_ls, enterLink_ls, (steppedTo_facts _ s).1]
      · rfl
    · rfl
  all_goals rfl

theorem cutSlot_ride (n : Slot) (s : State) : (cutSlot n s).ls.ride = s.ls.ride := by
  have hidle : ∀ v : State, (reportIfIdle v).ls.ride = v.ls.ride := fun v => by
    unfold reportIfIdle
    split
    · rfl
    · exact lastSlotFree_ride v
  simp only [cutSlot, (takeLifted_frame _ _).2.2.1, hidle]
  simp

theorem preempt_ride (s : State) : (preempt s).ls.ride = s.ls.ride := by
  have honce : ∀ v : State, (preemptOnce v).ls.ride = v.ls.ride := fun v => by
    unfold preemptOnce
    split
    · rfl
    · exact cutSlot_ride _ v
  exact (honce _).trans (honce s)

theorem endRide_ride (s : State) : (endRide s).ls.ride = none := by
  have hret : ∀ v : State, (lineReturns v).ls.ride = v.ls.ride := fun v => by
    simp only [lineReturns, (endHold_frame _ _).2.2.1, (refreshSlot_frame _ _).2.2.1, preempt_ride]
  unfold endRide
  rw [hret]
  simp [startCarrying]

/-- Settles O25: the ride's end trains at the same rung, and one of the two ends of a ride leaves nothing to the other. -/
theorem rideTimerExpiryRetrains : Obligations.RideTimerExpiryRetrains := by
  intro s h ht i used
  have hride : rideTimerEvent s = rideFails s := if_pos ⟨h, Option.isSome_iff_ne_none.2 ht⟩
  obtain ⟨hls, hout, hcc, hdu, hch⟩ := rideOver_facts s
  obtain ⟨hrep, hrec, hfault, hcount⟩ := rideOver_reports s
  have hinUse : (rideOver s).inUse = true ↔ used := by
    rw [inUse_congr (fun n => call_congr hcc n)]
    exact inUse_iff s
  have hend := enterTraining_ls (rideOver s)
  refine ⟨⟨rideFails s, congrArg Host.Outcome.next hride, ?_, fun hu => ?_, fun hu => ?_, ?_, ?_, ?_, ?_, ?_, ?_, ?_⟩,
    endRide s, congrArg Host.Outcome.next (if_pos h), endRide_ride s, ?_⟩
  · rw [rideFails_eq, hend, hls]
    split <;> rfl
  · rw [rideFails_eq, hend, if_pos (hinUse.2 hu), param_congr hdu]
    exact ⟨rfl, rfl⟩
  · rw [rideFails_eq, hend, if_neg (hinUse.not.2 hu), hls]
    exact ⟨rfl, rfl⟩
  · rw [rideFails_eq, (enterTraining_frame _).2.2.2.2.2.2.2.1, hout]
    rfl
  · rw [rideFails_eq, (enterTraining_recordsOnly _).kept (by decide), hfault]
    rfl
  · exact (hrec.mono (by simp)).trans ((enterTraining_recordsOnly _).mono (by simp))
  · exact enterTraining_reports hrep
  · exact counted_then hcount (enterTraining_countsOnly _) (by decide)
  · exact (hch.mono (by decide)).trans (by simp [changesOnly_iff, reportBlocks, rideFails_eq])
  · have hlink : (rideFails s).ls.link ≠ .riding := by
      rw [rideFails_eq, hend]
      split <;> simp
    exact ⟨_, congrArg Host.Outcome.next (if_neg hlink), stray_counted _⟩
  · exact congrArg Host.Outcome.next (if_neg fun hc => by rw [endRide_ride] at hc; exact absurd hc.2 (by simp))

/-! ## Margins (R43) -/

/-- The tenth low margin in a row, with its report. -/
def marginLow (m : Half) (s : State) : State :=
  s |> onLs (fun l => { l with margin := m.toInt, silence := some 0, lowMargin := min (l.lowMargin + 1) 255 })
    |> occurrence .marginLow (BitVec.ofInt 16 m.toInt).toNat

theorem marginLow_countsOnly (m : Half) (s : State) : countsOnly reportCounters s (marginLow m s) := by
  unfold marginLow
  generalize (BitVec.ofInt 16 m.toInt).toNat = detail
  exact ((countsOnly.refl _ s).congr (by simp only [onLs_counters])).trans (occurrence_countsOnly _ detail _)

/-- Settles O27: a good margin ends the condition, a low one counts, and the tenth steps the line down. -/
theorem marginsAreJudged : Obligations.MarginsAreJudged := by
  intro m s h
  have hstep : exec (.margin m) s = .next (marginTaken m.toInt s) :=
    congrArg Host.Outcome.next (if_pos (by simp [State.carrying, h]))
  rw [hstep]
  refine ⟨fun hm => ⟨_, rfl, ?_⟩, fun hm hquiet => ⟨_, rfl, ?_⟩, fun hm hnine hact i hi => ⟨_, rfl, ?_⟩⟩
  · have htake : marginTaken m.toInt s =
        endCondition .marginLow (onLs (fun l => { l with margin := m.toInt, silence := some 0, lowMargin := 0 }) s) :=
      if_neg (not_lt.2 hm)
    rw [htake]
    refine ⟨by simp, fault_endCondition_same _ _, (recordsOnly_of_fu rfl).trans (endCondition_recordsOnly _ _), rfl, ?_⟩
    simp [changesOnly_iff]
  · have htake : marginTaken m.toInt s =
        onLs (fun l => { l with margin := m.toInt, silence := some 0, lowMargin := min (l.lowMargin + 1) 255 }) s := by
      refine (if_pos hm).trans (if_neg ?_)
      rintro ⟨hten, hoff⟩
      rcases hquiet with hq | hq
      · exact hq hten
      · have hoff' : (!(s.fault .marginLow).active) = true := hoff
        simp [hq] at hoff'
    rw [htake]
    exact ⟨rfl, by simp [changesOnly_iff]⟩
  · obtain ⟨v, hv⟩ : ∃ v, v = marginLow m s := ⟨_, rfl⟩
    have hlsv : v.ls = { s.ls with margin := m.toInt, silence := some 0, lowMargin := min (s.ls.lowMargin + 1) 255 } := by
      rw [hv, marginLow, (occurrence_frame _ _ _).2.2.1]
      rfl
    obtain ⟨hcc, hout⟩ : v.cc = s.cc ∧ v.out = s.out := by
      rw [hv]
      simp [marginLow]
    have hbelow : v.rungBelow v.ls.rung = some i := by
      rw [← hi]
      simp only [State.rungBelow, State.rungValid, hlsv]
    have htake : marginTaken m.toInt s = stepDownTo i v := by
      have hten : min (s.ls.lowMargin + 1) 255 = 10 := by omega
      have hoff : (!(s.fault .marginLow).active) = true := by simp [hact]
      have hask : marginTaken m.toInt s = askStepDown v := hv ▸ (if_pos hm).trans (if_pos ⟨hten, hoff⟩)
      rw [hask]
      simp only [askStepDown, hbelow]
    have hrepv : Reports s v := by
      rw [hv]
      exact occurrence_reports _ _ (reports_onLs (Reports.refl s))
    have hrecv : recordsOnly [.marginLow] s v := fun k hk => by
      rw [hv, marginLow, (occurrence_recordsOnly _ _ _).kept hk]
      rfl
    have hlow : v.fault .marginLow =
        (s.fault .marginLow).occurred true s.fu.uptime (BitVec.ofInt 16 m.toInt).toNat := by
      rw [hv, marginLow, fault_occurrence_inactive rfl (by exact hact)]
      rfl
    have hcountv : countsOnly reportCounters s v := hv ▸ marginLow_countsOnly m s
    have hls := stepDownTo_ls i v
    obtain ⟨ho, -, -, -, -⟩ := stepDownTo_kept i v
    obtain ⟨hrec, hdown, -, hlowEnd⟩ := stepDownTo_records i v
    obtain ⟨hrep, hch⟩ := stepDownTo_blocks i v
    have huse : v.inUse = true ↔ ¬ ((s.call .zero).state = .free ∧ (s.call .one).state = .free) := by
      rw [inUse_congr fun n => call_congr hcc n, inUse_iff]
      exact not_and_or.symm
    rw [htake]
    refine ⟨?_, ?_, ?_, ?_, ?_, ?_, ?_, ?_, ?_, ?_, hrepv.trans hrep, ?_, ?_⟩
    · rw [hls]
      by_cases hu : (s.call .zero).state = .free ∧ (s.call .one).state = .free
      · rw [if_pos hu]
        exact if_neg (huse.not.2 (not_not.2 hu))
      · rw [if_neg hu]
        exact if_pos (huse.2 hu)
    · rw [hls]
    · rw [hls, hlsv]
    · rw [hls]
    · rw [hls]
    · rw [hls]
    · rw [ho, hout, hlsv]
    · rw [hlowEnd, hlow]
    · rw [hdown, hrecv.kept (by decide), hrepv.uptime]
    · exact (hrecv.mono (by simp)).trans (hrec.mono (by simp))
    · exact counted_after hcountv (by decide) (stepDownTo_counted i v).1
    · have hchv : changesOnly (.supervisor :: reportBlocks) s v := by
        rw [hv]
        simp [changesOnly_iff, reportBlocks, marginLow]
      exact (hchv.mono (by decide)).trans hch

end Sys2Proof.Machine

/-! PROOFS. O28: the uptime second. First the thresholds of the Media Unit, then the grading and the steps it can ask for. -/

namespace Sys2Proof.Machine

variable {s t u v : State}

/-! ## Thresholds (R140, R141) -/

theorem keepThreshold_fault (k : FaultKind) (count threshold : Nat) (s : State) : (keepThreshold k count threshold s).fault k =
    if threshold ≤ count then reported k count s.fu.uptime (s.fault k) else { s.fault k with active := false } := by
  unfold keepThreshold
  split
  · exact fault_occurrence_reported k count s
  · exact fault_endCondition_same k s

theorem keepThreshold_recordsOnly (k : FaultKind) (count threshold : Nat) (s : State) :
    recordsOnly [k] s (keepThreshold k count threshold s) := by
  unfold keepThreshold
  split
  · exact occurrence_recordsOnly k count s
  · exact endCondition_recordsOnly k s

theorem keepThreshold_countsOnly (k : FaultKind) (count threshold : Nat) (s : State) :
    countsOnly reportCounters s (keepThreshold k count threshold s) := by
  unfold keepThreshold
  split
  · exact occurrence_countsOnly k count s
  · exact (countsOnly.refl _ s).congr (by simp)

theorem keepThreshold_reports (k : FaultKind) (count threshold : Nat) (s : State) :
    Reports s (keepThreshold k count threshold s) := by
  unfold keepThreshold
  split
  · exact occurrence_reports k count (Reports.refl s)
  · exact endCondition_reports k (Reports.refl s)

/-- The clip count of the second judged and cleared (R140). -/
def clipsJudged (s : State) : State :=
  s |> bumpBy Ctr.clips s.mdu.clips |> onMdu (fun u => { u with clips := 0 })
    |> keepThreshold .clipping s.mdu.clips (s.param .clipThreshold)

/-- The concealment count of the minute judged and cleared (R141). -/
def concealsJudged (s : State) : State :=
  s |> bumpBy Ctr.concealments s.mdu.conceals |> onMdu (fun u => { u with second := 0, conceals := 0 })
    |> keepThreshold .playoutLoss s.mdu.conceals (s.param .lossThreshold)

theorem clipsJudged_mdu (s : State) : (clipsJudged s).mdu = { s.mdu with clips := 0 } := by simp [clipsJudged]

theorem concealsJudged_mdu (s : State) : (concealsJudged s).mdu = { s.mdu with second := 0, conceals := 0 } := by
  simp [concealsJudged]

theorem mediaSecond_eq (s : State) : mediaSecond s =
    if 59 ≤ s.mdu.second then concealsJudged (clipsJudged s)
    else onMdu (fun u => { u with second := u.second + 1 }) (clipsJudged s) := by
  have h : mediaSecond s = if 59 ≤ (clipsJudged s).mdu.second then concealsJudged (clipsJudged s)
      else onMdu (fun u => { u with second := u.second + 1 }) (clipsJudged s) := rfl
  rw [h, clipsJudged_mdu]

/-- The clip count judged: its record, its counter, and nothing else but reports. -/
theorem clipsJudged_facts (s : State) :
    (clipsJudged s).fault .clipping = (if s.param .clipThreshold ≤ s.mdu.clips then
      reported .clipping s.mdu.clips s.fu.uptime (s.fault .clipping) else { s.fault .clipping with active := false }) ∧
    recordsOnly [.clipping] s (clipsJudged s) ∧ Reports s (clipsJudged s) ∧ counted Ctr.clips s.mdu.clips s (clipsJudged s) ∧
    countsOnly (Ctr.clips :: reportCounters) s (clipsJudged s) := by
  unfold clipsJudged
  generalize hw : onMdu (fun u => { u with clips := 0 }) (bumpBy Ctr.clips s.mdu.clips s) = w
  have hfu : w.fu = s.fu := hw ▸ rfl
  have hcount : counted Ctr.clips s.mdu.clips s w := by
    rw [← hw]
    exact (counter_bumpBy s _ _ _).trans (if_pos rfl)
  have honly : countsOnly [Ctr.clips] s w := by
    rw [← hw]
    exact (bumpBy_countsOnly Ctr.clips s.mdu.clips s).congr rfl
  have hkeep := keepThreshold_countsOnly .clipping s.mdu.clips (s.param .clipThreshold) w
  refine ⟨?_, (recordsOnly_of_fu hfu).trans (keepThreshold_recordsOnly _ _ _ w), ?_, counted_then hcount hkeep (by decide),
    (honly.mono (by decide)).trans (hkeep.mono (by decide))⟩
  · rw [keepThreshold_fault, hfu, fault_congr hfu]
  · exact (reports_same (Reports.refl s) (hw ▸ rfl) (hw ▸ rfl) hfu).trans (keepThreshold_reports _ _ _ w)

theorem concealsJudged_facts (s : State) :
    (concealsJudged s).fault .playoutLoss = (if s.param .lossThreshold ≤ s.mdu.conceals then
      reported .playoutLoss s.mdu.conceals s.fu.uptime (s.fault .playoutLoss)
      else { s.fault .playoutLoss with active := false }) ∧
    recordsOnly [.playoutLoss] s (concealsJudged s) ∧ Reports s (concealsJudged s) ∧
    counted Ctr.concealments s.mdu.conceals s (concealsJudged s) ∧
    countsOnly (Ctr.concealments :: reportCounters) s (concealsJudged s) := by
  unfold concealsJudged
  generalize hw : onMdu (fun u => { u with second := 0, conceals := 0 }) (bumpBy Ctr.concealments s.mdu.conceals s) = w
  have hfu : w.fu = s.fu := hw ▸ rfl
  have hcount : counted Ctr.concealments s.mdu.conceals s w := by
    rw [← hw]
    exact (counter_bumpBy s _ _ _).trans (if_pos rfl)
  have honly : countsOnly [Ctr.concealments] s w := by
    rw [← hw]
    exact (bumpBy_countsOnly Ctr.concealments s.mdu.conceals s).congr rfl
  have hkeep := keepThreshold_countsOnly .playoutLoss s.mdu.conceals (s.param .lossThreshold) w
  refine ⟨?_, (recordsOnly_of_fu hfu).trans (keepThreshold_recordsOnly _ _ _ w), ?_, counted_then hcount hkeep (by decide),
    (honly.mono (by decide)).trans (hkeep.mono (by decide))⟩
  · rw [keepThreshold_fault, hfu, fault_congr hfu]
  · exact (reports_same (Reports.refl s) (hw ▸ rfl) (hw ▸ rfl) hfu).trans (keepThreshold_reports _ _ _ w)

/-- The Media Unit's part of a second, whatever the line did before it. -/
theorem mediaSecond_facts (s : State) :
    (mediaSecond s).mdu = { s.mdu with clips := 0, second := if 59 ≤ s.mdu.second then 0 else s.mdu.second + 1,
                                       conceals := if 59 ≤ s.mdu.second then 0 else s.mdu.conceals } ∧
    counted Ctr.clips s.mdu.clips s (mediaSecond s) ∧
    countedIf (59 ≤ s.mdu.second) Ctr.concealments s.mdu.conceals s (mediaSecond s) ∧
    (mediaSecond s).fault .clipping = (if s.param .clipThreshold ≤ s.mdu.clips then
      reported .clipping s.mdu.clips s.fu.uptime (s.fault .clipping) else { s.fault .clipping with active := false }) ∧
    (mediaSecond s).fault .playoutLoss = (if ¬ 59 ≤ s.mdu.second then s.fault .playoutLoss
      else if s.param .lossThreshold ≤ s.mdu.conceals then
        reported .playoutLoss s.mdu.conceals s.fu.uptime (s.fault .playoutLoss)
      else { s.fault .playoutLoss with active := false }) ∧
    recordsOnly [.clipping, .playoutLoss] s (mediaSecond s) ∧ Reports s (mediaSecond s) ∧
    countsOnly (Ctr.clips :: Ctr.concealments :: reportCounters) s (mediaSecond s) := by
  obtain ⟨cfault, crec, crep, ccount, conly⟩ := clipsJudged_facts s
  have cmdu := clipsJudged_mdu s
  have cdu : (clipsJudged s).du = s.du := by simp [clipsJudged]
  rw [mediaSecond_eq]
  by_cases h : 59 ≤ s.mdu.second
  · obtain ⟨pfault, prec, prep, pcount, ponly⟩ := concealsJudged_facts (clipsJudged s)
    rw [cmdu, crep.uptime, crec.kept (by decide), param_congr cdu] at pfault
    rw [cmdu] at pcount
    simp only [not_true_eq_false, h, if_true, if_false]
    refine ⟨by rw [concealsJudged_mdu, cmdu], counted_then ccount ponly (by decide),
      ⟨fun _ => counted_after conly (by decide) pcount, fun hn => absurd trivial hn⟩,
      (prec.kept (by decide)).trans cfault, pfault, ?_, crep.trans prep, ?_⟩
    · exact (crec.mono (by simp)).trans (prec.mono (by simp))
    · exact (conly.mono (by decide)).trans (ponly.mono (by decide))
  · simp only [h, not_false_eq_true, if_true, if_false]
    refine ⟨by rw [onMdu_mdu, cmdu], ccount, ⟨fun hm => hm.elim, fun _ => conly _ (by decide)⟩, cfault,
      crec.kept (by decide), (crec.mono (by simp)).trans (recordsOnly_of_fu rfl), ?_, ?_⟩
    · exact crep.trans (reports_same (Reports.refl _) rfl rfl rfl)
    · exact (conly.mono (by decide)).congr rfl

/-! ## A step-up (R45) -/

theorem stepUpTo_facts (i : Fin 8) (s : State) :
    (stepUpTo i s).ls =
      { s.ls with lowMargin := 0, stepUpDeferred := false, silence := none, loopback := none, rung := i,
                  train := some { limit := 1000 * s.param .trainTimeout, elapsed := 0 }, link := .training } ∧
    (stepUpTo i s).out = { s.out with xcvr := s.out.xcvr ++ [.halt, .train (vget s.ls.profile i).cap] } ∧
    (∀ c, (stepUpTo i s).chan c = { s.chan c with seg := none, asm := none }) ∧
    (stepUpTo i s).lbu = { s.lbu with urgent := false } := by
  obtain ⟨hls, hout, hchan, hlbu, -, -, -⟩ := steppedTo_facts i s
  obtain ⟨ebf, elbu, eout⟩ : (stepUpTo i s).bf = (steppedTo i s).bf ∧ (stepUpTo i s).lbu = (steppedTo i s).lbu ∧
      (stepUpTo i s).out = (steppedTo i s).out := by simp [stepUpTo_eq]
  refine ⟨?_, eout.trans hout, fun c => (chan_congr ebf c).trans (hchan c), elbu.trans hlbu⟩
  rw [stepUpTo_eq, bump_ls, enterLink_ls, hls]

theorem stepUpTo_records (i : Fin 8) (s : State) :
    recordsOnly [.severeRun, .marginLow, .reassemblyLoss, .lineDown] s (stepUpTo i s) ∧
    (stepUpTo i s).fault .severeRun = { s.fault .severeRun with active := false } := by
  obtain ⟨-, -, -, -, -, -, hfu⟩ := steppedTo_facts i s
  have hlink := enterLink_recordsOnly .training (steppedTo i s)
  have hfault : ∀ k, k ≠ .lineDown → (stepUpTo i s).fault k = (leaveCarrying s).fault k := fun k hk => by
    rw [stepUpTo_eq, fault_bump, hlink.kept (by simpa using hk), fault_congr hfu]
  refine ⟨fun k hk => ?_, (hfault _ (by decide)).trans (leaveCarrying_faults s).1⟩
  simp only [List.mem_cons, not_or] at hk
  obtain ⟨hk1, hk2, hk3, hk4, -⟩ := hk
  rw [hfault k hk4, (leaveCarrying_recordsOnly s).kept (by simp [hk1, hk2, hk3])]

theorem stepUpTo_counted (i : Fin 8) (s : State) : counted Ctr.stepUps 1 s (stepUpTo i s) ∧
    countsOnly (Ctr.stepUps :: stepCounters) s (stepUpTo i s) := by
  have hbefore : countsOnly (Ctr.trainingsStarted :: leaveCounters) s (enterLink .training (steppedTo i s)) :=
    (steppedTo_countsOnly i s).trans ((enterLink_countsOnly _ _).mono (by decide))
  rw [stepUpTo_eq]
  exact ⟨counted_after hbefore (by decide) (counter_bump_same _ _), (hbefore.mono (by decide)).bump (by decide)⟩

theorem stepUpTo_changesOnly (i : Fin 8) (s : State) :
    changesOnly ([.framer, .supervisor, .budget, .outputs] ++ reportBlocks) s (stepUpTo i s) := by
  refine (steppedTo_changesOnly i s).trans ?_
  rw [stepUpTo_eq]
  simp [changesOnly_iff, reportBlocks]

/-! ## What a second keeps of the Media Unit -/

/-- Nothing of the Media Unit has changed but its slots. -/
def slotsOnly (s t : State) : Prop := t.mdu = { s.mdu with slots := t.mdu.slots }

theorem slotsOnly_of_eq (h : t.mdu = s.mdu) : slotsOnly s t := by rw [slotsOnly, h]

theorem slotsOnly.trans (h : slotsOnly s u) (k : slotsOnly u t) : slotsOnly s t := by
  unfold slotsOnly at *
  rw [k, h]

theorem followCall_slotsOnly (n : Slot) (s : State) : slotsOnly s (followCall n s) := by
  have hb : ∀ (b : Bool) (v : State), (whenever b (bump Ctr.staleVoice) v).mdu = v.mdu := fun b v => by cases b <;> rfl
  rw [slotsOnly, followCall, setMedia, hb]
  rfl

theorem holdSlot_slotsOnly (n : Slot) (s : State) : slotsOnly s (holdSlot n s) := by
  unfold holdSlot
  split
  · exact (slotsOnly_of_eq (t := onCall n (fun c => { c with held := true }) s) rfl).trans (followCall_slotsOnly n _)
  · exact slotsOnly_of_eq rfl

theorem enterTraining_slotsOnly (s : State) : slotsOnly s (enterTraining s) := by
  cases h : s.inUse with
  | false => rw [enterTraining_idle h]; exact slotsOnly_of_eq (by simp)
  | true =>
    rw [enterTraining_used h]
    exact ((slotsOnly_of_eq (t := retraining s) rfl).trans (holdSlot_slotsOnly .zero _)).trans (holdSlot_slotsOnly .one _)

theorem stepDownTo_slotsOnly (i : Fin 8) (s : State) : slotsOnly s (stepDownTo i s) := by
  have hdown : (steppedDown i s).mdu = s.mdu := by simp [steppedDown, steppedTo]
  exact (slotsOnly_of_eq hdown).trans (enterTraining_slotsOnly _)

/-! ## The second graded (R41, R42) -/

/-- The second graded, before SEVERE_RUN is evaluated. -/
def gradedSecond (s : State) : State := onLs (fun l => l.graded s.grade) s

/-- SEVERE_RUN evaluated, before a step-down is asked for. -/
def severed (s : State) : State :=
  if s.param .stepDownCount ≤ s.severeCount then
    if s.isActive .severeRun then s else occurrence .severeRun s.severeCount s
  else endCondition .severeRun s

/-- Whether SEVERE_RUN becomes active with a rung below to step down to. -/
def downTo (s : State) (i : Fin 8) : Prop :=
  s.param .stepDownCount ≤ s.severeCount ∧ (s.fault .severeRun).active = false ∧ s.rungBelow s.ls.rung = some i

theorem grade_eq (s : State) : s.grade =
    if s.param .severeThreshold ≤ s.ls.crcBad ∨ s.ls.syncLostMark = true then .severe
    else if s.ls.crcBad = 0 ∧ s.ls.gapMark = false then .clean else .errored := by
  unfold State.grade
  by_cases h : s.param .severeThreshold ≤ s.ls.crcBad ∨ s.ls.syncLostMark = true
  · rw [if_pos h, if_pos (by simpa using h)]
  · rw [if_neg h, if_neg (by simpa using h)]
    by_cases hc : s.ls.crcBad = 0 ∧ s.ls.gapMark = false
    · simp [hc]
    · rw [if_neg hc, if_pos]
      rcases not_and_or.1 hc with hbad | hgap
      · simp [Nat.one_le_iff_ne_zero, hbad]
      · simp [Bool.eq_true_of_not_eq_false hgap]

theorem severed_facts (s : State) :
    (severed s).fault .severeRun = (if s.param .stepDownCount ≤ s.severeCount then
      reported .severeRun s.severeCount s.fu.uptime (s.fault .severeRun) else { s.fault .severeRun with active := false }) ∧
    recordsOnly [.severeRun] s (severed s) ∧ Reports s (severed s) ∧ countsOnly reportCounters s (severed s) := by
  unfold severed
  split
  · split
    · next ha =>
      have hsame : reported .severeRun s.severeCount s.fu.uptime (s.fault .severeRun) = s.fault .severeRun := if_pos ⟨rfl, ha⟩
      exact ⟨hsame.symm, .refl _ s, .refl s, .refl _ s⟩
    · exact ⟨fault_occurrence_reported _ _ s, occurrence_recordsOnly _ _ s, occurrence_reports _ _ (.refl s),
        occurrence_countsOnly _ _ s⟩
  · exact ⟨fault_endCondition_same _ s, endCondition_recordsOnly _ s, endCondition_reports _ (.refl s),
      (countsOnly.refl _ s).congr (by simp)⟩

theorem severed_same (s : State) : (severed s).ls = s.ls ∧ (severed s).bf = s.bf ∧ (severed s).lbu = s.lbu ∧
    (severed s).cc = s.cc ∧ (severed s).mdu = s.mdu ∧ (severed s).du = s.du ∧ (severed s).out = s.out := by
  unfold severed
  split
  · split <;> simp
  · simp

theorem severed_changesOnly (s : State) : changesOnly reportBlocks s (severed s) := by
  unfold severed
  split
  · split <;> simp [changesOnly_iff, reportBlocks]
  · simp [changesOnly_iff, reportBlocks]

theorem evalSevere_stays (h : ∀ i, ¬ downTo s i) : evalSevere s = severed s := by
  unfold evalSevere severed
  dsimp only
  split
  · next hr =>
    split
    · rfl
    · next ha =>
      have hbelow : s.rungBelow s.ls.rung = none := by
        by_contra hne
        obtain ⟨i, hi⟩ := Option.ne_none_iff_exists'.1 hne
        exact h i ⟨hr, by simpa [State.isActive] using ha, hi⟩
      have hbelow' : (occurrence .severeRun s.severeCount s).rungBelow (occurrence .severeRun s.severeCount s).ls.rung = none := by
        simpa [State.rungBelow, State.rungValid] using hbelow
      simp only [askStepDown, hbelow']
  · rfl

theorem evalSevere_down {i : Fin 8} (h : downTo s i) : evalSevere s = stepDownTo i (severed s) := by
  obtain ⟨hr, ha, hi⟩ := h
  have hsev : severed s = occurrence .severeRun s.severeCount s := by
    rw [severed, if_pos hr, if_neg (by simpa [State.isActive] using ha)]
  have hask : evalSevere s = askStepDown (severed s) := by
    rw [hsev, evalSevere]
    exact (if_pos hr).trans (if_neg (by simpa [State.isActive] using ha))
  have hi' : (severed s).rungBelow (severed s).ls.rung = some i := by
    rw [(severed_same s).1, ← hi]
    simp only [State.rungBelow, State.rungValid, (severed_same s).1]
  rw [hask]
  simp only [askStepDown, hi']

/-! ## Which step a second asks for -/

/-- What a second does to a line that carries: one step down, one step up, a step-up deferred, or none. -/
theorem gradeSecond_cases (h : s.carrying = true) :
    (∃ i, downTo (gradedSecond s) i ∧ gradeSecond s = stepDownTo i (severed (gradedSecond s))) ∨
    ((∀ i, ¬ downTo (gradedSecond s) i) ∧
      ((∃ i, (severed (gradedSecond s)).stepUpDue = some i ∧ s.inUse = false ∧
          gradeSecond s = stepUpTo i (severed (gradedSecond s))) ∨
        (∃ i, (severed (gradedSecond s)).stepUpDue = some i ∧ s.inUse = true ∧
          gradeSecond s = onLs (fun l => { l with stepUpDeferred := true }) (severed (gradedSecond s))) ∨
        ((severed (gradedSecond s)).stepUpDue = none ∧ gradeSecond s = severed (gradedSecond s)))) := by
  have hg : gradeSecond s = evalStepUp (evalSevere (gradedSecond s)) := if_pos h
  obtain ⟨els, -, -, ecc, -⟩ := severed_same (gradedSecond s)
  have huse : (severed (gradedSecond s)).inUse = s.inUse := inUse_congr fun n => (call_congr ecc n).trans rfl
  have hcarry : (severed (gradedSecond s)).carrying = true := by
    rw [State.carrying, els]
    exact h
  rw [hg]
  by_cases hd : ∃ i, downTo (gradedSecond s) i
  · obtain ⟨i, hi⟩ := hd
    refine .inl ⟨i, hi, ?_⟩
    have hoff : (stepDownTo i (severed (gradedSecond s))).carrying = false := by
      rw [State.carrying, stepDownTo_ls]
      simp only []
      split <;> rfl
    rw [evalSevere_down hi, evalStepUp, if_neg (by simp [hoff])]
  · have hstay := not_exists.1 hd
    refine .inr ⟨hstay, ?_⟩
    rw [evalSevere_stays hstay, evalStepUp, if_pos hcarry, huse]
    cases hdue : (severed (gradedSecond s)).stepUpDue with
    | none => exact .inr (.inr ⟨rfl, rfl⟩)
    | some i =>
      cases hu : s.inUse with
      | false => exact .inl ⟨i, rfl, rfl, by simp⟩
      | true => exact .inr (.inl ⟨i, rfl, rfl, by simp⟩)

theorem stepUpDue_iff (s : State) (i : Fin 8) : s.stepUpDue = some i ↔
    s.rungAbove s.ls.rung = some i ∧ s.param .startRung ≤ i.val ∧ min (s.param .stepUpPeriod) 65535 ≤ s.ls.cleanRun ∧
      (vget s.ls.profile i).minMargin + (s.param .marginHysteresis : Int) ≤ s.ls.margin := by
  unfold State.stepUpDue State.stepUpRung
  cases hr : s.rungAbove s.ls.rung with
  | none => simp
  | some j =>
    by_cases hj : s.param .startRung ≤ j.val
    · simp only [if_pos hj, Option.some.injEq]
      constructor
      · intro h
        split at h
        · next hc => cases h; exact ⟨rfl, hj, hc⟩
        · cases h
      · rintro ⟨rfl, -, hc⟩
        rw [if_pos hc]
    · simp only [if_neg hj, Option.some.injEq]
      constructor
      · intro h; cases h
      · rintro ⟨rfl, hc, -⟩; exact absurd hc hj

/-- What a second graded can touch beside the supervisor, whatever it asks for. -/
theorem gradeSecond_generic (s : State) : slotsOnly s (gradeSecond s) ∧
    recordsOnly [.severeRun, .stepDown, .marginLow, .reassemblyLoss, .lineDown] s (gradeSecond s) ∧
    countsOnly (Ctr.stepDowns :: Ctr.stepUps :: stepCounters) s (gradeSecond s) := by
  by_cases h : s.carrying = true
  · obtain ⟨-, erec, -, ecount⟩ := severed_facts (gradedSecond s)
    obtain ⟨-, -, -, -, emdu, -, -⟩ := severed_same (gradedSecond s)
    have hslots : slotsOnly s (severed (gradedSecond s)) := slotsOnly_of_eq (emdu.trans rfl)
    have hrec : recordsOnly [.severeRun, .stepDown, .marginLow, .reassemblyLoss, .lineDown] s (severed (gradedSecond s)) :=
      (recordsOnly_of_fu (t := gradedSecond s) rfl).trans (erec.mono (by simp))
    have hcount : countsOnly (Ctr.stepDowns :: Ctr.stepUps :: stepCounters) s (severed (gradedSecond s)) :=
      ((countsOnly.refl _ s).congr (u := gradedSecond s) rfl).trans (ecount.mono (by decide))
    rcases gradeSecond_cases h with ⟨i, -, hg⟩ | ⟨-, ⟨i, -, -, hg⟩ | ⟨i, -, -, hg⟩ | ⟨-, hg⟩⟩ <;> rw [hg]
    · exact ⟨hslots.trans (stepDownTo_slotsOnly _ _), hrec.trans ((stepDownTo_records i _).1.mono (by simp)),
        hcount.trans ((stepDownTo_counted i _).2.mono (by decide))⟩
    · exact ⟨hslots.trans (slotsOnly_of_eq (by simp)), hrec.trans ((stepUpTo_records i _).1.mono (by simp)),
        hcount.trans ((stepUpTo_counted i _).2.mono (by decide))⟩
    · exact ⟨hslots.trans (slotsOnly_of_eq rfl), hrec.trans (recordsOnly_of_fu rfl), hcount.congr rfl⟩
    · exact ⟨hslots, hrec, hcount⟩
  · rw [gradeSecond, if_neg h]
    exact ⟨slotsOnly_of_eq rfl, .refl _ s, .refl _ s⟩

/-- The clock of the second set. -/
def secondStarted (s : State) : State := onFu (fun u => { u with uptime := (u.uptime + 1) % 4294967296, tick := 0 }) s

/-- Settles O28: the second is counted and graded, the line steps as SEVERE_RUN and the step-up conditions ask, and then the
Media Unit judges its counts. -/
theorem secondsAreGraded : Obligations.SecondsAreGraded := by
  intro s
  obtain ⟨g, hg⟩ : ∃ g, g = gradeSecond (secondStarted s) := ⟨_, rfl⟩
  obtain ⟨gslots, grec, gcount⟩ := gradeSecond_generic (secondStarted s)
  have grep : Reports (secondStarted s) (gradeSecond (secondStarted s)) := gradeSecond_reports (.refl _)
  have gdu : (gradeSecond (secondStarted s)).du = s.du := (gradeSecond_frame _).2.2.1
  rw [← hg] at gslots grec gcount grep gdu
  obtain ⟨tmdu, tclips, tconceals, tclipping, tloss, trec, trep, tonly⟩ := mediaSecond_facts g
  obtain ⟨-, tbf, tls, tlbu, -, tcc, -, -, -, tout, -⟩ := mediaSecond_frame g
  have hmdu : g.mdu.clips = s.mdu.clips ∧ g.mdu.second = s.mdu.second ∧ g.mdu.conceals = s.mdu.conceals := by
    rw [gslots]
    exact ⟨rfl, rfl, rfl⟩
  obtain ⟨hclips, hsecond, hconceals⟩ := hmdu
  have hnow : g.fu.uptime = (s.fu.uptime + 1) % 4294967296 := grep.uptime
  have hfault : ∀ k, k ∉ [FaultKind.severeRun, .stepDown, .marginLow, .reassemblyLoss, .lineDown] → g.fault k = s.fault k :=
    fun k hk => grec.kept hk
  rw [hclips, hnow, param_congr gdu, hfault _ (by decide)] at tclipping
  rw [hconceals, hsecond, hnow, param_congr gdu, hfault _ (by decide)] at tloss
  rw [hclips] at tclips
  rw [hsecond, hconceals] at tconceals
  have hstart : countsOnly (Ctr.stepDowns :: Ctr.stepUps :: stepCounters) s g := gcount
  refine ⟨mediaSecond g, congrArg (fun v => Host.Outcome.next (mediaSecond v)) hg.symm, ?_⟩
  intro now minute
  refine ⟨trep.uptime.trans hnow, ?_, ?_, ?_, ?_, counted_after hstart (by decide) tclips,
    countedIf_after hstart (by decide) tconceals, tclipping, tloss, fun hl => ?_, fun hl => ?_⟩
  · rw [trep.monitor, grep.monitor]
    rfl
  · rw [tmdu]
  · rw [tmdu, hsecond]
  · rw [tmdu, hsecond, hconceals]
  · have hoff : g = secondStarted s := hg.trans (if_neg fun hc => hl (eq_of_beq hc))
    refine ⟨?_, ?_⟩
    · rw [hoff]
      simp [changesOnly_iff, secondStarted]
    · have hkeep : recordsOnly [.clipping, .playoutLoss] s g := fun k _ => by rw [hoff]; rfl
      exact hkeep.trans trec
  · intro severe clean grade graded count reached was used down up evaluated trains
    obtain ⟨E, hE⟩ : ∃ E, E = severed (gradedSecond (secondStarted s)) := ⟨_, rfl⟩
    have hG : (gradedSecond (secondStarted s)).ls = graded := by
      show s.ls.graded (secondStarted s).grade = graded
      rw [grade_eq]
      rfl
    obtain ⟨els, ebf, elbu, ecc, emdu, edu, eout⟩ := severed_same (gradedSecond (secondStarted s))
    obtain ⟨efault, erec, erep, ecount⟩ := severed_facts (gradedSecond (secondStarted s))
    have eblocks := severed_changesOnly (gradedSecond (secondStarted s))
    rw [← hE] at els ebf elbu ecc emdu edu eout efault erec erep ecount eblocks
    rw [hG] at els
    have hreached : (gradedSecond (secondStarted s)).severeCount = count := by
      simp only [State.severeCount, hG]
      rfl
    have hsev : E.fault .severeRun = evaluated := by
      rw [efault, hreached]
      rfl
    have hcallE : ∀ n, E.call n = s.call n := fun n => call_congr ecc n
    have huse : E.inUse = true ↔ used := by
      rw [inUse_congr hcallE]
      exact inUse_iff s
    have huse' : (secondStarted s).inUse = true ↔ used := inUse_iff s
    have hparam : ∀ p, E.param p = s.param p := fun p => param_congr edu p
    have hdown : ∀ i, downTo (gradedSecond (secondStarted s)) i ↔ down i := fun i => by
      simp only [downTo, hreached, State.rungBelow, State.rungValid, hG]
      exact Iff.rfl
    have hup : ∀ i, E.stepUpDue = some i ↔ up i := fun i => by
      rw [stepUpDue_iff, hparam, hparam, hparam]
      simp only [State.rungAbove, State.rungValid, els]
      exact Iff.rfl
    have hcases := gradeSecond_cases (s := secondStarted s) (beq_iff_eq.2 hl)
    rw [← hE, ← hg] at hcases
    have hrecE : recordsOnly [.severeRun] s E := fun k hk => (erec k hk).trans rfl
    have hcountE : countsOnly reportCounters s E := ecount
    have hdowns : ∀ i, down i → g = stepDownTo i E := fun i hi => by
      rcases hcases with ⟨j, hj, hgj⟩ | ⟨hno, -⟩
      · obtain ⟨-, -, hbelow⟩ := (hdown j).1 hj
        obtain ⟨-, -, hbelow'⟩ := hi
        cases hbelow.symm.trans hbelow'
        exact hgj
      · exact absurd ((hdown i).2 hi) (hno i)
    have hsame : ∀ i j, E.stepUpDue = some j → up i → j = i := fun i j hj hi =>
      Option.some.inj (hj.symm.trans ((hup i).2 hi))
    have hups : (∀ i, ¬ down i) → ∀ i, up i → ¬ used → g = stepUpTo i E := fun hno i hi hu => by
      rcases hcases with ⟨j, hj, -⟩ | ⟨-, ⟨j, hj, -, hgj⟩ | ⟨j, -, hju, -⟩ | ⟨hnone, -⟩⟩
      · exact absurd ((hdown j).1 hj) (hno j)
      · exact hsame i j hj hi ▸ hgj
      · exact absurd (huse'.1 hju) hu
      · exact absurd (hnone.symm.trans ((hup i).2 hi)) (by simp)
    have hdefers : (∀ i, ¬ down i) → ∀ i, up i → used → g = onLs (fun l => { l with stepUpDeferred := true }) E :=
      fun hno i hi hu => by
        rcases hcases with ⟨j, hj, -⟩ | ⟨-, ⟨j, -, hju, -⟩ | ⟨j, -, -, hgj⟩ | ⟨hnone, -⟩⟩
        · exact absurd ((hdown j).1 hj) (hno j)
        · rw [huse'.2 hu] at hju
          cases hju
        · exact hgj
        · exact absurd (hnone.symm.trans ((hup i).2 hi)) (by simp)
    have hstays : (∀ i, ¬ down i) → (∀ i, ¬ up i) → g = E := fun hno hnoup => by
      rcases hcases with ⟨j, hj, -⟩ | ⟨-, ⟨j, hj, -, -⟩ | ⟨j, hj, -, -⟩ | ⟨-, hgj⟩⟩
      · exact absurd ((hdown j).1 hj) (hno j)
      · exact absurd ((hup j).1 hj) (hnoup j)
      · exact absurd ((hup j).1 hj) (hnoup j)
      · exact hgj
    have hsevt : (mediaSecond g).fault .severeRun = g.fault .severeRun := trec.kept (by decide)
    have hstepped : ∀ i, (g.ls = { graded with
          lowMargin := 0, stepUpDeferred := false, silence := none, loopback := none, rung := i,
          train := some { limit := 1000 * s.param .trainTimeout, elapsed := 0 }, link := g.ls.link, hold := g.ls.hold }) →
        g.out = { E.out with xcvr := E.out.xcvr ++ [.halt, .train (vget E.ls.profile i).cap] } →
        (∀ c, g.chan c = { E.chan c with seg := none, asm := none }) → g.lbu = { E.lbu with urgent := false } →
        g.fault .severeRun = { E.fault .severeRun with active := false } → trains i := by
      intro i h1 h2 h3 h4 h5
      refine ⟨?_, ?_, ?_, ?_, fun c => ?_⟩
      · rw [tls, h1]
      · rw [tout, h2, els, eout]
        rfl
      · rw [hsevt, h5, hsev]
      · rw [tlbu, h4, elbu]
        rfl
      · rw [chan_congr tbf, h3, chan_congr ebf]
        rfl
    refine ⟨fun i hi => ?_, fun hno i hi => ⟨fun hu => ?_, fun hu => ?_⟩, fun hno hnoup => ?_, fun hno hq => ?_, ?_⟩
    · have hgi := hdowns i hi
      have gls := stepDownTo_ls i E
      obtain ⟨gout, gchan, glbu, gcall, -⟩ := stepDownTo_kept i E
      obtain ⟨-, gdown, gsev, -⟩ := stepDownTo_records i E
      obtain ⟨gcounted, -⟩ := stepDownTo_counted i E
      rw [← hgi] at gls gout gchan glbu gcall gdown gsev gcounted
      refine ⟨hstepped i ?_ gout gchan glbu gsev, ?_, fun hu => ?_, fun hu => ?_, ?_, fun n => ?_⟩
      · rw [gls, els, hparam]
      · rw [trec.kept (by decide), gdown, hrecE.kept (by decide), erep.uptime]
        rfl
      · rw [tls, gls, if_pos (huse.2 hu), if_pos (huse.2 hu), hparam, hparam]
        exact ⟨rfl, rfl⟩
      · rw [tls, gls, if_neg (huse.not.2 hu), if_neg (huse.not.2 hu), els]
        exact ⟨rfl, rfl⟩
      · exact counted_then (counted_after hcountE (by decide) gcounted) tonly (by decide)
      · rw [call_congr tcc, gcall, hcallE]
    · have hgi := hups hno i hi hu
      obtain ⟨gls, gout, gchan, glbu⟩ := stepUpTo_facts i E
      obtain ⟨-, gsev⟩ := stepUpTo_records i E
      obtain ⟨gcounted, -⟩ := stepUpTo_counted i E
      rw [← hgi] at gls gout gchan glbu gsev gcounted
      refine ⟨hstepped i ?_ gout gchan glbu gsev, ?_, ?_, ?_⟩
      · rw [gls, els, hparam]
      · rw [tls, gls]
      · rw [tls, gls, els]
      · exact counted_then (counted_after hcountE (by decide) gcounted) tonly (by decide)
    · have hgi := hdefers hno i hi hu
      refine ⟨?_, ?_⟩
      · rw [tls, hgi, onLs_ls, els]
      · rw [hsevt, hgi]
        exact hsev
    · have hgi := hstays hno hnoup
      rw [tls, hsevt, hgi]
      exact ⟨els, hsev⟩
    · have hkept : g = E ∨ g = onLs (fun l => { l with stepUpDeferred := true }) E := by
        by_cases hany : ∃ i, up i
        · obtain ⟨i, hi⟩ := hany
          exact .inr (hdefers hno i hi (hq.resolve_right fun hn => hn i hi))
        · exact .inl (hstays hno (not_exists.1 hany))
      have hrecg : recordsOnly [.severeRun] s g := by
        rcases hkept with h | h <;> rw [h]
        · exact hrecE
        · exact hrecE.trans (recordsOnly_of_fu rfl)
      have hblocks : changesOnly [.supervisor, .media, .faults, .matchEngine, .queues, .counters] s g := by
        have hbefore : changesOnly [.supervisor, .faults] s (gradedSecond (secondStarted s)) := by
          simp [changesOnly_iff, gradedSecond, secondStarted]
        have hE' := (hbefore.mono (by decide)).trans (eblocks.mono (bs := [.supervisor, .media, .faults, .matchEngine, .queues,
          .counters]) (by decide))
        rcases hkept with h | h <;> rw [h]
        · exact hE'
        · exact hE'.trans (by simp [changesOnly_iff])
      refine ⟨(hrecg.mono (by simp)).trans (trec.mono (by simp)), hblocks.trans ?_⟩
      simp [changesOnly_iff]
    · exact ((grec : recordsOnly _ s g).mono (by simp)).trans (trec.mono (by simp))

end Sys2Proof.Machine

/-! PROOFS. O55: the line actions. First a directive done, with all that it leaves of the state its act has made; then
each action. -/

namespace Sys2Proof.Machine

variable {s t u v w : State}

/-! ## A directive done (R205, R217) -/

/-- A directive that has been done: `w` is the state that its act left, and receipt and reply are all that is added. -/
structure ActionDone (sender : Sender) (code : Nat) (tag : Half) (body : Bytes) (s w t : State) : Prop where
  ls : t.ls = w.ls
  out : t.out = w.out
  bf : t.bf = w.bf
  lbu : t.lbu = w.lbu
  ppu : t.ppu = w.ppu
  cc : t.cc = w.cc
  mdu : t.mdu = w.mdu
  fu : t.fu = w.fu
  tr : t.tr = w.tr
  du : t.du = seenBy sender s.du
  replied : Replied sender code tag .done body s t
  blocks : ∀ bs, [Block.directives, .queues, .counters] ⊆ bs → changesOnly bs (arrived sender s) w → changesOnly bs s t
  counts : ∀ c k, c ∉ answerCounters sender .done → counted c k (arrived sender s) w → counted c k s t
  countsIf : ∀ p c k, c ∉ answerCounters sender .done → countedIf p c k (arrived sender s) w → countedIf p c k s t
  countsWithin : ∀ cs, countsOnly cs (arrived sender s) w → countsOnly (cs ++ answerCounters sender .done) s t

theorem onlyNotices_of_reports {sender : Sender} (h : Reports (arrived sender s) w) : onlyNotices s w := by
  obtain ⟨l, hl, hq⟩ := h.queues
  exact ⟨l, hl, by rw [hq]; simp⟩

/-- A directive whose act reports, counts and leaves the Directive Unit as the receipt left it. -/
theorem exec_actionDone {c : Instr} {sender : Sender} {tag : Half} {r : Request} {body : Bytes} {cs : List Counter}
    (hc : requestOf c = some (sender, tag, r)) (ha : accepts sender s) (hf : r.fits = true) (hp : r.passes sender = true)
    (hr : r ≠ .reset) (hact : act sender tag r (arrived sender s) = doneWith body w) (hq : Reports (arrived sender s) w)
    (hdu : w.du = (arrived sender s).du) (hcount : countsOnly cs (arrived sender s) w)
    (hreceived : ∀ a, Ctr.received a ∉ cs) (hdone : Ctr.repliesDone ∉ cs) :
    ∃ t, exec c s = .next t ∧ ActionDone sender r.code tag body s w t := by
  have hdu' : w.du = seenBy sender s.du := hdu.trans (arrived_du _ _)
  refine ⟨answerWith sender (replyCode r.code) tag (doneWith body w), (exec_answers hc ha hf hp hr).trans (by rw [hact]), ?_⟩
  exact
    { ls := by simp, out := by simp, bf := by simp, lbu := by simp, ppu := by simp, cc := by simp, mdu := by simp,
      fu := by simp, tr := by simp, du := by simp [hdu']
      replied := done_replied ha (onlyNotices_of_reports hq) (by rw [hdu']) hcount (hreceived _) hdone
      blocks := fun bs hb h => answered_changesOnly (r := doneWith body w) hb h
      counts := fun c k hcs h => counted_answerWith (r := doneWith body w) h hcs
      countsIf := fun p c k hcs h => countedIf_answerWith (r := doneWith body w) h hcs
      countsWithin := fun cs h => answered_countsOnly (r := doneWith body w) h }

theorem ActionDone.fault {sender : Sender} {code : Nat} {tag : Half} {body : Bytes}
    (h : ActionDone sender code tag body s w t) (k : FaultKind) : t.fault k = w.fault k := fault_congr h.fu k

/-! ## The counters of a line action -/

/-- The counters that a line action can touch beside those of its answer. -/
def lineCounters : List Counter :=
  [Ctr.stepDowns, Ctr.stepUps, Ctr.probeDiscarded, Ctr.loopbacksStarted] ++ stepCounters ++ dropCounters

theorem received_notin_lineCounters (a : Authority) : Ctr.received a ∉ lineCounters := by
  cases a <;> decide

theorem repliesDone_notin_lineCounters : Ctr.repliesDone ∉ lineCounters := by decide

theorem lineAction_passes (sender : Sender) {a b : Byte} (h6 : a ≠ 6) (h7 : a ≠ 7) :
    (Request.lineAction a b).passes sender = true := by
  have h : (a == 6 || a == 7) = false := Bool.or_eq_false_iff.2 ⟨beq_false_of_ne h6, beq_false_of_ne h7⟩
  simp only [Request.passes, h, Bool.and_false, Bool.not_false]

/-- A line action that does something. -/
theorem exec_lineAction {c : Instr} {sender : Sender} {tag : Half} {a : Byte}
    (hc : requestOf c = some (sender, tag, .lineAction a 0)) (ha : accepts sender s) (h6 : a ≠ 6) (h7 : a ≠ 7)
    (hact : lineActionAct a 0 (arrived sender s) = doneWith [] w) (hq : Reports (arrived sender s) w)
    (hdu : w.du = (arrived sender s).du) (hcount : countsOnly lineCounters (arrived sender s) w) :
    ∃ t, exec c s = .next t ∧ ActionDone sender 7 tag [] s w t :=
  exec_actionDone (r := .lineAction a 0) hc ha rfl (lineAction_passes sender h6 h7) (by simp) hact hq hdu hcount
    received_notin_lineCounters repliesDone_notin_lineCounters

/-- A line action refused in the state it finds. -/
theorem exec_lineAction_refused {c : Instr} {sender : Sender} {tag : Half} {a : Byte}
    (hc : requestOf c = some (sender, tag, .lineAction a 0)) (ha : accepts sender s) (h6 : a ≠ 6) (h7 : a ≠ 7)
    (hact : lineActionAct a 0 (arrived sender s) = refuse .wrongState (arrived sender s)) :
    ∃ t, exec c s = .next t ∧ onlyAnswered sender 7 tag .wrongState [] s t :=
  exec_onlyAnswered (r := .lineAction a 0) hc ha rfl (lineAction_passes sender h6 h7) (by simp) hact

/-! ## START and a new round (R28, R32) -/

theorem startLine_facts (h : s.ls.link = .stopped) :
    (startLine s).ls = { s.ls with link := .training, history := [], gradesSince := 0,
                                   rung := s.rungFrom (Fin.ofNat 8 (s.param .startRung)),
                                   train := some { limit := 1000 * s.param .trainTimeout, elapsed := 0 } } ∧
    (startLine s).out = { s.out with xcvr := s.out.xcvr ++
      [.train (vget s.ls.profile (s.rungFrom (Fin.ofNat 8 (s.param .startRung)))).cap] } ∧
    (startLine s).fu = s.fu ∧ counted Ctr.trainingsStarted 1 s (startLine s) ∧
    countsOnly [Ctr.trainingsStarted] s (startLine s) ∧ changesOnly [.supervisor, .outputs, .counters] s (startLine s) := by
  have hquiet : startLine s = onLs (fun l => { l with link := .training })
      (sendTrain s.startRung (onLs (fun l => { l with history := [], gradesSince := 0 }) s)) :=
    enterLink_quiet (by
      show (s.ls.link.wasUp && _) = false
      rw [h]
      rfl)
  rw [hquiet]
  refine ⟨rfl, rfl, rfl, counter_bump_same _ _, ?_, by simp [changesOnly_iff]⟩
  exact ((countsOnly.refl _ s).congr rfl).trans
    ((sendTrain_countsOnly s.startRung (onLs (fun l => { l with history := [], gradesSince := 0 }) s)).congr rfl)

theorem newRound_facts (h : s.ls.link = .waiting) :
    (newRound s).ls = { s.ls with link := .training, backoff := none,
                                  rung := s.rungFrom (Fin.ofNat 8 (s.param .startRung)),
                                  train := some { limit := 1000 * s.param .trainTimeout, elapsed := 0 } } ∧
    (newRound s).out = { s.out with xcvr := s.out.xcvr ++
      [.train (vget s.ls.profile (s.rungFrom (Fin.ofNat 8 (s.param .startRung)))).cap] } ∧
    (newRound s).fu = s.fu ∧ counted Ctr.trainingsStarted 1 s (newRound s) ∧
    countsOnly [Ctr.trainingsStarted] s (newRound s) ∧ changesOnly [.supervisor, .outputs, .counters] s (newRound s) := by
  have hquiet : newRound s = onLs (fun l => { l with link := .training })
      (sendTrain s.startRung (onLs (fun l => { l with backoff := none }) s)) :=
    enterLink_quiet (by
      show (s.ls.link.wasUp && _) = false
      rw [h]
      rfl)
  rw [hquiet]
  refine ⟨rfl, rfl, rfl, counter_bump_same _ _, ?_, by simp [changesOnly_iff]⟩
  exact ((countsOnly.refl _ s).congr rfl).trans
    ((sendTrain_countsOnly s.startRung (onLs (fun l => { l with backoff := none }) s)).congr rfl)

/-! ## STOP (R37) -/

/-- The line halted in STOPPED, before its slots and its tests end. -/
def stopped (s : State) : State :=
  s |> whenever s.carrying leaveCarrying |> sendHalt
    |> onLs (fun l => { l with train := none, ride := none, hold := none, backoff := none, silence := none })
    |> enterLink .stopped |> endCondition .noRung

theorem stopLine_eq (s : State) : stopLine s = endProbe (dropAll (stopped s)) := rfl

/-- The state that STOP halts: CARRYING is left first. -/
def leftIfCarrying (s : State) : State := whenever s.carrying leaveCarrying s

theorem leftIfCarrying_same (s : State) : (leftIfCarrying s).out = s.out ∧ (leftIfCarrying s).cc = s.cc ∧
    (leftIfCarrying s).du = s.du ∧ (leftIfCarrying s).tr = s.tr ∧
    (leftIfCarrying s).ls = { s.ls with loopback := (leftIfCarrying s).ls.loopback, silence := (leftIfCarrying s).ls.silence,
                                        lowMargin := (leftIfCarrying s).ls.lowMargin,
                                        stepUpDeferred := (leftIfCarrying s).ls.stepUpDeferred } := by
  cases h : s.carrying with
  | true =>
    simp only [leftIfCarrying, h, whenever, if_true, leaveCarrying_ls]
    simp
  | false => simp [leftIfCarrying, h, whenever]

/-- What the line's leaving of CARRYING leaves of frames, loopback and claim (R30). -/
theorem leftIfCarrying_left (h : s.ls.link = .carrying) : (leftIfCarrying s).ls.loopback = none ∧
    (leftIfCarrying s).ls.silence = none ∧ (leftIfCarrying s).lbu = { s.lbu with urgent := false } ∧
    ∀ c, (leftIfCarrying s).chan c = { s.chan c with seg := none, asm := none } := by
  have hleft : leftIfCarrying s = leaveCarrying s := by simp [leftIfCarrying, State.carrying, h, whenever]
  rw [hleft, leaveCarrying_ls]
  exact ⟨rfl, rfl, leaveCarrying_lbu s, leaveCarrying_chan s⟩

theorem leftIfCarrying_countsOnly (s : State) : countsOnly leaveCounters s (leftIfCarrying s) :=
  (countsOnly.refl _ s).whenever leaveCarrying_countsOnly

theorem leftIfCarrying_reports (s : State) : Reports s (leftIfCarrying s) :=
  reports_whenever (.refl s) fun _ h => leaveCarrying_reports h

theorem leftIfCarrying_changesOnly (s : State) :
    changesOnly ([.framer, .supervisor, .budget] ++ reportBlocks) s (leftIfCarrying s) := by
  unfold leftIfCarrying whenever
  split
  · simp [changesOnly_iff, reportBlocks]
  · exact .refl _ s

/-- Everything that STOP does after CARRYING is left and before the slots are dropped. -/
theorem stopped_facts (s : State) :
    (stopped s).ls = { (leftIfCarrying s).ls with
      link := .stopped, train := none, ride := none, hold := none, backoff := none, silence := none } ∧
    (stopped s).out = { s.out with xcvr := s.out.xcvr ++ [.halt] } ∧ (stopped s).bf = (leftIfCarrying s).bf ∧
    (stopped s).lbu = (leftIfCarrying s).lbu ∧ (stopped s).cc = s.cc ∧ (stopped s).du = s.du ∧ (stopped s).tr = s.tr ∧
    ((stopped s).fault .noRung).active = false ∧ Reports s (stopped s) ∧ countsOnly leaveCounters s (stopped s) ∧
    changesOnly ([.framer, .supervisor, .budget, .outputs] ++ reportBlocks) s (stopped s) := by
  obtain ⟨lout, lcc, ldu, ltr, -⟩ := leftIfCarrying_same s
  have lcount := leftIfCarrying_countsOnly s
  have lrep := leftIfCarrying_reports s
  have lch := leftIfCarrying_changesOnly s
  have hst : stopped s = (leftIfCarrying s |> sendHalt
      |> onLs (fun l => { l with train := none, ride := none, hold := none, backoff := none, silence := none })
      |> enterLink .stopped |> endCondition .noRung) := rfl
  rw [hst]
  generalize leftIfCarrying s = w at *
  refine ⟨?_, ?_, by simp [sendHalt, sendXcvr], by simp [sendHalt, sendXcvr], by simp [sendHalt, sendXcvr, lcc],
    by simp [sendHalt, sendXcvr, ldu], by simp [sendHalt, sendXcvr, ltr], ?_, ?_, ?_, ?_⟩
  · rw [(endCondition_frame _ _).2.2.1, enterLink_ls]
    rfl
  · rw [← lout]
    simp [sendHalt, sendXcvr]
  · rw [fault_endCondition_same]
  · exact endCondition_reports _ (enterLink_reports _ (reports_onLs (sendHalt_reports lrep)))
  · have hhalt : countsOnly leaveCounters s
        (onLs (fun l => { l with train := none, ride := none, hold := none, backoff := none, silence := none }) (sendHalt w)) :=
      lcount.congr rfl
    exact (hhalt.trans ((enterLink_countsOnly .stopped _).mono (by decide))).congr (by simp)
  · exact (lch.mono (by decide)).trans (by simp [changesOnly_iff, reportBlocks, sendHalt, sendXcvr])

/-- With no frame in progress there is none to cut short. -/
theorem cutShort_idle {c : Chan} {removed : Source → Bool} (h : (s.chan c).seg = none) : cutShort c removed s = s := by
  simp only [cutShort, h]

theorem dropSlot_bf (h : ∀ c, (s.chan c).seg = none) (n : Slot) : (dropSlot n s).bf = s.bf := by
  rw [dropSlot_eq]
  split
  · rfl
  · have hseg : ((releaseAll (s.call n).attached (stopAll (s.call n).ringSet s)).chan n.chan).seg = none := by
      rw [chan_congr (s := s) (by simp)]
      exact h _
    rw [(takeLifted_frame _ _).2.1]
    simp [dropped, cutShort_idle hseg]

theorem dropAll_bf (h : ∀ c, (s.chan c).seg = none) : (dropAll s).bf = s.bf := by
  have hzero := dropSlot_bf h .zero
  have hone := dropSlot_bf (s := dropSlot .zero s) (fun c => by rw [chan_congr hzero]; exact h c) .one
  exact hone.trans hzero

/-- The test channel left: its probe reply given up, and cut short if it was on its way (R194). -/
theorem endProbe_facts (s : State) : (endProbe s).tr.probe = none ∧
    countsOnly [Ctr.framesCutShort, Ctr.probeDiscarded] s (endProbe s) ∧
    changesOnly [.framer, .tests, .counters] s (endProbe s) ∧
    ((∀ c, (s.chan c).seg = none) → (endProbe s).bf = s.bf) := by
  unfold endProbe
  split
  · refine ⟨rfl, ?_, by simp [changesOnly_iff], fun h => ?_⟩
    · exact ((((cutShort_countsOnly _ _ s).mono (by simp)).congr rfl).bump (by simp))
    · rw [cutShort_idle (h 14)]
      rfl
  · next h => exact ⟨by simpa using h, .refl _ s, .refl _ s, fun _ => rfl⟩

theorem lineAction_stop (sender : Sender) (tag : Half) (ha : accepts sender s) : ∃ t,
    exec (.lineActionStop sender tag) s = .next t ∧
      ActionDone sender 7 tag [] s (stopLine (arrived sender s)) t := by
  obtain ⟨sls, -, -, -, -, sdu, -, -, srep, scount, -⟩ := stopped_facts (arrived sender s)
  have hcarry : (stopped (arrived sender s)).carrying = false := by simp [State.carrying, sls]
  refine exec_lineAction rfl ha (by decide) (by decide) rfl ?_ ?_ ?_
  · exact stopLine_reports (.refl _)
  · rw [stopLine_eq]
    simp [sdu]
  · rw [stopLine_eq]
    exact ((scount.mono (by decide)).trans ((dropAll_lineDown hcarry).2.1.mono (by decide))).trans
      ((endProbe_facts _).2.1.mono (by decide))

/-! ## RETRAIN (R38) -/

theorem rungFrom_congr (h : t.ls.profile = s.ls.profile) (i : Fin 8) : t.rungFrom i = s.rungFrom i := by
  have hvalid : t.rungValid = s.rungValid := by funext j; simp only [State.rungValid, h]
  unfold State.rungFrom State.rungBelow
  rw [hvalid]

theorem sameRung_congr (hp : t.ls.profile = s.ls.profile) (hr : t.ls.rung = s.ls.rung) : t.sameRung = s.sameRung := by
  unfold State.sameRung
  rw [hr]
  exact rungFrom_congr hp _

/-- The line halted and trained at a rung, out of CARRYING or RIDING, before the link state is entered. -/
def retrained (i : Fin 8) (s : State) : State :=
  s |> leftIfCarrying |> onLs (fun l => { l with ride := none }) |> sendHalt |> sendTrain i |> occurrence .retrain i.val

theorem retrainFromUp_eq (s : State) : retrainFromUp s = enterTraining (retrained s.sameRung s) := by
  have hsame : (sendHalt (onLs (fun l => { l with ride := none }) (leftIfCarrying s))).sameRung = s.sameRung := by
    obtain ⟨-, -, -, -, hls⟩ := leftIfCarrying_same s
    have hprof : (leftIfCarrying s).ls.profile = s.ls.profile := by rw [hls]
    have hrung : (leftIfCarrying s).ls.rung = s.ls.rung := by rw [hls]
    generalize leftIfCarrying s = w at *
    exact sameRung_congr hprof hrung
  rw [← hsame]
  rfl

theorem retrained_facts (i : Fin 8) (s : State) :
    (retrained i s).ls = { (leftIfCarrying s).ls with
      ride := none, rung := i, train := some { limit := 1000 * s.param .trainTimeout, elapsed := 0 } } ∧
    (retrained i s).out = { s.out with xcvr := s.out.xcvr ++ [.halt, .train (vget s.ls.profile i).cap] } ∧
    (retrained i s).bf = (leftIfCarrying s).bf ∧ (retrained i s).lbu = (leftIfCarrying s).lbu ∧ (retrained i s).cc = s.cc ∧
    (retrained i s).du = s.du ∧ Reports s (retrained i s) ∧
    countsOnly (Ctr.trainingsStarted :: leaveCounters) s (retrained i s) ∧
    changesOnly ([.framer, .supervisor, .budget, .outputs] ++ reportBlocks) s (retrained i s) := by
  obtain ⟨lout, lcc, ldu, -, lls⟩ := leftIfCarrying_same s
  have lcount := leftIfCarrying_countsOnly s
  have lrep := leftIfCarrying_reports s
  have lch := leftIfCarrying_changesOnly s
  have lprof : (leftIfCarrying s).ls.profile = s.ls.profile := by rw [lls]
  unfold retrained
  generalize leftIfCarrying s = w at *
  refine ⟨?_, ?_, by simp [sendHalt, sendXcvr], by simp [sendHalt, sendXcvr], by simp [sendHalt, sendXcvr, lcc],
    by simp [sendHalt, sendXcvr, ldu], ?_, ?_, ?_⟩
  · rw [(occurrence_frame _ _ _).2.2.1, sendTrain_ls, param_congr (s := s) (by simp [sendHalt, sendXcvr, ldu])]
    rfl
  · rw [(occurrence_frame _ _ _).2.2.2.2.2.2.2.2.2.2.1, sendTrain_out]
    show ({ w.out with xcvr := w.out.xcvr ++ [.halt] ++ [.train (vget w.ls.profile i).cap] } : Outputs) = _
    rw [lout, lprof, List.append_assoc]
    rfl
  · exact occurrence_reports _ _ (sendTrain_reports _ (sendHalt_reports (reports_onLs lrep)))
  · have hhalt : countsOnly leaveCounters s (sendHalt (onLs (fun l => { l with ride := none }) w)) := lcount.congr rfl
    exact ((hhalt.mono (by decide)).trans ((sendTrain_countsOnly i _).mono (by decide))).trans
      ((occurrence_countsOnly .retrain _ _).mono (by decide))
  · exact (lch.mono (by decide)).trans (by simp [changesOnly_iff, reportBlocks, sendHalt, sendXcvr])

theorem retrained_fault (i : Fin 8) (s : State) :
    (retrained i s).fault .retrain = (s.fault .retrain).occurred false s.fu.uptime i.val := by
  have lrep := leftIfCarrying_reports s
  have lfault : (leftIfCarrying s).fault .retrain = s.fault .retrain := by
    unfold leftIfCarrying whenever
    split
    · exact (leaveCarrying_recordsOnly s).kept (by decide)
    · rfl
  unfold retrained
  generalize leftIfCarrying s = w at *
  rw [fault_occurrence_reported]
  show reported .retrain i.val w.fu.uptime (w.fault .retrain) = _
  rw [lrep.uptime, lfault]
  exact if_neg fun hc => absurd hc.1 (by decide)

theorem lineAction_retrainUp (sender : Sender) (tag : Half) (ha : accepts sender s)
    (h : s.ls.link = .carrying ∨ s.ls.link = .riding) : ∃ t, exec (.lineActionRetrain sender tag) s = .next t ∧
      ActionDone sender 7 tag [] s (enterTraining (retrained s.sameRung (arrived sender s))) t := by
  obtain ⟨-, -, -, -, -, rdu, rrep, rcount, -⟩ := retrained_facts s.sameRung (arrived sender s)
  have hlink : (arrived sender s).ls.link = s.ls.link := by simp
  have hsame : (arrived sender s).sameRung = s.sameRung := sameRung_congr (by simp) (by simp)
  have hact : lineActionAct 3 0 (arrived sender s) =
      doneWith [] (enterTraining (retrained s.sameRung (arrived sender s))) := by
    rw [← hsame, ← retrainFromUp_eq]
    show retrainAct (arrived sender s) = _
    rcases h with h | h
    · simp only [retrainAct, retrain, hlink, h]
    · simp only [retrainAct, retrain, hlink, h]
  refine exec_lineAction rfl ha (by decide) (by decide) hact (enterTraining_reports rrep) (by simp [rdu]) ?_
  exact (rcount.mono (by decide)).trans ((enterTraining_countsOnly _).mono (by decide))

/-- RETRAIN while training: halted, and trained at the same rung again. -/
theorem retrainAgain_facts (i : Fin 8) (s : State) :
    (sendTrain i (sendHalt s)).ls =
      { s.ls with rung := i, train := some { limit := 1000 * s.param .trainTimeout, elapsed := 0 } } ∧
    (sendTrain i (sendHalt s)).out = { s.out with xcvr := s.out.xcvr ++ [.halt, .train (vget s.ls.profile i).cap] } ∧
    (sendTrain i (sendHalt s)).du = s.du ∧ countsOnly [Ctr.trainingsStarted] s (sendTrain i (sendHalt s)) ∧
    changesOnly [.supervisor, .outputs, .counters] s (sendTrain i (sendHalt s)) := by
  refine ⟨rfl, ?_, rfl, ?_, by simp [changesOnly_iff, sendHalt, sendXcvr]⟩
  · show ({ s.out with xcvr := s.out.xcvr ++ [.halt] ++ [.train (vget s.ls.profile i).cap] } : Outputs) = _
    rw [List.append_assoc]
    rfl
  · have hhalt : countsOnly [Ctr.trainingsStarted] s (sendHalt s) := (countsOnly.refl _ s).congr rfl
    exact hhalt.trans (sendTrain_countsOnly i _)

theorem retrainAgain (h : s.ls.link = .training ∨ s.ls.link = .retraining) :
    retrain s = sendTrain s.sameRung (sendHalt s) := by
  have hsame : (sendHalt s).sameRung = s.sameRung := rfl
  unfold retrain
  rcases h with h | h
  · rw [h, ← hsame]
  · rw [h, ← hsame]

theorem lineAction_retrainAgain (sender : Sender) (tag : Half) (ha : accepts sender s)
    (h : s.ls.link = .training ∨ s.ls.link = .retraining) : ∃ t, exec (.lineActionRetrain sender tag) s = .next t ∧
      ActionDone sender 7 tag [] s (sendTrain s.sameRung (sendHalt (arrived sender s))) t := by
  have hlink : (arrived sender s).ls.link = s.ls.link := by simp
  have hsame : (arrived sender s).sameRung = s.sameRung := sameRung_congr (by simp) (by simp)
  have hact : lineActionAct 3 0 (arrived sender s) = doneWith [] (sendTrain s.sameRung (sendHalt (arrived sender s))) := by
    rw [← hsame]
    show retrainAct (arrived sender s) = _
    rcases h with h | h
    · simp only [retrainAct, hlink, h, retrainAgain (.inl (hlink.trans h))]
    · simp only [retrainAct, hlink, h, retrainAgain (.inr (hlink.trans h))]
  obtain ⟨-, -, -, hcount, -⟩ := retrainAgain_facts s.sameRung (arrived sender s)
  exact exec_lineAction rfl ha (by decide) (by decide) hact (sendTrain_reports _ (sendHalt_reports (.refl _))) rfl
    (hcount.mono (by decide))

/-! ## START, and RETRAIN in WAITING (R28, R38) -/

theorem lineAction_start (sender : Sender) (tag : Half) (ha : accepts sender s) (h : s.ls.link = .stopped) : ∃ t,
    exec (.lineActionStart sender tag) s = .next t ∧ ActionDone sender 7 tag [] s (startLine (arrived sender s)) t := by
  have hlink : (arrived sender s).ls.link = .stopped := by simpa using h
  have hact : lineActionAct 1 0 (arrived sender s) = doneWith [] (startLine (arrived sender s)) := by
    show startAct (arrived sender s) = _
    simp only [startAct, hlink]
  obtain ⟨-, -, -, -, hcount, -⟩ := startLine_facts hlink
  exact exec_lineAction rfl ha (by decide) (by decide) hact (startLine_reports (.refl _)) (by simp) (hcount.mono (by decide))

theorem lineAction_newRound (sender : Sender) (tag : Half) (ha : accepts sender s) (h : s.ls.link = .waiting) {c : Instr}
    (hc : c = .lineActionStart sender tag ∨ c = .lineActionRetrain sender tag) : ∃ t,
    exec c s = .next t ∧ ActionDone sender 7 tag [] s (newRound (arrived sender s)) t := by
  have hlink : (arrived sender s).ls.link = .waiting := by simpa using h
  obtain ⟨-, -, -, -, hcount, -⟩ := newRound_facts hlink
  have hstart : lineActionAct 1 0 (arrived sender s) = doneWith [] (newRound (arrived sender s)) := by
    show startAct (arrived sender s) = _
    simp only [startAct, hlink]
  have hretrain : lineActionAct 3 0 (arrived sender s) = doneWith [] (newRound (arrived sender s)) := by
    show retrainAct (arrived sender s) = _
    simp only [retrainAct, retrain, hlink]
  rcases hc with rfl | rfl
  · exact exec_lineAction rfl ha (by decide) (by decide) hstart (newRound_reports (.refl _)) (by simp) (hcount.mono (by decide))
  · exact exec_lineAction rfl ha (by decide) (by decide) hretrain (newRound_reports (.refl _)) (by simp)
      (hcount.mono (by decide))

theorem startAct_refused (h : s.ls.link ≠ .stopped) (h' : s.ls.link ≠ .waiting) : startAct s = refuse .wrongState s := by
  unfold startAct
  cases e : s.ls.link with
  | stopped => exact absurd e h
  | waiting => exact absurd e h'
  | training | carrying | riding | retraining => rfl

/-! ## STEP_DOWN and STEP_UP (R44, R45) -/

theorem rungBelow_congr (h : t.ls.profile = s.ls.profile) (i : Fin 8) : t.rungBelow i = s.rungBelow i := by
  have hvalid : t.rungValid = s.rungValid := by funext j; simp only [State.rungValid, h]
  unfold State.rungBelow
  rw [hvalid]

theorem rungAbove_congr (h : t.ls.profile = s.ls.profile) (i : Fin 8) : t.rungAbove i = s.rungAbove i := by
  have hvalid : t.rungValid = s.rungValid := by funext j; simp only [State.rungValid, h]
  unfold State.rungAbove
  rw [hvalid]

theorem stepDownAct_done {i : Fin 8} (h : s.ls.link = .carrying) (hi : s.rungBelow s.ls.rung = some i) :
    stepDownAct s = doneWith [] (stepDownTo i s) := by
  unfold stepDownAct
  rw [hi]
  exact if_pos (beq_iff_eq.2 h)

theorem stepDownAct_refused (h : s.ls.link ≠ .carrying ∨ s.rungBelow s.ls.rung = none) :
    stepDownAct s = refuse .wrongState s := by
  unfold stepDownAct
  split
  · next i hi =>
    rcases h with h | h
    · exact if_neg (by simpa [State.carrying] using h)
    · rw [hi] at h
      cases h
  · rfl

theorem stepUpRung_iff (s : State) (i : Fin 8) :
    s.stepUpRung = some i ↔ s.rungAbove s.ls.rung = some i ∧ s.param .startRung ≤ i.val := by
  unfold State.stepUpRung
  cases s.rungAbove s.ls.rung with
  | none => simp
  | some j =>
    by_cases hj : s.param .startRung ≤ j.val
    · simp only [if_pos hj, Option.some.injEq]
      exact ⟨fun e => ⟨e, e ▸ hj⟩, And.left⟩
    · rw [Option.some.injEq]
      refine ⟨fun e => ?_, ?_⟩
      · simp only [if_neg hj] at e
        cases e
      · rintro ⟨rfl, hi⟩
        exact absurd hi hj

theorem stepUpAct_done {i : Fin 8} (h : s.ls.link = .carrying) (hu : s.inUse = false) (hi : s.stepUpRung = some i) :
    stepUpAct s = doneWith [] (stepUpTo i s) := by
  unfold stepUpAct
  rw [hi]
  exact if_pos ⟨beq_iff_eq.2 h, by simp [hu]⟩

theorem stepUpAct_refused (h : s.ls.link ≠ .carrying ∨ s.inUse = true ∨ s.stepUpRung = none) :
    stepUpAct s = refuse .wrongState s := by
  unfold stepUpAct
  split
  · next i hi =>
    refine if_neg fun hc => ?_
    obtain ⟨hcarry, hidle⟩ := hc
    rcases h with h | h | h
    · exact h (beq_iff_eq.1 hcarry)
    · rw [h] at hidle
      cases hidle
    · rw [hi] at h
      cases h
  · rfl

theorem arrived_inUse (sender : Sender) (s : State) : (arrived sender s).inUse = s.inUse :=
  inUse_congr fun n => call_congr (by simp) n

theorem lineAction_stepDown (sender : Sender) (tag : Half) (ha : accepts sender s) (h : s.ls.link = .carrying) {i : Fin 8}
    (hi : s.rungBelow s.ls.rung = some i) : ∃ t, exec (.lineActionStepDown sender tag) s = .next t ∧
      ActionDone sender 7 tag [] s (stepDownTo i (arrived sender s)) t := by
  have hls : (arrived sender s).ls = s.ls := by simp
  have hact : lineActionAct 4 0 (arrived sender s) = doneWith [] (stepDownTo i (arrived sender s)) :=
    stepDownAct_done (by rw [hls]; exact h) (by rw [rungBelow_congr (s := s) (by rw [hls]), hls]; exact hi)
  obtain ⟨hrep, -⟩ := stepDownTo_blocks i (arrived sender s)
  obtain ⟨-, -, -, -, hdu⟩ := stepDownTo_kept i (arrived sender s)
  exact exec_lineAction rfl ha (by decide) (by decide) hact hrep hdu ((stepDownTo_counted i _).2.mono (by decide))

theorem lineAction_stepUp (sender : Sender) (tag : Half) (ha : accepts sender s) (h : s.ls.link = .carrying)
    (hu : s.inUse = false) {i : Fin 8} (hi : s.rungAbove s.ls.rung = some i) (hp : s.param .startRung ≤ i.val) : ∃ t,
    exec (.lineActionStepUp sender tag) s = .next t ∧ ActionDone sender 7 tag [] s (stepUpTo i (arrived sender s)) t := by
  have hls : (arrived sender s).ls = s.ls := by simp
  have hact : lineActionAct 5 0 (arrived sender s) = doneWith [] (stepUpTo i (arrived sender s)) :=
    stepUpAct_done (by rw [hls]; exact h) (by rw [arrived_inUse]; exact hu)
      ((stepUpRung_iff _ i).2 ⟨by rw [rungAbove_congr (s := s) (by rw [hls]), hls]; exact hi, by simpa using hp⟩)
  exact exec_lineAction rfl ha (by decide) (by decide) hact (stepUpTo_reports i (.refl _)) (by simp)
    ((stepUpTo_counted i _).2.mono (by decide))

theorem lineCounts_notin (sender : Sender) : Ctr.trainingsStarted ∉ answerCounters sender .done ∧
    Ctr.stepDowns ∉ answerCounters sender .done ∧ Ctr.stepUps ∉ answerCounters sender .done := by
  unfold answerCounters
  cases senderAuthority sender <;> decide

/-- Settles O55: each action leaves the state of its own lemma above, and receipt and reply are added to it. -/
theorem lineActionsMoveTheLine : Obligations.LineActionsMoveTheLine := by
  intro sender tag s ha link train first same used refused sends left trainsAt
  have hls : (arrived sender s).ls = s.ls := by simp
  have hout : (arrived sender s).out = s.out := by simp
  have hbf : (arrived sender s).bf = s.bf := by simp
  have hlbu : (arrived sender s).lbu = s.lbu := by simp
  have hcc : (arrived sender s).cc = s.cc := by simp
  have hfu : (arrived sender s).fu = s.fu := by simp
  have hused : s.inUse = true ↔ used := inUse_iff s
  have hsame : s.sameRung = same := rfl
  obtain ⟨htrained, hdowns, hups⟩ := lineCounts_notin sender
  have hfirst : (arrived sender s).rungFrom (Fin.ofNat 8 ((arrived sender s).param .startRung)) = first := by
    rw [arrived_param]
    exact rungFrom_congr (by rw [hls]) _
  have hsends : ∀ {l : List XcvrMsg} {w t : State}, ActionDone sender 7 tag [] s w t →
      w.out = { (arrived sender s).out with xcvr := (arrived sender s).out.xcvr ++ l } → sends l t := fun hd ho =>
    ⟨by rw [hd.out, ho, hout], hd.du, hd.replied⟩
  refine ⟨fun h => ?_, fun h c hc => ?_, fun h h' => ?_, ?_, fun h => ?_, fun h => ?_, fun h => ?_, fun h i hi => ?_, fun h => ?_,
    fun h hu i hi hp => ?_, fun h => ?_⟩
  · obtain ⟨t, hx, hd⟩ := lineAction_start sender tag ha h
    obtain ⟨wls, wout, -, wcount, -, wch⟩ := startLine_facts (s := arrived sender s) (by rw [hls]; exact h)
    rw [hfirst, hls, arrived_param] at wls
    rw [hfirst, hls] at wout
    exact ⟨t, hx, hd.ls.trans wls, hsends hd wout, hd.counts _ _ htrained wcount, hd.blocks _ (by decide) (wch.mono (by decide))⟩
  · obtain ⟨t, hx, hd⟩ := lineAction_newRound sender tag ha h hc
    obtain ⟨wls, wout, -, wcount, -, wch⟩ := newRound_facts (s := arrived sender s) (by rw [hls]; exact h)
    rw [hfirst, hls, arrived_param] at wls
    rw [hfirst, hls] at wout
    exact ⟨t, hx, hd.ls.trans wls, hsends hd wout, hd.counts _ _ htrained wcount, hd.blocks _ (by decide) (wch.mono (by decide))⟩
  · exact exec_lineAction_refused rfl ha (by decide) (by decide)
      (startAct_refused (by rw [hls]; exact h) (by rw [hls]; exact h'))
  · obtain ⟨t, hx, hd⟩ := lineAction_stop sender tag ha
    obtain ⟨sls, sout, sbf, slbu, scc, -, -, srung, -, -, sch⟩ := stopped_facts (arrived sender s)
    have hcarry : (stopped (arrived sender s)).carrying = false := by simp [State.carrying, sls]
    obtain ⟨drec, -, dlbu⟩ := dropAll_lineDown hcarry
    have dcalls := dropAll_calls hcarry
    have dch := dropAll_changesOnly hcarry
    have dbf := dropAll_bf (s := stopped (arrived sender s))
    have dls : (dropAll (stopped (arrived sender s))).ls = (stopped (arrived sender s)).ls := by simp
    have dout : (dropAll (stopped (arrived sender s))).out = (stopped (arrived sender s)).out := by simp
    obtain ⟨eprobe, -, ech, ebf⟩ := endProbe_facts (dropAll (stopped (arrived sender s)))
    have eout : (endProbe (dropAll (stopped (arrived sender s)))).out = (dropAll (stopped (arrived sender s))).out := by simp
    obtain ⟨-, -, -, -, lls⟩ := leftIfCarrying_same (arrived sender s)
    have hw : ∀ n, t.call n = (dropAll (stopped (arrived sender s))).call n := fun n =>
      call_congr (hd.cc.trans (by rw [stopLine_eq]; simp)) n
    have hcall : ∀ n, (stopped (arrived sender s)).call n = s.call n := fun n => call_congr (scc.trans hcc) n
    have tls : t.ls = (stopped (arrived sender s)).ls := hd.ls.trans (by rw [stopLine_eq, ← dls]; simp)
    rw [stopLine_eq] at hd
    have tlbu : t.lbu = (leftIfCarrying (arrived sender s)).lbu := by
      rw [hd.lbu, ← slbu, ← dlbu]
      simp
    refine ⟨t, hx, ?_, fun hl => ?_, hsends hd ?_, fun n => ?_, fun n hn => ?_, ?_, ?_, ?_⟩
    · rw [tls, sls, lls, hls]
    · obtain ⟨kloop, -, klbu, kchan⟩ := leftIfCarrying_left (s := arrived sender s) (by rw [hls]; exact hl)
      have hseg : ∀ ch, (stopped (arrived sender s)).chan ch = { s.chan ch with seg := none, asm := none } := fun ch => by
        rw [chan_congr sbf, kchan, chan_congr hbf]
      refine ⟨by rw [tls, sls, kloop], by rw [tls, sls], by rw [tlbu, klbu, hlbu], fun ch => ?_⟩
      have hbf' := dbf fun ch => by rw [hseg]
      rw [chan_congr (hd.bf.trans ((ebf fun ch => by rw [chan_congr hbf', hseg]).trans hbf')), hseg]
    · rw [eout, dout, sout]
    · rw [hw]
      exact (dcalls n).1
    · rw [hw]
      exact (dcalls n).2.1 (by rwa [hcall])
    · rw [hd.fault, fault_congr (s := dropAll (stopped (arrived sender s))) (by simp), drec.kept (by decide)]
      exact srung
    · rw [hd.tr]
      exact eprobe
    · exact hd.blocks _ (by decide) (((sch.mono (by decide)).trans (dch.mono (by decide))).trans (ech.mono (by decide)))
  · obtain ⟨t, hx, hd⟩ := lineAction_retrainUp sender tag ha h
    obtain ⟨wls, wout, wbf, wlbu, wcc, wdu, -, -, wch⟩ := retrained_facts s.sameRung (arrived sender s)
    obtain ⟨-, -, -, -, lls⟩ := leftIfCarrying_same (arrived sender s)
    have tfault := retrained_fault s.sameRung (arrived sender s)
    have hleft := leftIfCarrying_left (s := arrived sender s)
    rw [hls, hsame] at wout
    have tls := hd.ls.trans (enterTraining_ls _)
    have huse : (retrained s.sameRung (arrived sender s)).inUse = s.inUse := inUse_congr fun n => call_congr (wcc.trans hcc) n
    have ttouched : changesOnly ([.framer, .supervisor, .budget, .calls, .media, .outputs] ++ reportBlocks) (arrived sender s)
        (enterTraining (retrained s.sameRung (arrived sender s))) :=
      (wch.mono (by decide)).trans (by simp [changesOnly_iff, reportBlocks])
    rw [huse, param_congr wdu, wls, lls, hls, arrived_param, arrived_param] at tls
    have tchan : t.bf = (leftIfCarrying (arrived sender s)).bf := (hd.bf.trans (by simp)).trans wbf
    have tlbu : t.lbu = (leftIfCarrying (arrived sender s)).lbu := (hd.lbu.trans (by simp)).trans wlbu
    have tout : (enterTraining (retrained s.sameRung (arrived sender s))).out = (retrained s.sameRung (arrived sender s)).out := by
      simp
    refine ⟨t, hx, ?_, ?_, fun hu => ?_, fun hu => ?_, fun hl => ?_, hsends hd (tout.trans wout), ?_,
      hd.blocks _ (by decide) (ttouched.mono (by decide))⟩
    · simp only [trainsAt]
      rw [tls]
      split <;> exact ⟨rfl, rfl, rfl, rfl, rfl, rfl⟩
    · rw [tls]
      split <;> rfl
    · rw [tls, if_pos (hused.2 hu)]
      exact ⟨rfl, rfl⟩
    · rw [tls, if_neg fun hi => hu (hused.1 hi)]
    · obtain ⟨kloop, ksilence, klbu, kchan⟩ := hleft (by rw [hls]; exact hl)
      refine ⟨?_, ?_, by rw [tlbu, klbu, hlbu], fun ch => by rw [chan_congr tchan, kchan, chan_congr hbf]⟩
      · rw [tls, ← kloop]
        split <;> rfl
      · rw [tls, ← ksilence]
        split <;> rfl
    · rw [hd.fault, (enterTraining_recordsOnly _).kept (by decide), tfault, fault_congr hfu, hfu, hsame]
  · obtain ⟨t, hx, hd⟩ := lineAction_retrainAgain sender tag ha h
    obtain ⟨wls, wout, -, -, wch⟩ := retrainAgain_facts s.sameRung (arrived sender s)
    rw [hls, arrived_param, hsame] at wls
    rw [hls, hsame] at wout
    exact ⟨t, hx, hd.ls.trans wls, hsends hd wout, hd.blocks _ (by decide) (wch.mono (by decide))⟩
  · refine exec_lineAction_refused rfl ha (by decide) (by decide) ?_
    show retrainAct (arrived sender s) = _
    unfold retrainAct
    rw [hls, show s.ls.link = .stopped from h]
  · obtain ⟨t, hx, hd⟩ := lineAction_stepDown sender tag ha h hi
    have wls := stepDownTo_ls i (arrived sender s)
    obtain ⟨wout, wchan, wlbu, -, -⟩ := stepDownTo_kept i (arrived sender s)
    obtain ⟨-, wfault, -, -⟩ := stepDownTo_records i (arrived sender s)
    obtain ⟨-, wch⟩ := stepDownTo_blocks i (arrived sender s)
    rw [arrived_inUse, hls, arrived_param, arrived_param] at wls
    rw [hls] at wout
    have tls := hd.ls.trans wls
    refine ⟨t, hx, by simp only [trainsAt]; rw [tls]; exact ⟨rfl, rfl, rfl, rfl, rfl, rfl⟩, ?_,
      ⟨by rw [tls], by rw [tls], ?_, fun ch => ?_⟩,
      hsends hd wout, ?_, hd.counts _ _ hdowns (stepDownTo_counted i _).1, hd.blocks _ (by decide) (wch.mono (by decide))⟩
    · rw [tls]
      exact if_congr hused rfl rfl
    · rw [hd.lbu, wlbu, hlbu]
    · rw [chan_congr hd.bf, wchan, chan_congr hbf]
    · rw [hd.fault, wfault, fault_congr hfu, hfu]
  · exact exec_lineAction_refused rfl ha (by decide) (by decide)
      (stepDownAct_refused (by rw [hls, rungBelow_congr (s := s) (by rw [hls])]; exact h))
  · obtain ⟨t, hx, hd⟩ := lineAction_stepUp sender tag ha h (Bool.eq_false_iff.2 fun hi => hu (hused.1 hi)) hi hp
    obtain ⟨wls, wout, wchan, wlbu⟩ := stepUpTo_facts i (arrived sender s)
    rw [hls, arrived_param] at wls
    rw [hls] at wout
    have tls := hd.ls.trans wls
    refine ⟨t, hx, by simp only [trainsAt]; rw [tls]; exact ⟨rfl, rfl, rfl, rfl, rfl, rfl⟩, by rw [tls],
      ⟨by rw [tls], by rw [tls], ?_, fun ch => ?_⟩,
      hsends hd wout, hd.counts _ _ hups (stepUpTo_counted i _).1,
      hd.blocks _ (by decide) ((stepUpTo_changesOnly i _).mono (by decide))⟩
    · rw [hd.lbu, wlbu, hlbu]
    · rw [chan_congr hd.bf, wchan, chan_congr hbf]
  · refine exec_lineAction_refused rfl ha (by decide) (by decide) (stepUpAct_refused ?_)
    rw [hls, arrived_inUse, hused]
    rcases h with h | h | h
    · exact .inl h
    · exact .inr (.inl h)
    · refine .inr (.inr (Option.eq_none_iff_forall_ne_some.2 fun i hi => ?_))
      obtain ⟨habove, hle⟩ := (stepUpRung_iff _ i).1 hi
      rw [rungAbove_congr (s := s) (by rw [hls]), hls] at habove
      rw [arrived_param] at hle
      exact absurd (h i habove) (Nat.not_lt.2 hle)

end Sys2Proof.Machine

/-! PROOFS. O56: line loopback. -/

namespace Sys2Proof.Machine

variable {s t u v w : State}

/-- A piece that is as it was is no part of the footprint. -/
theorem changesOnly.drop {b : Block} {bs : List Block} (h : changesOnly (b :: bs) s t) (hb : agree s t b) : changesOnly bs s t :=
  fun c hc => by
    by_cases e : c = b
    · rw [e]
      exact hb
    · exact h c (by simp [e, hc])

/-- The exchange's directive leaves the Directive Unit alone: it has no manager's address to note. -/
theorem ActionDone.exchange {code : Nat} {tag : Half} {body : Bytes} {bs : List Block}
    (h : ActionDone .exch code tag body s w t) (hb : [Block.queues, .counters] ⊆ bs)
    (hw : changesOnly (.directives :: bs) (arrived .exch s) w) : changesOnly bs s t :=
  (h.blocks _ (List.cons_subset_cons _ hb) hw).drop h.du

theorem loopChannelOf_chan (x : LoopChannel) {b : Byte} (h : b.toNat = x.chan.val) : loopChannelOf b = some x := by
  cases x with
  | three =>
    have hb : b = 3 := BitVec.eq_of_toNat_eq h
    rw [hb]
    rfl
  | fourteen =>
    have hb : b = 14 := BitVec.eq_of_toNat_eq h
    rw [hb]
    rfl

theorem loopChannelOf_none {b : Byte} (h3 : b ≠ 3) (h14 : b ≠ 14) : loopChannelOf b = none := by
  exact (if_neg h3).trans (if_neg h14)

theorem loopOnAct_refused {x : LoopChannel} {b : Byte} (hb : loopChannelOf b = some x)
    (h : s.ls.link ≠ .carrying ∨ ∃ l, s.ls.loopback = some l ∧ l.channel ≠ x) : loopOnAct b s = refuse .wrongState s := by
  by_cases hl : s.ls.link = .carrying
  · obtain ⟨l, hloop, hx⟩ := h.resolve_left (not_not_intro hl)
    simp [loopOnAct, hb, State.carrying, hl, hloop, hx]
  · simp [loopOnAct, hb, State.carrying, hl]

theorem loopOnAct_done {x : LoopChannel} {b : Byte} (hb : loopChannelOf b = some x) (h : s.ls.link = .carrying)
    (hx : ∀ l, s.ls.loopback = some l → l.channel = x) : loopOnAct b s = doneWith [] (startLoopback x s) := by
  cases hloop : s.ls.loopback with
  | none => simp [loopOnAct, hb, State.carrying, h, hloop]
  | some l => simp [loopOnAct, hb, State.carrying, h, hloop, hx l hloop]

/-- Loopback switched on or its limit started afresh: a partial frame and a frame in progress go only as it comes on. -/
theorem startLoopback_facts (x : LoopChannel) (s : State) :
    (startLoopback x s).ls = { s.ls with
      loopback := some { channel := x, limit := { limit := 1000 * s.param .loopbackLimit, elapsed := 0 } } } ∧
    (∀ c, (startLoopback x s).chan c =
      if c = x.chan ∧ s.ls.loopback = none then { s.chan c with seg := none, asm := none } else s.chan c) ∧
    (startLoopback x s).bf.loopStore = s.bf.loopStore ∧
    countedIf (s.ls.loopback = none) Ctr.loopbacksStarted 1 s (startLoopback x s) ∧
    recordsOnly [.reassemblyLoss] s (startLoopback x s) ∧ Reports s (startLoopback x s) ∧ (startLoopback x s).du = s.du ∧
    countsOnly (Ctr.loopbacksStarted :: Ctr.framesAbandoned :: reportCounters) s (startLoopback x s) ∧
    changesOnly ([.framer, .supervisor] ++ reportBlocks) s (startLoopback x s) := by
  cases hl : s.ls.loopback with
  | some l =>
    have he : startLoopback x s = onLs (fun l => { l with
        loopback := some { channel := x, limit := startSec (s.param .loopbackLimit) } }) s := by
      simp only [startLoopback, hl]
    rw [he]
    refine ⟨rfl, fun c => (if_neg (by simp)).symm, rfl, ⟨by simp, fun _ => rfl⟩, fun k _ => rfl, reports_onLs (.refl s), rfl,
      (countsOnly.refl _ s).congr rfl, by simp [changesOnly_iff, reportBlocks]⟩
  | none =>
    generalize hu : bump Ctr.loopbacksStarted (onLs (fun l => { l with
        loopback := some { channel := x, limit := startSec (s.param .loopbackLimit) } }) s) = u
    have he : startLoopback x s = dropSeg x.chan (abandon x.chan .superseded u) := by
      rw [← hu]
      simp only [startLoopback, hl]
    have huc : counted Ctr.loopbacksStarted 1 s u := by
      rw [← hu]
      exact counter_bump_same _ _
    have hur : Reports s u := by
      rw [← hu]
      exact reports_bump (reports_onLs (.refl s))
    have huo : countsOnly [Ctr.loopbacksStarted] s u := by
      rw [← hu]
      exact ((countsOnly.refl _ s).congr rfl).bump (by simp)
    obtain ⟨huls, hubf, hufu, hudu, huch⟩ : u.ls = { s.ls with
        loopback := some { channel := x, limit := { limit := 1000 * s.param .loopbackLimit, elapsed := 0 } } } ∧
        u.bf = s.bf ∧ u.fu = s.fu ∧ u.du = s.du ∧ changesOnly ([.framer, .supervisor] ++ reportBlocks) s u := by
      rw [← hu]
      exact ⟨rfl, rfl, rfl, rfl, by simp [changesOnly_iff, reportBlocks]⟩
    have hcounts : countsOnly (Ctr.framesAbandoned :: reportCounters) u (dropSeg x.chan (abandon x.chan .superseded u)) :=
      (abandon_countsOnly x.chan .superseded u).congr rfl
    rw [he]
    refine ⟨by simp [huls], fun c => ?_, ?_, ⟨fun _ => counted_then huc hcounts (by decide), fun h => absurd rfl h⟩, ?_,
      dropSeg_reports _ (abandon_reports _ _ hur), by simp [hudu], (huo.mono (by simp)).trans (hcounts.mono (by simp)),
      huch.trans (by simp [changesOnly_iff, reportBlocks])⟩
    · have hchan : (abandon x.chan .superseded u).chan c = if c = x.chan then { s.chan c with asm := none } else s.chan c := by
        rw [chan_abandon, chan_congr hubf]
      rw [dropSeg, chan_onChan]
      by_cases e : x.chan = c
      · subst e
        simp [hchan]
      · simp [hchan, e, Ne.symm e]
    · exact (loopStore_abandon x.chan .superseded u).trans (by rw [hubf])
    · exact fun k hk => (abandon_recordsOnly x.chan .superseded u k hk).trans (fault_congr hufu k)

theorem endLoopback_counted (s : State) :
    countedIf (s.ls.loopback ≠ none) Ctr.loopedDiscarded s.bf.loopStore.length s (endLoopback s) := by
  unfold endLoopback
  split
  · next l hl => exact ⟨fun _ => (counter_bumpBy _ _ _ _).trans (if_pos rfl), fun h => absurd (by simp [hl]) h⟩
  · next hl => exact ⟨fun h => absurd hl h, fun _ => rfl⟩

theorem loopbackExpires_facts (s : State) :
    (loopbackExpires s).ls = { s.ls with loopback := none } ∧
    (loopbackExpires s).bf = (if s.ls.loopback = none then s.bf else { s.bf with loopStore := [] }) ∧
    countedIf (s.ls.loopback ≠ none) Ctr.loopedDiscarded s.bf.loopStore.length s (loopbackExpires s) ∧
    countedIf (s.ls.loopback ≠ none) Ctr.loopbackLimitExpiries 1 s (loopbackExpires s) ∧
    countsOnly [Ctr.loopbackLimitExpiries, Ctr.loopedDiscarded] s (loopbackExpires s) := by
  cases hl : s.ls.loopback with
  | none =>
    have he : loopbackExpires s = s := if_neg (by simp [hl])
    rw [he]
    exact ⟨by rw [← hl], by simp, ⟨fun h => absurd rfl h, fun _ => rfl⟩, ⟨fun h => absurd rfl h, fun _ => rfl⟩, .refl _ s⟩
  | some l =>
    have he : loopbackExpires s = endLoopback (bump Ctr.loopbackLimitExpiries s) := if_pos (by simp [hl])
    have hbump : countsOnly [Ctr.loopbackLimitExpiries] s (bump Ctr.loopbackLimitExpiries s) :=
      (countsOnly.refl _ s).bump (by simp)
    obtain ⟨hdiscarded, -⟩ := endLoopback_counted (bump Ctr.loopbackLimitExpiries s)
    have honly := endLoopback_countsOnly (bump Ctr.loopbackLimitExpiries s)
    rw [he, endLoopback_ls, endLoopback_bf]
    refine ⟨rfl, by simp [hl], ⟨fun _ => ?_, fun h => absurd (by simp) h⟩, ⟨fun _ => ?_, fun h => absurd (by simp) h⟩, ?_⟩
    · exact counted_after hbump (by decide) (hdiscarded (by simp [hl]))
    · exact counted_then (counter_bump_same _ _) honly (by decide)
    · exact (hbump.mono (by simp)).trans (honly.mono (by simp))

/-- Settles O56: LOOP_ON by its checks in order, and loopback's two ends. -/
theorem loopbackStartsAndEnds : Obligations.LoopbackStartsAndEnds := by
  intro tag s limit ended
  have hls : (arrived .exch s).ls = s.ls := by simp
  have hbf : (arrived .exch s).bf = s.bf := by simp
  have hfu : (arrived .exch s).fu = s.fu := by simp
  refine ⟨fun ha => ⟨fun b h3 h14 => ?_, fun b x hb => ⟨fun h => ?_, fun h hx => ?_⟩, ?_⟩, ?_⟩
  · refine exec_onlyAnswered (r := .lineAction 6 b) rfl ha rfl rfl (by simp) ?_
    show loopOnAct b (arrived .exch s) = _
    rw [loopOnAct, loopChannelOf_none h3 h14]
    rfl
  · exact exec_onlyAnswered (r := .lineAction 6 b) rfl ha rfl rfl (by simp)
      (loopOnAct_refused (loopChannelOf_chan x hb) (by rw [hls]; exact h))
  · obtain ⟨wls, wchan, wstore, wcount, wrec, wrep, wdu, wonly, wch⟩ := startLoopback_facts x (arrived .exch s)
    obtain ⟨t, hx, hd⟩ := exec_actionDone (c := .loopOn .exch tag b) (r := .lineAction 6 b) rfl ha rfl rfl (by simp)
      (loopOnAct_done (loopChannelOf_chan x hb) (by rw [hls]; exact h) (by rw [hls]; exact hx))
      wrep wdu wonly (fun a => by cases a <;> decide) (by decide)
    rw [hls] at wls wchan wcount
    refine ⟨t, hx, hd.ls.trans wls, fun c => ?_, ?_, hd.countsIf _ _ _ (by decide) wcount, fun k hk => ?_, hd.replied,
      hd.exchange (by decide) (wch.mono (List.subset_cons_self _ _))⟩
    · rw [chan_congr hd.bf, wchan, chan_congr hbf]
    · rw [hd.bf, wstore, hbf]
    · rw [hd.fault, wrec k hk, fault_congr hfu]
  · have wcount := endLoopback_counted (arrived .exch s)
    have wonly := endLoopback_countsOnly (arrived .exch s)
    obtain ⟨t, hx, hd⟩ := exec_actionDone (c := .loopOff .exch tag) (r := .lineAction 7 0) (body := [])
      (w := endLoopback (arrived .exch s)) rfl ha rfl rfl
      (by simp) rfl (endLoopback_reports (.refl _)) (by simp) wonly (fun a => by cases a <;> decide) (by decide)
    rw [hls, hbf] at wcount
    refine ⟨t, hx, ⟨?_, ?_, hd.countsIf _ _ _ (by decide) wcount⟩, hd.replied,
      hd.exchange (by decide) (by simp [changesOnly_iff]), hd.countsWithin _ wonly⟩
    · rw [hd.ls, endLoopback_ls, hls]
    · rw [hd.bf, endLoopback_bf, hls, hbf]
  · obtain ⟨els, ebf, ecount, ecount', eonly⟩ := loopbackExpires_facts s
    exact ⟨loopbackExpires s, rfl, ⟨els, ebf, ecount⟩, ecount', by simp [changesOnly_iff], eonly⟩

end Sys2Proof.Machine

/-! PROOFS. The Phone Port Unit's moves: what each does to its own port and that it leaves the other port, the pairing and the
cadences alone. -/

namespace Sys2Proof.Machine

variable {s t u : State} {p : Port}

/-! ## What an act on one port leaves alone -/

/-- Of the Phone Port Unit nothing but port `p` has changed. -/
structure onlyPort (p : Port) (s t : State) : Prop where
  other : t.port p.other = s.port p.other
  pair : t.ppu.pair = s.ppu.pair
  cadences : t.ppu.cadences = s.ppu.cadences

theorem onlyPort.of_eq (h : t.ppu = s.ppu) : onlyPort p s t :=
  ⟨port_congr h _, by rw [h], by rw [h]⟩

theorem onlyPort.refl (p : Port) (s : State) : onlyPort p s s := .of_eq rfl

theorem onlyPort.trans (h : onlyPort p s t) (k : onlyPort p t u) : onlyPort p s u :=
  ⟨k.other.trans h.other, k.pair.trans h.pair, k.cadences.trans h.cadences⟩

theorem onlyPort.congr (h : onlyPort p s t) (hu : u.ppu = t.ppu) : onlyPort p s u := h.trans (.of_eq hu)

theorem onPort_onlyPort (p : Port) (f : PortUnit → PortUnit) (s : State) : onlyPort p s (onPort p f s) :=
  ⟨by cases p <;> rfl, rfl, rfl⟩

theorem whenever_onlyPort {b : Bool} {f : State → State} (h : onlyPort p s t) (hf : ∀ v, onlyPort p v (f v)) :
    onlyPort p s (whenever b f t) := by
  cases b
  · exact h
  · exact h.trans (hf t)

/-! ## Entering a state -/

theorem enterPort_eq (p : Port) (new : PortState) (s : State) : enterPort p new s =
    whenever ((new == .inCall || new == .testing) && (s.port p).state != new)
      (onMediaPort p fun m => { m with dcIn := 0, dcOut := 0 }) (onPort p (fun u => { u with state := new }) s) := rfl

theorem enterPort_ppu (p : Port) (new : PortState) (s : State) :
    (enterPort p new s).ppu = (onPort p (fun u => { u with state := new }) s).ppu := by
  rw [enterPort_eq]
  unfold whenever
  split <;> rfl

theorem port_enterPort (p : Port) (new : PortState) (s : State) :
    (enterPort p new s).port p = { s.port p with state := new } :=
  (port_congr (enterPort_ppu p new s) p).trans (port_onPort_same s p _)

theorem enterPort_onlyPort (p : Port) (new : PortState) (s : State) : onlyPort p s (enterPort p new s) :=
  (onPort_onlyPort p _ s).congr (enterPort_ppu p new s)

/-- A state other than IN_CALL and TESTING leaves the media alone. -/
theorem mdu_enterPort {new : PortState} (h : new ≠ .inCall) (h' : new ≠ .testing) : (enterPort p new s).mdu = s.mdu := by
  rw [enterPort_eq, beq_false_of_ne h, beq_false_of_ne h']
  rfl

/-- IN_CALL or TESTING entered from another state clears the DC block (R126). -/
theorem mediaPort_enterPort {new : PortState} (h : new = .inCall ∨ new = .testing) (hs : (s.port p).state ≠ new) :
    (enterPort p new s).mediaPort p = { s.mediaPort p with dcIn := 0, dcOut := 0 } := by
  have hnew : (new == .inCall || new == .testing) = true := by simpa using h
  have hclears : ((new == .inCall || new == .testing) && (s.port p).state != new) = true := by
    rw [hnew, Bool.true_and]
    exact bne_iff_ne.2 hs
  rw [enterPort_eq, hclears]
  cases p <;> rfl

theorem enterPort_media (p : Port) (new : PortState) (s : State) (n : Slot) : (enterPort p new s).media n = s.media n := by
  rw [enterPort_eq]
  unfold whenever
  split <;> rfl

/-! ## Channels, tones and the park count -/

theorem quieten_onlyPort (p : Port) (s : State) : onlyPort p s (quieten p s) := onPort_onlyPort p _ s

theorem port_quieten (p : Port) (s : State) :
    (quieten p s).port p = { s.port p with chan := none, tone := none, park := none, trip := 0 } := port_onPort_same s p _

theorem stopChannel_onlyPort (p : Port) (s : State) : onlyPort p s (stopChannel p s) := onPort_onlyPort p _ s

theorem port_stopChannel (p : Port) (s : State) :
    (stopChannel p s).port p = { s.port p with chan := none, trip := 0 } := port_onPort_same s p _

theorem loadChannel_onlyPort (p : Port) (c : CadenceChannel) (s : State) : onlyPort p s (loadChannel p c s) :=
  onPort_onlyPort p _ s

theorem port_loadChannel (p : Port) (c : CadenceChannel) (s : State) : (loadChannel p c s).port p =
    if (c.isRing && c.on) = true then { s.port p with chan := some c, differ := 0, trip := 0 }
    else { s.port p with chan := some c, trip := 0 } := port_onPort_same s p _

theorem startRing_onlyPort (p : Port) (cad : Fin 8) (s : State) : onlyPort p s (startRing p cad s) := by
  unfold startRing
  split
  · exact loadChannel_onlyPort p _ s
  · exact stopChannel_onlyPort p s

theorem toneSegment_ppu (p : Port) (k : ToneKind) (on : Bool) (s : State) : (toneSegment p k on s).ppu =
    (loadChannel p { mode := .tone k, pos := if on then 1 else 2, on := on, endAt := k.times, count := 0 } s).ppu := by
  cases on <;> rfl

theorem toneSegment_onlyPort (p : Port) (k : ToneKind) (on : Bool) (s : State) : onlyPort p s (toneSegment p k on s) :=
  (loadChannel_onlyPort p _ s).congr (toneSegment_ppu p k on s)

theorem port_toneSegment (p : Port) (k : ToneKind) (on : Bool) (s : State) : (toneSegment p k on s).port p =
    { s.port p with
      chan := some { mode := .tone k, pos := if on then 1 else 2, on := on, endAt := k.times, count := 0 }, trip := 0 } :=
  (port_congr (toneSegment_ppu p k on s) p).trans (port_loadChannel p _ s)

/-- The tone phase is set to 0 as a segment comes on (R139). -/
theorem mediaPort_toneSegment (p : Port) (k : ToneKind) (on : Bool) (s : State) : (toneSegment p k on s).mediaPort p =
    { s.mediaPort p with phase := if on then 0 else (s.mediaPort p).phase } := by
  cases on
  · rfl
  · cases p <;> rfl

theorem mediaPort_toneSegment_other (p : Port) (k : ToneKind) (on : Bool) (s : State) :
    (toneSegment p k on s).mediaPort p.other = s.mediaPort p.other := by
  cases on <;> cases p <;> rfl

theorem toneSegment_media (p : Port) (k : ToneKind) (on : Bool) (s : State) (n : Slot) :
    (toneSegment p k on s).media n = s.media n := by
  cases on <;> rfl

theorem startTone_onlyPort (p : Port) (k : ToneKind) (s : State) : onlyPort p s (startTone p k s) :=
  (onPort_onlyPort p _ s).trans (toneSegment_onlyPort p k true _)

theorem port_startTone (p : Port) (k : ToneKind) (s : State) : (startTone p k s).port p =
    { s.port p with
      tone := some k, chan := some { mode := .tone k, pos := 1, on := true, endAt := k.times, count := 0 }, trip := 0 } := by
  unfold startTone
  rw [port_toneSegment, port_onPort_same]
  rfl

theorem mediaPort_startTone (p : Port) (k : ToneKind) (s : State) :
    (startTone p k s).mediaPort p = { s.mediaPort p with phase := 0 } := mediaPort_toneSegment p k true _

theorem startPark_onlyPort (p : Port) (s : State) : onlyPort p s (startPark p s) := onPort_onlyPort p _ s

theorem port_startPark (p : Port) (s : State) : (startPark p s).port p =
    { s.port p with park := some { limit := 1000 * s.param .parkTime, elapsed := 0 } } := port_onPort_same s p _

/-! ## The states a call leaves a port in -/

/-- A port with a tone for the release or the refusal of a call, its park count started. -/
def PortUnit.toned (u : PortUnit) (new : PortState) (k : ToneKind) (parkTime : Nat) : PortUnit :=
  { u with state := new, tone := some k, trip := 0, park := some { limit := 1000 * parkTime, elapsed := 0 },
           chan := some { mode := .tone k, pos := 1, on := true, endAt := k.times, count := 0 } }

theorem port_toned (p : Port) (new : PortState) (k : ToneKind) (s : State) :
    (startPark p (startTone p k (enterPort p new s))).port p = (s.port p).toned new k (s.param .parkTime) := by
  rw [port_startPark, port_startTone, port_enterPort, param_congr (s := s) (by simp)]
  rfl

theorem toReleased_onlyPort (p : Port) (s : State) : onlyPort p s (toReleased p s) :=
  ((enterPort_onlyPort p _ s).trans (startTone_onlyPort p _ _)).trans (startPark_onlyPort p _)

theorem port_toReleased (p : Port) (s : State) :
    (toReleased p s).port p = (s.port p).toned .released .release (s.param .parkTime) := port_toned p _ _ s

theorem toLocalTone_onlyPort (p : Port) (k : ToneKind) (s : State) : onlyPort p s (toLocalTone p k s) :=
  ((enterPort_onlyPort p _ s).trans (startTone_onlyPort p _ _)).trans (startPark_onlyPort p _)

theorem port_toLocalTone (p : Port) (k : ToneKind) (s : State) :
    (toLocalTone p k s).port p = (s.port p).toned .localTone k (s.param .parkTime) := port_toned p _ _ s

/-- A port silent, in a state of its own choosing. -/
def PortUnit.silent (u : PortUnit) (new : PortState) : PortUnit :=
  { u with state := new, chan := none, tone := none, park := none, trip := 0 }

theorem toIdle_onlyPort (p : Port) (s : State) : onlyPort p s (toIdle p s) :=
  (quieten_onlyPort p s).trans (enterPort_onlyPort p _ _)

theorem port_toIdle (p : Port) (s : State) : (toIdle p s).port p = (s.port p).silent .idle := by
  unfold toIdle
  rw [port_enterPort, port_quieten]
  rfl

theorem mdu_toIdle (p : Port) (s : State) : (toIdle p s).mdu = s.mdu := mdu_enterPort (by decide) (by decide)

theorem toDisabled_onlyPort (p : Port) (s : State) : onlyPort p s (toDisabled p s) :=
  ((quieten_onlyPort p s).trans (onPort_onlyPort p _ _)).trans (enterPort_onlyPort p _ _)

theorem port_toDisabled (p : Port) (s : State) : (toDisabled p s).port p =
    { (s.port p).silent .disabled with compare := none, pulses := 0 } := by
  unfold toDisabled
  rw [port_enterPort, port_onPort_same, port_quieten]
  rfl

theorem mdu_toDisabled (p : Port) (s : State) : (toDisabled p s).mdu = s.mdu := mdu_enterPort (by decide) (by decide)

/-- A port parked: silent, and the condition reported when no other port was PARKED (R109, R110). -/
theorem toParked_eq (p : Port) (s : State) : toParked p s =
    whenever (!s.isParked p.other) (occurrence .portParked p.code)
      (bump (Ctr.parks p) (enterPort p .parked (quieten p s))) := rfl

/-- Whether ports are rung in turn or as a group matters only for a port that stops ringing. -/
theorem unpair_apart (h : s.ppu.pair = .apart) (p : Port) : unpair p s = s := by
  simp only [unpair, h]

theorem Port.other_other (p : Port) : p.other.other = p := by cases p <;> rfl

theorem Port.ne_other (p : Port) : p ≠ p.other := by cases p <;> decide

theorem Port.eq_or_eq_other (p q : Port) : q = p ∨ q = p.other := by cases p <;> cases q <;> decide

end Sys2Proof.Machine

/-! PROOFS. The Call Controller's moves: signals, a slot freed, ports attached and detached, and the counters of each. -/

namespace Sys2Proof.Machine

variable {s t u : State} {p : Port} {n : Slot}

/-! ## Counters -/

/-- The counters that a call's moves can touch: an off-hook of either port taken, a slot freed, the line told. -/
def moveCounters : List Counter :=
  [Ctr.offHooks .a, Ctr.offHooks .b, Ctr.callsJoined, Ctr.callsOriginated, Ctr.originationsRefused, Ctr.admissionsGranted,
   Ctr.admissionsRefused, Ctr.signalsLost, Ctr.stepUps] ++ stepCounters

theorem offHooks_mem_moveCounters (p : Port) : Ctr.offHooks p ∈ moveCounters := by cases p <;> decide

theorem queueSignal_countsOnly (n : Slot) (g : Signal) (s : State) : countsOnly [Ctr.signalsLost] s (queueSignal n g s) := by
  unfold queueSignal
  split
  · exact (countsOnly.refl _ s).congr rfl
  · exact (countsOnly.refl _ s).bump (by simp)

/-- A signal put at the back of a queue with room for it. -/
def signalled (n : Slot) (g : Signal) (s : State) : State := onCall n (fun c => { c with signals := c.signals ++ [g] }) s

theorem queueSignal_room (h : (s.call n).signals.length < 8) (g : Signal) : queueSignal n g s = signalled n g s := if_pos h

theorem call_signalled (n : Slot) (g : Signal) (s : State) :
    (signalled n g s).call n = { s.call n with signals := (s.call n).signals ++ [g] } := call_onCall_same s n _

theorem slot_ne_other (n : Slot) : n ≠ n.other := by cases n <;> decide

theorem call_onCall_other (n : Slot) (f : CallSlot → CallSlot) (s : State) : (onCall n f s).call n.other = s.call n.other :=
  (call_onCall s n n.other f).trans (if_neg (slot_ne_other n))

theorem lastSlotFree_countsOnly (s : State) : countsOnly (Ctr.stepUps :: stepCounters) s (lastSlotFree s) := by
  unfold lastSlotFree
  split
  · exact ((countsOnly.refl _ s).congr rfl).trans ((enterLink_countsOnly _ _).mono (by decide))
  · split
    · split
      · exact (stepUpTo_counted _ s).2
      · exact (countsOnly.refl _ s).congr rfl
    · exact .refl _ s
  all_goals exact .refl _ s

theorem reportIfIdle_used (h : s.inUse = true) : reportIfIdle s = s := if_pos h

theorem reportIfIdle_countsOnly (s : State) : countsOnly (Ctr.stepUps :: stepCounters) s (reportIfIdle s) := by
  unfold reportIfIdle
  split
  · exact .refl _ s
  · exact lastSlotFree_countsOnly s

/-! ## A slot freed (R147) -/

/-- The effective data floor and the one that waits, once v has decreased (R59). -/
theorem floorCheck_lbu (s : State) : (floorCheck s).lbu = s.lbu.pendingFloor.elim s.lbu fun d =>
    if s.carrying = true ∧ s.boundHolds d = true then { s.lbu with floor := d, pendingFloor := none } else s.lbu := by
  unfold floorCheck
  cases s.lbu.pendingFloor with
  | none => rfl
  | some d =>
    simp only [Bool.and_eq_true, Option.elim_some]
    split <;> rfl

theorem call_freeSlot (n m : Slot) (cause : Cause) (s : State) : (freeSlot n cause s).call m =
    if n = m then (s.call n).freed cause s.ls.link.isHold else s.call m := by
  have hcc : (freeSlot n cause s).cc = (onCall n (fun c => c.freed cause s.ls.link.isHold) s).cc := by simp [freeSlot]
  rw [call_congr hcc, call_onCall]

theorem media_freeSlot (n m : Slot) (cause : Cause) (s : State) : (freeSlot n cause s).media m =
    if n = m then (s.media n).change .off else s.media m := by
  have hmdu : (freeSlot n cause s).mdu = (followCall n (onCall n (fun c => c.freed cause s.ls.link.isHold) s)).mdu := by
    simp [freeSlot]
  rw [media_congr hmdu, followCall_media, call_onCall_same]
  rfl

theorem freeSlot_countsOnly (n : Slot) (cause : Cause) (s : State) : countsOnly [Ctr.staleVoice] s (freeSlot n cause s) := by
  have hfreed : countsOnly [Ctr.staleVoice] s (onCall n (fun c => c.freed cause s.ls.link.isHold) s) :=
    (countsOnly.refl _ s).congr rfl
  exact (hfreed.trans (followCall_countsOnly n _)).congr (by simp [freeSlot])

theorem boundHolds_congr (hc : t.cc = s.cc) (hl : t.lbu = s.lbu) (d : Nat) : t.boundHolds d = s.boundHolds d := by
  have hr : t.reserved = s.reserved := by simp only [State.reserved, State.nonFree, call_congr hc]
  rw [Bool.eq_iff_iff, boundHolds_eq, boundHolds_eq, hr, hl]

theorem floorCheck_lbu_congr (hc : t.cc = s.cc) (hl : t.lbu = s.lbu) (hk : t.ls.link = s.ls.link) :
    (floorCheck t).lbu = (floorCheck s).lbu := by
  have hcarry : t.carrying = s.carrying := by rw [State.carrying, State.carrying, hk]
  unfold floorCheck
  rw [hl]
  cases s.lbu.pendingFloor with
  | none => exact hl
  | some d =>
    dsimp only
    rw [hcarry, boundHolds_congr hc hl]
    split
    · show ({ t.lbu with floor := d, pendingFloor := none } : Budget) = { s.lbu with floor := d, pendingFloor := none }
      rw [hl]
    · exact hl

theorem lbu_freeSlot (n : Slot) (cause : Cause) (s : State) : (freeSlot n cause s).lbu =
    (floorCheck (onCall n (fun c => c.freed cause s.ls.link.isHold) s)).lbu :=
  floorCheck_lbu_congr (by simp) (by simp) (by simp)

/-! ## Ports attached and detached (R151, R152, R159) -/

theorem detach_left {n : Slot} (hn : s.slotOf p = some n) (hl : ((s.call n).attached.put p false).isEmpty = false) :
    detach p s = onCall n (fun c => { c with attached := (s.call n).attached.put p false }) s := by
  simp only [detach, hn, hl]
  rfl

theorem detach_last {n : Slot} (hn : s.slotOf p = some n) (hl : ((s.call n).attached.put p false).isEmpty = true) :
    detach p s = reportIfIdle (queueSignal n (.clear .normal) (freeSlot n .normal
      (onCall n (fun c => { c with attached := (s.call n).attached.put p false }) s))) := by
  simp only [detach, hn, hl]
  rfl

theorem freedThenTold_countsOnly (n : Slot) (cause : Cause) (g : Signal) (s : State) :
    countsOnly moveCounters s (reportIfIdle (queueSignal n g (freeSlot n cause s))) :=
  (((freeSlot_countsOnly n cause s).mono (by decide)).trans ((queueSignal_countsOnly n g _).mono (by decide))).trans
    ((reportIfIdle_countsOnly _).mono (by decide))

theorem detach_countsOnly (p : Port) (s : State) : countsOnly moveCounters s (detach p s) := by
  cases hn : s.slotOf p with
  | none =>
    have he : detach p s = s := by simp only [detach, hn]
    rw [he]
    exact .refl _ s
  | some n =>
    have hleft : countsOnly moveCounters s (onCall n (fun c => { c with attached := (s.call n).attached.put p false }) s) :=
      (countsOnly.refl _ s).congr rfl
    cases hl : ((s.call n).attached.put p false).isEmpty with
    | false => rw [detach_left hn hl]; exact hleft
    | true => rw [detach_last hn hl]; exact hleft.trans (freedThenTold_countsOnly n _ _ _)

theorem leaveRingSet_countsOnly (p : Port) (cause : Cause) (s : State) : countsOnly moveCounters s (leaveRingSet p cause s) := by
  cases hn : s.ringSlotOf p with
  | none =>
    have he : leaveRingSet p cause s = s := by simp only [leaveRingSet, hn]
    rw [he]
    exact .refl _ s
  | some n =>
    have hleft : countsOnly moveCounters s (onCall n (fun c => { c with ringSet := (s.call n).ringSet.put p false }) s) :=
      (countsOnly.refl _ s).congr rfl
    simp only [leaveRingSet, hn]
    split
    · exact hleft.trans (freedThenTold_countsOnly n _ _ _)
    · exact hleft

theorem originate_countsOnly (p : Port) (n : Slot) (s : State) : countsOnly moveCounters s (originate p n s) := by
  have hoccupy : countsOnly moveCounters s (attach p n (occupy n .originating .out s)) :=
    ((countsOnly.refl _ s).bump (c := Ctr.admissionsGranted) (by decide)).congr (by simp [attach, occupy, countAdmission])
  exact ((hoccupy.trans ((queueSignal_countsOnly n _ _).mono (by decide))).bump (by decide)).trans
    ((followCall_countsOnly n _).mono (by decide))

theorem refuseOff_countsOnly (p : Port) (s : State) : countsOnly moveCounters s (refuseOff p s) := by
  have htone : countsOnly moveCounters s (toLocalTone p .refusal (countAdmission false s)) :=
    ((countsOnly.refl _ s).bump (c := Ctr.admissionsRefused) (by decide)).congr (by simp [countAdmission])
  exact (htone.bump (by decide)).trans ((occurrence_countsOnly _ _ _).mono (by decide))

theorem offHook_countsOnly (p : Port) (s : State) : countsOnly moveCounters s (offHook p s) := by
  have hcount : countsOnly moveCounters s (bump (Ctr.offHooks p) s) := (countsOnly.refl _ s).bump (offHooks_mem_moveCounters p)
  unfold offHook
  dsimp only
  split
  · exact (hcount.congr (by simp [attach])).bump (by decide)
  · split
    · split
      · split
        · exact hcount.trans (originate_countsOnly p _ _)
        · exact hcount.trans (refuseOff_countsOnly p _)
      · exact hcount.trans (refuseOff_countsOnly p _)
    · exact hcount.congr (by simp)

theorem takeIfLifted_countsOnly (p : Port) (s : State) : countsOnly moveCounters s (takeIfLifted p s) := by
  unfold takeIfLifted
  split
  · exact offHook_countsOnly p s
  · exact .refl _ s

theorem takeIfLifted_down (h : (s.port p).closed = false) : takeIfLifted p s = s := if_neg (by simp [h])

theorem takeIfLifted_lifted (h : (s.port p).state = .idle) (h' : (s.port p).closed = true) : takeIfLifted p s = offHook p s :=
  if_pos ⟨h, h'⟩

/-- A handset lifted leaves its port in a call or with a tone (R104). -/
theorem offHook_state (p : Port) (s : State) :
    ((offHook p s).port p).state = .inCall ∨ ((offHook p s).port p).state = .localTone := by
  have hattach : ∀ (n : Slot) (v : State), ((attach p n v).port p).state = .inCall := fun n v => by
    unfold attach
    rw [port_enterPort]
  unfold offHook
  dsimp only
  split
  · exact .inl (hattach _ _)
  · split
    · split
      · split
        · next n hn hadm =>
            refine .inl ?_
            rw [port_congr (s := attach p n (occupy n .originating .out (bump (Ctr.offHooks p) s))) (by simp [originate])]
            exact hattach n _
        · refine .inr ?_
          rw [port_congr (s := toLocalTone p .refusal (countAdmission false (bump (Ctr.offHooks p) s)))
            (by simp [refuseOff]), port_toLocalTone]
          rfl
      · refine .inr ?_
        rw [port_congr (s := toLocalTone p .refusal (countAdmission false (bump (Ctr.offHooks p) s)))
          (by simp [refuseOff]), port_toLocalTone]
        rfl
    · exact .inr (by rw [port_toLocalTone]; rfl)

end Sys2Proof.Machine

/-! PROOFS. O57: the port actions. First what starting a ring cadence finds; then the tests, the releases, DISABLE and ENABLE. -/

namespace Sys2Proof.Machine

variable {s t u : State} {p : Port}

/-! ## Cadences (R114, R116) -/

theorem cadence_isEmpty_iff (c : Cadence) : c.isEmpty = true ↔ ∀ i, vget c.durations i = 0 := by
  unfold Cadence.isEmpty
  rw [List.all_eq_true]
  constructor
  · intro h i
    exact beq_iff_eq.1 (h _ (by simp [vget]))
  · intro h x hx
    obtain ⟨i, hi, rfl⟩ := Vector.mem_iff_getElem.1 (Vector.mem_toList_iff.1 hx)
    exact beq_iff_eq.2 (h ⟨i, hi⟩)

/-- A cadence number names a cadence that can ring: 0 to 7, with a duration that is not 0. -/
theorem cadenceOf_some {number : Nat} (h : number < 8)
    (hne : ¬ ∀ i, vget (vget s.ppu.cadences (Fin.ofNat 8 number)).durations i = 0) :
    s.cadenceOf number = some (Fin.ofNat 8 number) := by
  have hfin : (⟨number, h⟩ : Fin 8) = Fin.ofNat 8 number := Fin.ext (Nat.mod_eq_of_lt h).symm
  unfold State.cadenceOf
  rw [dif_pos h, hfin, if_neg fun he => hne ((cadence_isEmpty_iff _).1 he)]

theorem cadenceOf_none {number : Nat}
    (h : 8 ≤ number ∨ ∀ i, vget (vget s.ppu.cadences (Fin.ofNat 8 number)).durations i = 0) : s.cadenceOf number = none := by
  unfold State.cadenceOf
  by_cases hlt : number < 8
  · have hfin : (⟨number, hlt⟩ : Fin 8) = Fin.ofNat 8 number := Fin.ext (Nat.mod_eq_of_lt hlt).symm
    rw [dif_pos hlt, hfin, if_pos ((cadence_isEmpty_iff _).2 (h.resolve_left (by omega)))]
  · rw [dif_neg hlt]

/-- The search for the next segment finds one that lies ahead in the cycle. -/
theorem seek_isSome (cad : Fin 8) (restarted : Bool) (i : Fin 8) (hi : s.segment cad (i.val + 1) ≠ 0) :
    ∀ n pos, pos ≤ i.val → i.val < pos + n → (s.seek cad n pos restarted).isSome = true := by
  intro n
  induction n with
  | zero => intro pos h1 h2; omega
  | succ n ih =>
    intro pos h1 h2
    unfold State.seek
    rw [if_neg (by omega)]
    by_cases hseg : s.segment cad (pos + 1) = 0
    · have hpos : pos ≠ i.val := fun e => hi (e ▸ hseg)
      rw [if_neg (not_not_intro hseg)]
      exact ih (pos + 1) (by omega) (by omega)
    · rw [if_pos hseg]
      rfl

theorem segment_succ (cad i : Fin 8) : s.segment cad (i.val + 1) = vget (vget s.ppu.cadences cad).durations i := by
  unfold State.segment
  congr 1
  exact Fin.ext (Nat.mod_eq_of_lt i.isLt)

/-- A cadence that can ring puts the port's channel in a segment; the trip count is 0 (R98, R116). -/
theorem port_startRing {cad : Fin 8} (h : ¬ ∀ i, vget (vget s.ppu.cadences cad).durations i = 0) (p : Port) :
    ((startRing p cad s).port p).chan ≠ none ∧ (startRing p cad s).port p =
      { s.port p with chan := ((startRing p cad s).port p).chan, differ := ((startRing p cad s).port p).differ, trip := 0 } := by
  obtain ⟨i, hi⟩ := not_forall.1 h
  obtain ⟨⟨pos, r⟩, hfound⟩ := Option.isSome_iff_exists.1
    (seek_isSome (s := s) cad false i (by rwa [segment_succ]) 8 0 (Nat.zero_le _) (by omega))
  have he : startRing p cad s = loadChannel p (s.ringAt cad pos) s := by simp only [startRing, hfound]
  rw [he, port_loadChannel]
  split
  · exact ⟨by simp, rfl⟩
  · exact ⟨by simp, rfl⟩

/-! ## A port action done or refused -/

theorem portOf_code {port : Byte} (h : port.toNat = if p = .a then 1 else 2) : portOf port = some p := by
  cases p with
  | a =>
    have hb : port = 1 := BitVec.eq_of_toNat_eq h
    rw [hb]
    rfl
  | b =>
    have hb : port = 2 := BitVec.eq_of_toNat_eq h
    rw [hb]
    rfl

theorem portOf_none {port : Byte} (h1 : port ≠ 1) (h2 : port ≠ 2) : portOf port = none :=
  (if_neg h1).trans (if_neg h2)

theorem portActionAct_noPort {a : Authority} {tag : Half} {kind port cadence seconds : Byte} (h1 : port ≠ 1) (h2 : port ≠ 2) :
    portActionAct a tag kind port cadence seconds s = refuse .badValue s := by
  unfold portActionAct
  rw [portOf_none h1 h2]

/-- A port action that leaves the state as it arrived. -/
theorem exec_portAction_only {c : Instr} {sender : Sender} {tag : Half} {kind port cadence seconds : Byte} {status : Status}
    (hc : requestOf c = some (sender, tag, .portAction kind port cadence seconds)) (ha : accepts sender s)
    (hact : portActionAct (senderAuthority sender) tag kind port cadence seconds (arrived sender s) =
      { state := arrived sender s, status := status, body := [] }) :
    ∃ t, exec c s = .next t ∧ onlyAnswered sender 8 tag status [] s t :=
  exec_onlyAnswered (r := .portAction kind port cadence seconds) hc ha rfl rfl (by simp) hact

/-- A port action that counts no more than a call's moves, or a test started. -/
theorem exec_portAction {c : Instr} {sender : Sender} {tag : Half} {kind port cadence seconds : Byte} {body : Bytes} {w : State}
    (hc : requestOf c = some (sender, tag, .portAction kind port cadence seconds)) (ha : accepts sender s)
    (hact : portActionAct (senderAuthority sender) tag kind port cadence seconds (arrived sender s) = doneWith body w)
    (hq : Reports (arrived sender s) w) (hdu : w.du = (arrived sender s).du)
    (hcount : countsOnly (Ctr.portTestsStarted :: moveCounters) (arrived sender s) w) :
    ∃ t, exec c s = .next t ∧ ActionDone sender 8 tag body s w t :=
  exec_actionDone (r := .portAction kind port cadence seconds) hc ha rfl rfl (by simp) hact hq hdu hcount
    (fun a => by cases a <;> decide) (by decide)

/-! ## Tests (R197) -/

section
variable {kind : TestKind} {a : Authority} {tag : Half} {cadence seconds : Byte}

theorem testAct_badCadence (h : s.cadenceOf cadence.toNat = none) :
    testAct kind a tag p cadence seconds s = refuse .badValue s := by
  unfold testAct
  rw [h]

variable {cad : Fin 8} (h : s.cadenceOf cadence.toNat = some cad)
include h

theorem testAct_running (ht : s.tr.test ≠ none) : testAct kind a tag p cadence seconds s = refuse .busy s := by
  unfold testAct
  rw [h]
  exact if_pos (Option.isSome_iff_ne_none.2 ht)

theorem testAct_wrongState (ht : s.tr.test = none) (hp : (s.port p).state ≠ .idle) :
    testAct kind a tag p cadence seconds s = refuse .wrongState s := by
  unfold testAct
  rw [h]
  exact (if_neg (by simp [ht])).trans (if_pos hp)

theorem testAct_limited (ht : s.tr.test = none) (hp : (s.port p).state = .idle) (hb : s.fu.power ≠ .mains)
    (hr : s.holdsRinger p.other = true) : testAct kind a tag p cadence seconds s = refuse .busy s := by
  unfold testAct
  rw [h]
  exact (if_neg (by simp [ht])).trans ((if_neg (not_not_intro hp)).trans (if_pos (by rw [onBattery_iff.2 hb, hr]; rfl)))

theorem testAct_started (ht : s.tr.test = none) (hp : (s.port p).state = .idle)
    (hl : ¬ (s.fu.power ≠ .mains ∧ s.holdsRinger p.other = true)) : testAct kind a tag p cadence seconds s =
      doneWith [byteOf (clamp 1 60 seconds.toNat)] (startTest
        { kind := kind, port := p, auth := a, tag := tag, cadence := cad, seconds := clamp 1 60 seconds.toNat, phase := .ring,
          timer := some (startSec (clamp 1 60 seconds.toNat)), answerTime := 0, delay := 0, line := [] } s) := by
  have hlimit : ¬ (s.onBattery && s.holdsRinger p.other) = true := by
    rw [Bool.and_eq_true, onBattery_iff]
    exact hl
  unfold testAct
  rw [h]
  exact (if_neg (by simp [ht])).trans ((if_neg (not_not_intro hp)).trans (if_neg hlimit))

end

theorem mediaPort_congr (h : t.mdu = s.mdu) (q : Port) : t.mediaPort q = s.mediaPort q := by
  simp only [State.mediaPort, h]

/-- A test started on an IDLE port (R197). -/
theorem startTest_facts {x : PortTest} (hp : (s.port x.port).state = .idle)
    (h : ¬ ∀ i, vget (vget s.ppu.cadences x.cadence).durations i = 0) :
    (startTest x s).tr = { s.tr with test := some x } ∧ ((startTest x s).port x.port).chan ≠ none ∧
    (startTest x s).port x.port = { s.port x.port with
      state := .testing, chan := ((startTest x s).port x.port).chan, differ := ((startTest x s).port x.port).differ, trip := 0 } ∧
    onlyPort x.port s (startTest x s) ∧ ((startTest x s).mediaPort x.port).dcIn = 0 ∧
    ((startTest x s).mediaPort x.port).dcOut = 0 ∧ counted Ctr.portTestsStarted 1 s (startTest x s) ∧
    countsOnly [Ctr.portTestsStarted] s (startTest x s) ∧
    changesOnly [.phones, .media, .tests, .counters] s (startTest x s) := by
  generalize hv : enterPort x.port .testing (setTest (some x) s) = v
  have honly : onlyPort x.port s v := by
    rw [← hv]
    exact onlyPort.trans (t := setTest (some x) s) (.of_eq rfl) (enterPort_onlyPort x.port .testing (setTest (some x) s))
  have hport : v.port x.port = { s.port x.port with state := .testing } :=
    hv ▸ port_enterPort x.port .testing (setTest (some x) s)
  have hmedia : v.mediaPort x.port = { s.mediaPort x.port with dcIn := 0, dcOut := 0 } :=
    hv ▸ mediaPort_enterPort (s := setTest (some x) s) (.inr rfl) (by
      show (s.port x.port).state ≠ .testing
      rw [hp]
      decide)
  have htr : v.tr = { s.tr with test := some x } := by rw [← hv]; simp [setTest]
  have hcounters : v.counters = s.counters := by rw [← hv]; simp [setTest]
  have he : startTest x s = bump Ctr.portTestsStarted (startRing x.port x.cadence v) := by rw [← hv]; rfl
  obtain ⟨hchan, hrung⟩ := port_startRing (s := v) (cad := x.cadence) (by rw [honly.cadences]; exact h) x.port
  have hcount : countsOnly [] s (startRing x.port x.cadence v) := (countsOnly.refl _ s).congr (by simp [hcounters])
  rw [he]
  refine ⟨by simp [htr], hchan, ?_, (honly.trans (startRing_onlyPort _ _ v)).congr rfl, ?_, ?_, ?_, ?_, ?_⟩
  · show (startRing x.port x.cadence v).port x.port = _
    rw [hrung, hport]
    rfl
  · rw [mediaPort_congr (s := v) (by simp), hmedia]
  · rw [mediaPort_congr (s := v) (by simp), hmedia]
  · exact counted_after hcount (by simp) (counter_bump_same _ _)
  · exact (hcount.mono (by simp)).bump (by simp)
  · rw [← hv]
    simp [changesOnly_iff, setTest]

/-! ## RELEASE_PORT (R112) -/

theorem releaseAct_refused (hc : (s.port p).state ≠ .inCall) (hr : (s.port p).state ≠ .ringing) :
    releaseAct p s = refuse .wrongState s := by
  unfold releaseAct
  split
  · exact absurd ‹_› hc
  · exact absurd ‹_› hr
  all_goals rfl

theorem releaseAct_inCall (h : (s.port p).state = .inCall) : releaseAct p s = doneWith [] (toReleased p (detach p s)) := by
  simp only [releaseAct, releasePortAct, h]

theorem releaseAct_ringing (h : (s.port p).state = .ringing) : releaseAct p s =
    doneWith [] (takeIfLifted p (leaveRingSet p .portsBusy (unpair p (toIdle p s)))) := by
  simp only [releaseAct, releasePortAct, h, stopRinging, if_true]

/-- A port that no longer rings keeps its own record as the pairing ends: only port B may start ringing for it. -/
theorem port_unpair (p : Port) (s : State) (h : (s.port p).state ≠ .ringing) : (unpair p s).port p = s.port p := by
  unfold unpair
  split
  · rfl
  · rfl
  · next cad hpair =>
    cases p with
    | a =>
      unfold whenever
      split
      · exact (startRing_onlyPort .b cad _).other
      · rfl
    | b => rfl

/-- A ringing port released with its handset down is IDLE and silent. -/
theorem releaseRinging_port (hd : (s.port p).closed = false) :
    (takeIfLifted p (leaveRingSet p .portsBusy (unpair p (toIdle p s)))).port p = (s.port p).silent .idle := by
  have hport : (leaveRingSet p .portsBusy (unpair p (toIdle p s))).port p = (s.port p).silent .idle := by
    rw [port_congr (s := unpair p (toIdle p s)) (by simp), port_unpair _ _ (by rw [port_toIdle]; simp [PortUnit.silent]),
      port_toIdle]
  rw [takeIfLifted_down (by rw [hport]; exact hd), hport]

theorem releaseRinging_countsOnly (s : State) : countsOnly moveCounters s
    (takeIfLifted p (leaveRingSet p .portsBusy (unpair p (toIdle p s)))) := by
  have hidle : countsOnly moveCounters s (unpair p (toIdle p s)) := (countsOnly.refl _ s).congr (by simp)
  exact (hidle.trans (leaveRingSet_countsOnly p _ _)).trans (takeIfLifted_countsOnly p _)

/-! ## DISABLE and ENABLE (R112) -/

theorem disableAct_done (h : (s.port p).state ≠ .testing) : disableAct p s = doneWith [] (disablePort p s) := by
  unfold disableAct
  split
  · exact absurd ‹_› h
  all_goals rfl

theorem disablePort_silent (h : (s.port p).state = .idle ∨ (s.port p).state = .localTone ∨ (s.port p).state = .released) :
    disablePort p s = toDisabled p s := by
  rcases h with h | h | h <;> simp only [disablePort, h]

theorem leftParked_fault (s : State) : (leftParked s).fault .portParked =
    if s.isParked .a = true ∨ s.isParked .b = true then s.fault .portParked
    else { s.fault .portParked with active := false } := by
  unfold leftParked
  simp only [Bool.or_eq_true]
  split
  · rfl
  · exact fault_endCondition_same _ _

theorem leftParked_recordsOnly (s : State) : recordsOnly [.portParked] s (leftParked s) := by
  unfold leftParked
  split
  · exact .refl _ s
  · exact endCondition_recordsOnly _ s

theorem leftParked_fu (s : State) : (leftParked s).fu = { s.fu with records := (leftParked s).fu.records } := by
  unfold leftParked
  split <;> rfl

/-- A port disabled out of a state that no call holds. -/
theorem disablePort_facts (h : (s.port p).state = .idle ∨ (s.port p).state = .localTone ∨ (s.port p).state = .released ∨
    (s.port p).state = .parked) :
    (disablePort p s).port p = { s.port p with
      state := .disabled, chan := none, tone := none, park := none, trip := 0, compare := none, pulses := 0 } ∧
    (disablePort p s).port p.other = s.port p.other ∧
    ((disablePort p s).fault .portParked = if (s.port p).state = .parked ∧ (s.port p.other).state ≠ .parked then
      { s.fault .portParked with active := false } else s.fault .portParked) ∧
    recordsOnly [.portParked] s (disablePort p s) ∧
    (disablePort p s).fu = { s.fu with records := (disablePort p s).fu.records } ∧ Reports s (disablePort p s) ∧
    (disablePort p s).counters = s.counters ∧ (disablePort p s).du = s.du ∧
    changesOnly [.phones, .faults, .counters] s (disablePort p s) := by
  have hsilent := port_toDisabled p s
  have honly := toDisabled_onlyPort p s
  have hrep : Reports s (toDisabled p s) := reports_same (.refl s) (by simp) (by simp) (by simp)
  have hfu : (toDisabled p s).fu = s.fu := by simp
  have hcount : (toDisabled p s).counters = s.counters := by simp
  have hdu : (toDisabled p s).du = s.du := by simp
  have hch : changesOnly [.phones, .faults, .counters] s (toDisabled p s) := by simp [changesOnly_iff, mdu_toDisabled]
  by_cases hparked : (s.port p).state = .parked
  · have he : disablePort p s = leftParked (toDisabled p s) := by simp only [disablePort, hparked]
    have hp : (toDisabled p s).isParked p = false := by rw [State.isParked, hsilent]; rfl
    have ho : (toDisabled p s).isParked p.other = s.isParked p.other := by rw [State.isParked, honly.other]; rfl
    have hany : ((toDisabled p s).isParked .a = true ∨ (toDisabled p s).isParked .b = true) ↔
        (s.port p.other).state = .parked := by
      cases p with
      | a => rw [hp, show (toDisabled .a s).isParked .b = s.isParked .b from ho]; simp [State.isParked, Port.other]
      | b => rw [hp, show (toDisabled .b s).isParked .a = s.isParked .a from ho]; simp [State.isParked, Port.other]
    rw [he]
    refine ⟨?_, ?_, ?_, (recordsOnly_of_fu hfu).trans (leftParked_recordsOnly _), ?_, leftParked_reports hrep, ?_, ?_, ?_⟩
    · rw [port_congr (leftParked_frame _).2.2.2.2.2.2.1, hsilent]
      rfl
    · rw [port_congr (leftParked_frame _).2.2.2.2.2.2.1, honly.other]
    · rw [leftParked_fault, if_congr hany rfl rfl, fault_congr hfu]
      by_cases hq : (s.port p.other).state = .parked
      · rw [if_pos hq, if_neg fun hc => hc.2 hq]
      · rw [if_neg hq, if_pos ⟨hparked, hq⟩]
    · rw [leftParked_fu, hfu]
    · simp
    · simp
    · exact hch.trans (by simp [changesOnly_iff])
  · have he : disablePort p s = toDisabled p s := by
      rcases h with h | h | h | h
      · exact disablePort_silent (.inl h)
      · exact disablePort_silent (.inr (.inl h))
      · exact disablePort_silent (.inr (.inr h))
      · exact absurd h hparked
    rw [he]
    refine ⟨hsilent, honly.other, ?_, recordsOnly_of_fu hfu, by rw [hfu], hrep, hcount, hdu, hch⟩
    rw [if_neg fun hc => hparked hc.1, fault_congr hfu]

/-- A port disabled out of a call, or while it rings for one. -/
theorem disablePort_inCall (h : (s.port p).state = .inCall ∨ (s.port p).state = .ringing) :
    (disablePort p s).port p = { (s.port p).silent .disabled with compare := none, pulses := 0 } ∧
    countsOnly moveCounters s (disablePort p s) := by
  rcases h with h | h
  · have he : disablePort p s = toDisabled p (detach p s) := by simp only [disablePort, h]
    rw [he, port_toDisabled, port_congr (s := s) (by simp)]
    exact ⟨rfl, (detach_countsOnly p s).congr (by simp)⟩
  · have he : disablePort p s = leaveRingSet p .portsBusy (unpair p (toDisabled p s)) := by simp only [disablePort, h]
    have hoff : ((toDisabled p s).port p).state ≠ .ringing := by rw [port_toDisabled]; simp [PortUnit.silent]
    have hquiet : countsOnly moveCounters s (unpair p (toDisabled p s)) := (countsOnly.refl _ s).congr (by simp)
    rw [he, port_congr (s := unpair p (toDisabled p s)) (by simp), port_unpair _ _ hoff, port_toDisabled]
    exact ⟨rfl, hquiet.trans (leaveRingSet_countsOnly p _ _)⟩

theorem enablePort_lifted (h : (s.port p).state = .disabled) (hc : (s.port p).closed = true) :
    enablePort p s = offHook p (enterPort p .idle s) :=
  (if_pos h).trans (takeIfLifted_lifted (by rw [port_enterPort]) (by rw [port_enterPort]; exact hc))

theorem enablePort_down (h : (s.port p).state = .disabled) (hc : (s.port p).closed = false) :
    enablePort p s = enterPort p .idle s :=
  (if_pos h).trans (takeIfLifted_down (by rw [port_enterPort]; exact hc))

theorem enablePort_other (h : (s.port p).state ≠ .disabled) : enablePort p s = s := if_neg h

theorem portSet_isEmpty_iff (c : PortSet) : c.isEmpty = true ↔ c = { a := false, b := false } := by
  obtain ⟨a, b⟩ := c
  cases a <;> cases b <;> decide

theorem portActionAct_of {a : Authority} {tag : Half} {port cadence seconds : Byte} (h : portOf port = some p) :
    portActionAct a tag 1 port cadence seconds s = testAct .ring a tag p cadence seconds s ∧
    portActionAct a tag 2 port cadence seconds s = testAct .echo a tag p cadence seconds s ∧
    portActionAct a tag 3 port cadence seconds s = releaseAct p s ∧
    portActionAct a tag 4 port cadence seconds s = disableAct p s ∧
    portActionAct a tag 5 port cadence seconds s = doneWith [] (enablePort p s) := by
  refine ⟨?_, ?_, ?_, ?_, ?_⟩
  all_goals
    unfold portActionAct
    rw [h]
    rfl

/-- The two test rows carry a test of their kind. -/
theorem requestOf_test {kind : TestKind} {sender : Sender} {tag : Half} {c : Instr} {port cadence seconds : Byte}
    (hport : portOf port = some p)
    (hc : (kind = .ring ∧ c = .testRing sender tag port cadence seconds) ∨
      (kind = .echo ∧ c = .echoTest sender tag port cadence seconds)) :
    ∃ code : Byte, requestOf c = some (sender, tag, .portAction code port cadence seconds) ∧
      ∀ v : State, portActionAct (senderAuthority sender) tag code port cadence seconds v =
        testAct kind (senderAuthority sender) tag p cadence seconds v := by
  rcases hc with ⟨rfl, rfl⟩ | ⟨rfl, rfl⟩
  · exact ⟨1, rfl, fun v => (portActionAct_of hport).1⟩
  · exact ⟨2, rfl, fun v => (portActionAct_of hport).2.1⟩

theorem portTestsStarted_notin (sender : Sender) : Ctr.portTestsStarted ∉ answerCounters sender .done := by
  unfold answerCounters
  cases senderAuthority sender <;> decide

/-- Settles O57: the tests by their checks in order, the other three by the port's state. -/
theorem portActionsActOnThePort : Obligations.PortActionsActOnThePort := by
  intro sender tag port s ha refused done
  have hppu : (arrived sender s).ppu = s.ppu := by simp
  have hmdu : (arrived sender s).mdu = s.mdu := by simp
  have hcc : (arrived sender s).cc = s.cc := by simp
  have hfu : (arrived sender s).fu = s.fu := by simp
  have htr : (arrived sender s).tr = s.tr := by simp
  have hport : ∀ q, (arrived sender s).port q = s.port q := port_congr hppu
  have hcall : ∀ n, (arrived sender s).call n = s.call n := call_congr hcc
  refine ⟨fun h1 h2 => ⟨?_, ?_, ?_, fun cadence seconds => ⟨?_, ?_⟩⟩, ?_⟩
  · exact exec_portAction_only rfl ha (portActionAct_noPort h1 h2)
  · exact exec_portAction_only rfl ha (portActionAct_noPort h1 h2)
  · exact exec_portAction_only rfl ha (portActionAct_noPort h1 h2)
  · exact exec_portAction_only rfl ha (portActionAct_noPort h1 h2)
  · exact exec_portAction_only rfl ha (portActionAct_noPort h1 h2)
  intro p hp st
  have hof := portOf_code hp
  have hdone : ∀ {body : Bytes} {w t : State}, ActionDone sender 8 tag body s w t → done body t :=
    fun hd => ⟨hd.du, hd.replied⟩
  obtain ⟨-, -, hrelease, hdisable, henable⟩ := portActionAct_of (a := senderAuthority sender) (tag := tag) (cadence := 0)
    (seconds := 0) (s := arrived sender s) hof
  refine ⟨?_, fun hn hr => ?_, fun h => ?_, fun h hd' => ?_, fun h => ?_, fun h => ?_,
    fun h => ?_, fun h => ?_, fun h hd' => ?_, fun h hd' => ?_, fun h => ?_⟩
  · intro kind c cadence seconds hc empty limited
    obtain ⟨code, hcode, hact⟩ := requestOf_test hof hc
    have hcad : cadence.toNat < 8 → ¬ empty →
        (arrived sender s).cadenceOf cadence.toNat = some (Fin.ofNat 8 cadence.toNat) := fun hlt hne =>
      cadenceOf_some hlt (by rw [hppu]; exact hne)
    refine ⟨fun h => ?_, fun hlt hne ht => ?_, fun hlt hne ht hi => ?_, fun hlt hne ht hi hl => ?_, fun hlt hne ht hi hl => ?_⟩
    · exact exec_portAction_only hcode ha ((hact _).trans (testAct_badCadence (cadenceOf_none (by rw [hppu]; exact h))))
    · exact exec_portAction_only hcode ha ((hact _).trans (testAct_running (hcad hlt hne) (by rw [htr]; exact ht)))
    · exact exec_portAction_only hcode ha
        ((hact _).trans (testAct_wrongState (hcad hlt hne) (by rw [htr]; exact ht) (by rw [hport]; exact hi)))
    · exact exec_portAction_only hcode ha ((hact _).trans (testAct_limited (hcad hlt hne) (by rw [htr]; exact ht)
        (by rw [hport]; exact hi) (by rw [hfu]; exact hl.1) (by rw [State.holdsRinger, hport]; exact hl.2)))
    · have hstart := testAct_started (kind := kind) (a := senderAuthority sender) (tag := tag) (seconds := seconds) (p := p)
        (hcad hlt hne) (by rw [htr]; exact ht) (by rw [hport]; exact hi)
        (by rw [hfu, State.holdsRinger, hport]; exact hl)
      rw [clamp_eq (by decide)] at hstart
      obtain ⟨wtr, wchan, wport, wonly, win, wout, wcount, wcounts, wch⟩ := startTest_facts (s := arrived sender s)
        (x := { kind := kind, port := p, auth := senderAuthority sender, tag := tag, cadence := Fin.ofNat 8 cadence.toNat,
                seconds := max 1 (min seconds.toNat 60), phase := .ring,
                timer := some (startSec (max 1 (min seconds.toNat 60))), answerTime := 0, delay := 0, line := [] })
        (by rw [hport]; exact hi) (by rw [hppu]; exact hne)
      obtain ⟨t, hx, hd⟩ := exec_portAction hcode ha ((hact _).trans hstart) (startTest_reports _ (.refl _)) (by simp)
        (wcounts.mono (by simp))
      have tport := port_congr hd.ppu p
      rw [hport] at wport
      refine ⟨t, hx, by rw [hd.tr, wtr, htr]; rfl, by rw [tport, wport], by rw [tport]; exact wchan, ?_, ?_, ?_, ?_, ?_, hdone hd,
        hd.blocks _ (by decide) (wch.mono (by decide))⟩
      · rw [tport]
        exact wport
      · rw [port_congr hd.ppu, wonly.other, hport]
      · rw [mediaPort_congr hd.mdu]
        exact win
      · rw [mediaPort_congr hd.mdu]
        exact wout
      · exact hd.counts _ _ (portTestsStarted_notin sender) wcount
  · exact exec_portAction_only rfl ha
      (hrelease.trans (releaseAct_refused (by rw [hport]; exact hn) (by rw [hport]; exact hr)))
  · have hact := hrelease.trans (releaseAct_inCall (by rw [hport]; exact h))
    obtain ⟨t, hx, hd⟩ := exec_portAction (c := .releasePort sender tag port) rfl ha hact
      (toReleased_reports _ (detach_reports _ (.refl _))) (by simp)
      ((((detach_countsOnly p _).congr (by simp))).mono (by simp))
    have wport : t.port p = (s.port p).toned .released .release (s.param .parkTime) := by
      rw [port_congr hd.ppu, port_toReleased, port_congr (s := s) (by simp), param_congr (detach_frame _ _).2.2.1, arrived_param]
    have wonly : onlyPort p s t := (onlyPort.of_eq (by simp)).trans ((toReleased_onlyPort p _).congr hd.ppu)
    refine ⟨t, hx, wport, wonly.other, hdone hd, fun n hn hl => ?_⟩
    have hleft := detach_left (s := arrived sender s) (p := p) (n := n) (by rw [slotOf_congr hcc]; exact hn)
      (by rw [hcall, Bool.eq_false_iff]; exact fun he => hl ((portSet_isEmpty_iff _).1 he))
    rw [hleft] at hd
    have tcc : t.cc = (onCall n (fun c => { c with attached := ((arrived sender s).call n).attached.put p false })
        (arrived sender s)).cc := hd.cc.trans (by simp)
    refine ⟨?_, ?_, hd.blocks _ (by decide) (by simp [changesOnly_iff])⟩
    · rw [call_congr tcc, call_onCall_same, hcall]
    · rw [call_congr tcc, call_onCall, if_neg (by cases n <;> decide), hcall]
  · have hact := hrelease.trans (releaseAct_ringing (by rw [hport]; exact h))
    obtain ⟨t, hx, hd⟩ := exec_portAction (c := .releasePort sender tag port) rfl ha hact
      (takeIfLifted_reports _ (leaveRingSet_reports _ _ (reports_same (.refl _) (by simp) (by simp) (by simp)))) (by simp)
      ((releaseRinging_countsOnly _).mono (by simp))
    have wport := (port_congr hd.ppu p).trans (releaseRinging_port (by rw [hport]; exact hd'))
    exact ⟨t, hx, by rw [wport]; rfl, by rw [wport]; rfl, by rw [wport]; rfl, hdone hd⟩
  · refine exec_portAction_only rfl ha (hdisable.trans ?_)
    simp only [disableAct, hport, show (s.port p).state = .testing from h]
    rfl
  · refine exec_portAction_only rfl ha (hdisable.trans ?_)
    simp only [disableAct, disablePort, hport, show (s.port p).state = .disabled from h]
    rfl
  · obtain ⟨wport, wother, wfault, wrec, wfu, wrep, wcounters, wdu, wch⟩ :=
      disablePort_facts (s := arrived sender s) (p := p) (by rw [hport]; exact h)
    have hact := hdisable.trans (disableAct_done (by rw [hport]; exact fun e => by simp [st, e] at h))
    obtain ⟨t, hx, hd⟩ := exec_portAction (c := .disable sender tag port) rfl ha hact wrep wdu
      ((countsOnly.refl _ _).congr wcounters)
    rw [hport] at wport wother
    rw [hport, hport, fault_congr hfu] at wfault
    refine ⟨t, hx, (port_congr hd.ppu p).trans wport, (port_congr hd.ppu _).trans wother, (hd.fault _).trans wfault,
      fun k hk => ?_, ?_, hdone hd, hd.blocks _ (by decide) (wch.mono (by decide))⟩
    · rw [hd.fault, wrec k hk, fault_congr hfu]
    · rw [hd.fu, wfu, hfu]
  · obtain ⟨wport, wcount⟩ := disablePort_inCall (s := arrived sender s) (p := p) (by rw [hport]; exact h)
    have hact := hdisable.trans (disableAct_done (by rw [hport]; exact fun e => by simp [st, e] at h))
    obtain ⟨t, hx, hd⟩ := exec_portAction (c := .disable sender tag port) rfl ha hact (disablePort_reports _ (.refl _))
      (by simp) (wcount.mono (by simp))
    have tport := (port_congr hd.ppu p).trans wport
    exact ⟨t, hx, by rw [tport]; rfl, by rw [tport]; rfl, by rw [tport]; rfl, by rw [tport]; rfl, by rw [tport],
      by rw [tport], hdone hd⟩
  · have hact := henable
    rw [enablePort_lifted (by rw [hport]; exact h) (by rw [hport]; exact hd')] at hact
    obtain ⟨t, hx, hd⟩ := exec_portAction (c := .enable sender tag port) rfl ha hact
      (offHook_reports _ (enterPort_reports _ _ (.refl _))) (by simp)
      ((((countsOnly.refl _ _).congr (by simp)).trans (offHook_countsOnly p _)).mono (by simp))
    exact ⟨t, hx, by rw [port_congr hd.ppu]; exact offHook_state p _, hdone hd⟩
  · have hact := henable
    rw [enablePort_down (by rw [hport]; exact h) (by rw [hport]; exact hd')] at hact
    obtain ⟨t, hx, hd⟩ := exec_portAction (c := .enable sender tag port) rfl ha hact
      (enterPort_reports _ _ (.refl _)) (by simp) ((countsOnly.refl _ _).congr (by simp))
    refine ⟨t, hx, ?_, ?_, hdone hd, hd.blocks _ (by decide) ?_⟩
    · rw [port_congr hd.ppu, port_enterPort, hport]
    · rw [port_congr hd.ppu, (enterPort_onlyPort p _ _).other, hport]
    · simp [changesOnly_iff, mdu_enterPort]
  · refine exec_portAction_only rfl ha (henable.trans ?_)
    rw [enablePort_other (by rw [hport]; exact h)]
    rfl

end Sys2Proof.Machine

/-! PROOFS. O40, O41, O44, O45 and O47: what the loop of a port in a call does, the park time, the cadences and the phases of
a port test. -/

namespace Sys2Proof.Machine

variable {s t u : State} {p : Port}

/-! ## The measure channel (R100, R101) -/

/-- The measure channel as it takes a change, before an open that has ended is classed. -/
def measured (p : Port) (closed : Bool) (s : State) : State :=
  onPort p (fun u => { u with closed := closed, differ := 0, trip := 0, capture := (s.port p).measure, measure := 0 }) s

/-- The compare that a change arms. -/
def rearmed (p : Port) (lifted closed : Bool) (s : State) : State :=
  onPort p (fun u => { u with compare := s.armed lifted closed u.pulses }) s

theorem takeChange_eq (p : Port) (closed : Bool) (s : State) : takeChange p closed s = rearmed p (s.offHook p) closed
    (whenever (s.offHook p && closed) (classify p (s.port p).measure) (measured p closed s)) := rfl

theorem measured_onlyPort (p : Port) (closed : Bool) (s : State) : onlyPort p s (measured p closed s) := onPort_onlyPort p _ s

theorem port_measured (p : Port) (closed : Bool) (s : State) : (measured p closed s).port p =
    { s.port p with closed := closed, differ := 0, trip := 0, capture := (s.port p).measure, measure := 0 } :=
  port_onPort_same s p _

theorem rearmed_onlyPort (p : Port) (lifted closed : Bool) (s : State) : onlyPort p s (rearmed p lifted closed s) :=
  onPort_onlyPort p _ s

theorem port_rearmed (p : Port) (lifted closed : Bool) (s : State) : (rearmed p lifted closed s).port p =
    { s.port p with compare := s.armed lifted closed (s.port p).pulses } := port_onPort_same s p _

/-- The Phone Port Unit alone has changed. -/
theorem changesOnly_phones {f : PhoneUnit} : changesOnly [.phones] s { s with ppu := f } := by
  simp [changesOnly_iff]

theorem measured_changesOnly (p : Port) (closed : Bool) (s : State) : changesOnly [.phones] s (measured p closed s) := by
  simp [changesOnly_iff, measured]

theorem rearmed_changesOnly (p : Port) (lifted closed : Bool) (s : State) :
    changesOnly [.phones] s (rearmed p lifted closed s) := by
  simp [changesOnly_iff, rearmed]

theorem armed_congr (h : t.du = s.du) (lifted closed : Bool) (pulses : Nat) :
    t.armed lifted closed pulses = s.armed lifted closed pulses := by
  simp only [State.armed, param_congr h]

/-- A change that ends no open: the loop opens, or no handset was lifted. -/
theorem takeChange_quiet {closed : Bool} (h : (s.offHook p && closed) = false) :
    (takeChange p closed s).port p =
      { s.port p with closed := closed, differ := 0, trip := 0, capture := (s.port p).measure, measure := 0,
                      compare := s.armed (s.offHook p) closed (s.port p).pulses } ∧
    onlyPort p s (takeChange p closed s) ∧ changesOnly [.phones] s (takeChange p closed s) := by
  have he : takeChange p closed s = rearmed p (s.offHook p) closed (measured p closed s) := by
    rw [takeChange_eq, h]
    rfl
  rw [he]
  refine ⟨?_, (measured_onlyPort p closed s).trans (rearmed_onlyPort p _ _ _),
    (measured_changesOnly p closed s).trans (rearmed_changesOnly p _ _ _)⟩
  rw [port_rearmed, port_measured]
  rfl

theorem loopChange_opens (hr : (s.port p).inRingOn = false) (hc : (s.port p).closed = true) :
    loopChange p s = takeChange p false s := by
  unfold loopChange
  rw [hr, hc]
  rfl

theorem loopChange_closes (hr : (s.port p).inRingOn = false) (hc : (s.port p).closed = false) :
    loopChange p s = closingTaken p (takeChange p true s) := by
  unfold loopChange
  rw [hr, hc]
  rfl

/-- A port in a call takes no closing beside what the measure channel makes of it. -/
theorem closingTaken_inCall (h : (s.port p).state = .inCall) : closingTaken p s = s := by
  unfold closingTaken
  rw [h]

theorem offHook_inCall (h : (s.port p).state = .inCall) : s.offHook p = true := by
  simp only [State.offHook, h]

/-- A closing in a call, whose open is classed. -/
theorem takeChange_classed (h : (s.port p).state = .inCall) : takeChange p true s =
    rearmed p true true (classify p (s.port p).measure (measured p true s)) := by
  rw [takeChange_eq, offHook_inCall h]
  rfl

theorem classify_glitch {b : Nat} (h : b ≤ 19) : classify p b s = bump (Ctr.loopGlitches p) s := by
  simp only [classify, openClass, if_pos h]

theorem classify_pulse {b : Nat} (h : 20 ≤ b) (h' : b ≤ 120) : classify p b s =
    bump (Ctr.dialPulses p) (onPort p (fun u => { u with pulses := satAdd Config.max8 u.pulses 1 }) s) := by
  have hn : ¬ b ≤ 19 := by omega
  simp only [classify, openClass, if_neg hn, if_pos h']

/-- A closing in a call changes nothing beside the measure channel. -/
theorem loopChange_inCall (h : (s.port p).state = .inCall) (hr : (s.port p).inRingOn = false) (hc : (s.port p).closed = false)
    (hk : ((rearmed p true true (classify p (s.port p).measure (measured p true s))).port p).state = .inCall) :
    loopChange p s = rearmed p true true (classify p (s.port p).measure (measured p true s)) := by
  rw [loopChange_closes hr hc, takeChange_classed h]
  exact closingTaken_inCall hk

/-- A dial pulse counted (R101). -/
def pulsed (p : Port) (s : State) : State :=
  bump (Ctr.dialPulses p) (onPort p (fun u => { u with pulses := satAdd Config.max8 u.pulses 1 }) s)

theorem port_pulsed (p : Port) (s : State) :
    (pulsed p s).port p = { s.port p with pulses := min ((s.port p).pulses + 1) 255 } := by
  unfold pulsed
  rw [port_bump, port_onPort_same]
  rfl

theorem pulsed_onlyPort (p : Port) (s : State) : onlyPort p s (pulsed p s) := ⟨by cases p <;> rfl, rfl, rfl⟩

/-- Settles O40: an opening ends no open; a closing is classed by its length. -/
theorem loopOpensAndPulsesInACall : Obligations.LoopOpensAndPulsesInACall := by
  intro s p h hr
  refine ⟨fun hc => ?_, fun hc h20 h120 => ?_, fun hc h19 => ?_⟩
  · obtain ⟨hport, honly, hch⟩ := takeChange_quiet (s := s) (p := p) (closed := false) (Bool.and_false _)
    refine ⟨takeChange p false s, congrArg Host.Outcome.next (loopChange_opens hr hc), ?_, honly.other, hch⟩
    rw [hport, offHook_inCall h]
    rfl
  · have hw : rearmed p true true (classify p (s.port p).measure (measured p true s)) =
        rearmed p true true (pulsed p (measured p true s)) := by
      rw [classify_pulse h20 h120]
      rfl
    have hport : (rearmed p true true (pulsed p (measured p true s))).port p = { s.port p with
        closed := true, differ := 0, trip := 0, capture := (s.port p).measure, measure := 0,
        pulses := min ((s.port p).pulses + 1) 255, compare := some { kind := .interdigit, value := s.param .interdigitTime } } := by
      rw [port_rearmed, port_pulsed, port_measured]
      simp only [State.armed, if_true, if_pos (show 1 ≤ min ((s.port p).pulses + 1) 255 by omega)]
      rfl
    refine ⟨_, congrArg Host.Outcome.next (loopChange_inCall h hr hc (by rw [hw, hport]; exact h)), ?_, ?_, ?_, ?_, ?_⟩
    · rw [hw, hport]
    · rw [hw]
      exact (((measured_onlyPort p true s).trans (pulsed_onlyPort p _)).trans (rearmed_onlyPort p _ _ _)).other
    · rw [hw]
      exact counter_bump_same _ _
    · rw [hw]
      simp [changesOnly_iff, rearmed, pulsed, measured]
    · rw [hw]
      exact ((countsOnly.refl _ s).congr (u := onPort p _ (measured p true s)) rfl).bump (by simp)
  · have hw : rearmed p true true (classify p (s.port p).measure (measured p true s)) =
        rearmed p true true (bump (Ctr.loopGlitches p) (measured p true s)) := by
      rw [classify_glitch h19]
    have hport : (rearmed p true true (bump (Ctr.loopGlitches p) (measured p true s))).port p =
        { (measured p true s).port p with compare := s.armed true true (s.port p).pulses } := by
      rw [port_rearmed, armed_congr (s := s) rfl, port_bump, port_measured]
      rfl
    refine ⟨_, congrArg Host.Outcome.next (loopChange_inCall h hr hc (by rw [hw, hport, port_measured]; exact h)),
      ?_, ?_, ?_, ?_, ?_, ?_⟩
    · rw [hw, hport, port_measured]
    · rw [hw, hport, port_measured]
    · rw [hw]
      exact ((measured_onlyPort p true s).trans ((rearmed_onlyPort p true true _).trans (.refl p _))).other
    · rw [hw]
      exact counter_bump_same _ _
    · rw [hw]
      simp [changesOnly_iff, rearmed, measured]
    · rw [hw]
      exact ((countsOnly.refl _ s).congr (u := measured p true s) rfl).bump (by simp)

/-! ## The interdigit compare (R103) -/

/-- A port whose compare has fired: disarmed, its pulses taken. -/
def disarmed (p : Port) (s : State) : State := onPort p (fun u => { u with compare := none, pulses := 0 }) s

theorem port_disarmed (p : Port) (s : State) : (disarmed p s).port p = { s.port p with compare := none, pulses := 0 } :=
  port_onPort_same s p _

theorem disarmed_onlyPort (p : Port) (s : State) : onlyPort p s (disarmed p s) := onPort_onlyPort p _ s

theorem armedWith_of {u : PortUnit} {k : CompareKind} {value : Nat} (h : u.state = .inCall)
    (hc : u.compare = some { kind := k, value := value }) : u.armedWith k = true := by
  simp [PortUnit.armedWith, h, hc]

theorem interdigitEvent_fires {value : Nat} (h : (s.port p).state = .inCall)
    (hc : (s.port p).compare = some { kind := .interdigit, value := value }) :
    interdigitEvent p s = digitTaken p (s.port p).pulses (disarmed p s) := if_pos (armedWith_of h hc)

/-- 1 to 10 pulses on a port in a call with room for the signal are a digit of its call. -/
theorem digitTaken_digit {n : Slot} {k : Nat} (h : (s.port p).state = .inCall) (hk : 1 ≤ k) (hk' : k ≤ 10)
    (hn : s.slotOf p = some n) (hroom : (s.call n).signals.length < 8) : digitTaken p k s =
      bump (Ctr.digits p) (signalled n (.digit (k % 10)) s) := by
  have hne : k ≠ 0 := by omega
  simp only [digitTaken, if_neg hne, if_pos hk', if_pos h, fromPort, hn, queueSignal_room hroom]

theorem digitTaken_bad {k : Nat} (h : 11 ≤ k) : digitTaken p k s = bump (Ctr.badDigits p) s := by
  have hne : k ≠ 0 := by omega
  have hlt : ¬ k ≤ 10 := by omega
  simp only [digitTaken, if_neg hne, if_neg hlt]

/-- Settles O41: the compare disarms the port, and the pulse count says what is sent. -/
theorem interdigitMakesADigit : Obligations.InterdigitMakesADigit := by
  intro s p n value h hc hn
  have hevent := interdigitEvent_fires h hc
  refine ⟨fun hk hroom => ?_, fun hk => ?_⟩
  · obtain ⟨hk, hk'⟩ := hk
    have hdigit : (s.port p).pulses % 10 = if (s.port p).pulses = 10 then 0 else (s.port p).pulses := by
      split <;> omega
    rw [digitTaken_digit (s := disarmed p s) (n := n) (by rw [port_disarmed]; exact h) hk hk' hn hroom, hdigit] at hevent
    refine ⟨_, congrArg Host.Outcome.next hevent, port_disarmed p s, call_signalled n _ (disarmed p s),
      (call_onCall_other n _ (disarmed p s) : (signalled n _ (disarmed p s)).call n.other = _), (disarmed_onlyPort p s).other,
      counter_bump_same _ _,
      by simp [changesOnly_iff, disarmed, signalled], ?_⟩
    exact ((countsOnly.refl _ s).congr (u := signalled n _ (disarmed p s)) rfl).bump (by simp)
  · rw [digitTaken_bad hk] at hevent
    exact ⟨_, congrArg Host.Outcome.next hevent, port_disarmed p s, (disarmed_onlyPort p s).other, counter_bump_same _ _,
      by simp [changesOnly_iff, disarmed], ((countsOnly.refl _ s).congr (u := disarmed p s) rfl).bump (by simp)⟩

/-! ## The park time (R109, R110) -/

/-- Settles O44: the port goes silent and PARKED is counted; the other port says whether the condition is reported. -/
theorem parkTimeParksThePort : Obligations.ParkTimeParksThePort := by
  intro s p h hpark
  have hparking : (s.port p).parking = true := by
    rcases h with h | h <;> simp [PortUnit.parking, h, Option.isSome_iff_ne_none, hpark]
  have hx : exec (.park p) s = .next (toParked p s) := congrArg Host.Outcome.next (if_pos hparking)
  generalize hv : bump (Ctr.parks p) (enterPort p .parked (quieten p s)) = v
  have hport : v.port p = { s.port p with state := .parked, chan := none, tone := none, park := none, trip := 0 } := by
    rw [← hv, port_bump, port_enterPort, port_quieten]
  have honly : onlyPort p s v := by
    rw [← hv]
    exact ((quieten_onlyPort p s).trans (enterPort_onlyPort p _ _)).congr rfl
  have hmdu : v.mdu = s.mdu := by
    rw [← hv]
    exact mdu_enterPort (by decide) (by decide)
  obtain ⟨hfu, hqm, hme⟩ : v.fu = s.fu ∧ v.qm = s.qm ∧ v.me = s.me := by
    rw [← hv]
    exact ⟨by simp, by simp, by simp⟩
  have hcount : counted (Ctr.parks p) 1 s v := by
    rw [← hv]
    exact counted_after (cs := []) ((countsOnly.refl _ s).congr (by simp)) (by simp) (counter_bump_same _ _)
  have hcounts : countsOnly [Ctr.parks p] s v := by
    rw [← hv]
    exact ((countsOnly.refl _ s).congr (by simp)).bump (by simp)
  have hch : changesOnly (.phones :: reportBlocks) s v := by
    rw [← hv]
    simp [changesOnly_iff, reportBlocks, mdu_enterPort]
  have hnotin : Ctr.parks p ∉ reportCounters := by cases p <;> decide
  have hrep : Reports s v := reports_same (.refl s) hqm hme hfu
  have he : toParked p s = if (s.port p.other).state = .parked then v else occurrence .portParked p.code v := by
    rw [toParked_eq, hv, State.isParked]
    by_cases hq : (s.port p.other).state = .parked
    · rw [if_pos hq, hq]
      rfl
    · rw [if_neg hq, beq_false_of_ne hq]
      rfl
  rw [he] at hx
  by_cases hq : (s.port p.other).state = .parked
  · rw [if_pos hq] at hx
    exact ⟨v, hx, hport, honly.other, honly.pair, honly.cadences, hmdu, by rw [if_pos hq, fault_congr hfu],
      recordsOnly_of_fu hfu, hrep, hcount, hch, hcounts.mono (by simp)⟩
  · rw [if_neg hq] at hx
    refine ⟨_, hx, ?_, ?_, ?_, ?_, ?_, ?_, (recordsOnly_of_fu hfu).trans (occurrence_recordsOnly _ _ _),
      occurrence_reports _ _ hrep, counted_then hcount (occurrence_countsOnly _ _ _) hnotin, hch.trans ?_,
      (hcounts.mono (by simp)).trans ((occurrence_countsOnly _ _ _).mono (by simp))⟩
    · rw [port_occurrence, hport]
    · rw [port_occurrence, honly.other]
    · simp [honly.pair]
    · simp [honly.cadences]
    · simp [hmdu]
    · rw [if_neg hq, fault_occurrence_reported, hfu, fault_congr hfu]
      cases p <;> rfl
    · simp [changesOnly_iff, reportBlocks]

/-! ## Cadences (R115, R116, R121, R139) -/

theorem segmentEnd_tone {c : CadenceChannel} {k : ToneKind} (hc : (s.port p).chan = some c) (hm : c.mode = .tone k)
    (he : c.endAt ≠ none) : segmentEnd p s = toneSegment p k (!c.on) s := by
  simp only [segmentEnd, hc, hm, if_pos (Option.isSome_iff_ne_none.2 he)]

/-- The search finds the very next segment where its duration is not 0. -/
theorem seek_next {cad pos : Fin 8} (h : vget (vget s.ppu.cadences cad).durations pos ≠ 0) :
    s.seek cad 8 pos.val false = some (pos.val + 1, false) := by
  unfold State.seek
  rw [if_neg (by omega), if_pos (by rwa [segment_succ])]

theorem segmentEnd_ring {c : CadenceChannel} {cad pos : Fin 8} (hc : (s.port p).chan = some c) (hm : c.mode = .ring cad)
    (hp : s.ppu.pair = .apart) (hpos : c.pos = pos.val) (h : vget (vget s.ppu.cadences cad).durations pos ≠ 0) :
    segmentEnd p s = loadChannel p (s.ringAt cad (pos.val + 1)) s := by
  have hpair : (loadChannel p (s.ringAt cad (pos.val + 1)) s).ppu.pair = .apart := hp
  simp only [segmentEnd, hc, hm, hpos, seek_next h, hpair]

theorem ringAt_succ (cad pos : Fin 8) : s.ringAt cad (pos.val + 1) =
    { mode := .ring cad, pos := pos.val + 1, on := pos.val % 2 == 0,
      endAt := some (10 * vget (vget s.ppu.cadences cad).durations pos), count := 0 } := by
  have hon : ((pos.val + 1) % 2 == 1) = (pos.val % 2 == 0) := by
    rw [Bool.eq_iff_iff, beq_iff_eq, beq_iff_eq]
    omega
  simp only [State.ringAt, segment_succ, hon]

/-- Settles O45: a tone turns over, and a ring channel steps to the next segment. -/
theorem cadencesStep : Obligations.CadencesStep := by
  intro s p c hc
  refine ⟨fun k ms hm hk he => ?_, fun cad pos hm hp hpos h => ?_⟩
  · have hseg := segmentEnd_tone hc hm he
    refine ⟨_, congrArg Host.Outcome.next hseg, ?_, ?_, (toneSegment_onlyPort p k _ s).other,
      mediaPort_toneSegment_other p k _ s, ?_⟩
    · rw [port_toneSegment, hk]
      cases c.on <;> rfl
    · rw [mediaPort_toneSegment]
      cases c.on <;> rfl
    · simp [changesOnly_iff]
  · have hseg := segmentEnd_ring hc hm hp hpos h
    have hport := port_loadChannel p (s.ringAt cad (pos.val + 1)) s
    rw [ringAt_succ] at hseg hport
    refine ⟨_, congrArg Host.Outcome.next hseg, ?_, ?_, (loadChannel_onlyPort p _ s).other, by simp [changesOnly_iff]⟩
    · rw [hport]
      split <;> rfl
    · rw [hport]
      by_cases heven : pos.val % 2 = 0
      · simp [CadenceChannel.isRing, heven]
      · simp [CadenceChannel.isRing, heven]

/-! ## The phases of a port test (R198, R199, R200) -/

/-- A test result is counted and goes to the authority that asked. -/
theorem sendResult_facts (x : PortTest) (o : TestOutcome) (time : Nat) (s : State) :
    counted Ctr.testResultsSent 1 s (sendResult x o time s) ∧
    ((sendResult x o time s).qm = match x.auth with
      | .exch => { s.qm with
          replies := s.qm.replies ++ (if s.qm.replies.length < 4 then [resultMsg x o time] else []) }
      | .loc => { s.qm with fifo := s.qm.fifo ++
          (if s.qm.homeUp = true ∧ itemBytes s.qm.fifo + (s.localFrame (resultMsg x o time)).length ≤ 24576 then
            [{ kind := .localReply, bytes := s.localFrame (resultMsg x o time) }] else []) }) ∧
    countsOnly [Ctr.testResultsSent, Ctr.testResultsLost, Ctr.fifoFull .localReply, Ctr.lostLinkDown .localReply] s
      (sendResult x o time s) := by
  have hsent : countsOnly [Ctr.testResultsSent] s (bump Ctr.testResultsSent s) := (countsOnly.refl _ s).bump (by simp)
  have hcount : counted Ctr.testResultsSent 1 s (bump Ctr.testResultsSent s) := counter_bump_same _ _
  unfold sendResult
  cases x.auth with
  | loc =>
    have hframe : (bump Ctr.testResultsSent s).localFrame (resultMsg x o time) = s.localFrame (resultMsg x o time) := rfl
    obtain ⟨hoffer, -, -⟩ := offerFifo_offered .localReply (s.localFrame (resultMsg x o time)) (bump Ctr.testResultsSent s)
    have honly := offerFifo_countsOnly .localReply (s.localFrame (resultMsg x o time)) (bump Ctr.testResultsSent s)
    exact ⟨counted_then hcount honly (by decide), hoffer, (hsent.mono (by simp)).trans (honly.mono (by decide))⟩
  | exch =>
    by_cases hroom : s.qm.replies.length < 4
    · have he : (if (bump Ctr.testResultsSent s).qm.replies.length < Config.replies then
          pushReply (resultMsg x o time) (bump Ctr.testResultsSent s)
          else bump Ctr.testResultsLost (bump Ctr.testResultsSent s)) =
          pushReply (resultMsg x o time) (bump Ctr.testResultsSent s) := if_pos hroom
      dsimp only
      rw [he, if_pos hroom]
      exact ⟨hcount, rfl, (hsent.mono (by simp)).congr rfl⟩
    · have he : (if (bump Ctr.testResultsSent s).qm.replies.length < Config.replies then
          pushReply (resultMsg x o time) (bump Ctr.testResultsSent s)
          else bump Ctr.testResultsLost (bump Ctr.testResultsSent s)) =
          bump Ctr.testResultsLost (bump Ctr.testResultsSent s) := if_neg hroom
      dsimp only
      rw [he, if_neg hroom]
      refine ⟨counted_then hcount ((countsOnly.refl [Ctr.testResultsLost] _).bump (by simp)) (by decide), by simp,
        (hsent.mono (by simp)).bump (by simp)⟩

theorem testExpiry_ring {x : PortTest} (h : s.tr.test = some x) (ht : x.timer ≠ none) (hp : x.phase = .ring) :
    testExpiry s = toIdle x.port (setTest none (sendResult x .notAnswered 0 (stopChannel x.port s))) := by
  simp only [testExpiry, h, if_pos (Option.isSome_iff_ne_none.2 ht), hp]

theorem testExpiry_echo {x : PortTest} (h : s.tr.test = some x) (ht : x.timer ≠ none) (hp : x.phase = .echo) :
    testExpiry s = startTone x.port .test (setTest (some { x with phase := .tone, timer := none, line := [] }) s) := by
  simp only [testExpiry, h, if_pos (Option.isSome_iff_ne_none.2 ht), hp]

/-- Settles O47: the RING phase ends with the result sent, the ECHO phase with the test tone. -/
theorem testPhasesEnd : Obligations.TestPhasesEnd := by
  intro s x h ht
  refine ⟨fun hp => ?_, fun hp => ?_⟩
  · obtain ⟨hcount, hqm, hcounts⟩ := sendResult_facts x .notAnswered 0 (stopChannel x.port s)
    have hseg := testExpiry_ring h ht hp
    have hppu : (setTest none (sendResult x .notAnswered 0 (stopChannel x.port s))).ppu = (stopChannel x.port s).ppu := by
      simp [setTest]
    have hquiet : (toIdle x.port (setTest none (sendResult x .notAnswered 0 (stopChannel x.port s)))).counters =
        (sendResult x .notAnswered 0 (stopChannel x.port s)).counters := by simp [setTest]
    have honly : onlyPort x.port s (toIdle x.port (setTest none (sendResult x .notAnswered 0 (stopChannel x.port s)))) :=
      ((stopChannel_onlyPort x.port s).congr hppu).trans (toIdle_onlyPort x.port _)
    refine ⟨_, congrArg Host.Outcome.next hseg, ?_, ?_, honly.other, (counter_congr hquiet _).trans hcount, ?_, ?_,
      (hcounts.congr hquiet)⟩
    · simp [setTest]
    · rw [port_toIdle, port_congr hppu, port_stopChannel]
      rfl
    · have hqm' : (toIdle x.port (setTest none (sendResult x .notAnswered 0 (stopChannel x.port s)))).qm =
          (sendResult x .notAnswered 0 (stopChannel x.port s)).qm := by simp [setTest]
      have hmsg : resultMsg x .notAnswered 0 = [1, 0x91] ++ be16 x.tag.toNat ++ be16 7 ++
          [if x.port = .a then 1 else 2, if x.kind = .ring then 1 else 2, 2] ++ be32 0 := by
        unfold resultMsg
        cases x.port <;> cases x.kind <;> rfl
      rw [hqm', hqm, hmsg]
      rfl
    · simp [changesOnly_iff, setTest, mdu_toIdle]
  · have hseg := testExpiry_echo h ht hp
    refine ⟨_, congrArg Host.Outcome.next hseg, ?_, ?_, ?_, ?_, ?_⟩
    · simp [setTest]
    · rw [port_startTone]
      rfl
    · rw [mediaPort_startTone]
    · exact (startTone_onlyPort x.port .test _).other
    · simp [changesOnly_iff, setTest]

end Sys2Proof.Machine

/-! PROOFS. O39, O42, O43 and O46: a call originated, answered, ended by its last handset and ended by the alert limit. -/

namespace Sys2Proof.Machine

variable {s t u v w : State} {p : Port} {n : Slot}

/-! ## Where only the ports have changed -/

theorem ppu_of_changesOnly (h : changesOnly [.phones] s t) : t = { s with ppu := t.ppu } := by
  obtain ⟨hq, hbf, hls, hlbu, hme, hqm, -, hcc, hmdu, hfu, hdu, htr, hct, hck, hout, hfree⟩ := (changesOnly_iff _ s t).1 h
  simp only [List.mem_singleton, reduceCtorEq, false_or] at hq hbf hls hlbu hme hqm hcc hmdu hfu hdu htr hct hck hout hfree
  cases s
  cases t
  simp_all

theorem mediaPort_followCall (n : Slot) (s : State) (q : Port) : (followCall n s).mediaPort q = s.mediaPort q := by
  have hb : ∀ (b : Bool) (v : State), (whenever b (bump Ctr.staleVoice) v).mediaPort q = v.mediaPort q := by
    intro b v
    cases b <;> rfl
  rw [followCall, setMedia, hb]
  rfl

theorem reserved_lt_two (h : (s.call n).state = .free) : s.reserved < 2 := by
  have hn : s.nonFree n = false := by simp [State.nonFree, h]
  unfold State.reserved
  cases n with
  | zero => rw [hn]; cases s.nonFree .one <;> decide
  | one => rw [hn]; cases s.nonFree .zero <;> decide

/-- With one slot FREE and the other in use, one slot is reserved. -/
theorem reserved_eq_one (h : (s.call n).state = .free) (h' : (s.call n.other).state ≠ .free) : s.reserved = 1 := by
  have hn : s.nonFree n = false := by simp [State.nonFree, h]
  have ho : s.nonFree n.other = true := by simpa [State.nonFree] using h'
  unfold State.reserved
  cases n with
  | zero => rw [hn, show s.nonFree .one = true from ho]; rfl
  | one => rw [hn, show s.nonFree .zero = true from ho]; rfl

theorem inUse_of_other (h : (s.call n.other).state ≠ .free) : s.inUse = true := by
  rw [inUse_iff]
  cases n with
  | zero => exact .inr h
  | one => exact .inl h

theorem Slot.other_other (n : Slot) : n.other.other = n := by cases n <;> rfl

/-! ## A call originated (R104, R151) -/

/-- The bound of R57 with one slot more, on a line that carries. -/
theorem admissible_of (hl : s.ls.link = .carrying) (hf : (s.call n).state = .free)
    (hb : (s.reserved + 1) * s.lbu.size.voiceBlocks + 1 + s.lbu.floor ≤ s.lbu.sustained) : s.admissible = true := by
  have hcarry : s.carrying = true := beq_iff_eq.2 hl
  have hres : decide (s.reserved < 2) = true := decide_eq_true (reserved_lt_two hf)
  have hneeds : decide (s.requestNeeds ≤ s.lbu.sustained) = true := decide_eq_true hb
  rw [State.admissible, hcarry, hres, hneeds]
  rfl

theorem offHook_originates (hj : s.joinSlot = none) (hl : s.ls.link = .carrying) (hn : s.lowestFree = some n)
    (hb : (s.reserved + 1) * s.lbu.size.voiceBlocks + 1 + s.lbu.floor ≤ s.lbu.sustained) :
    offHook p s = originate p n (bump (Ctr.offHooks p) s) := by
  have hj' : (bump (Ctr.offHooks p) s).joinSlot = none := hj
  have hc' : (bump (Ctr.offHooks p) s).carrying = true := beq_iff_eq.2 hl
  have hn' : (bump (Ctr.offHooks p) s).lowestFree = some n := hn
  have ha' : (bump (Ctr.offHooks p) s).admissible = true :=
    admissible_of (s := bump (Ctr.offHooks p) s) (n := n) hl (lowestFree_free hn) hb
  simp only [offHook, hj', hc', hn', ha', if_true]

/-- What an origination makes of its slot, its port and the media. -/
theorem call_attach (p : Port) (n : Slot) (s : State) :
    (attach p n s).call n = { s.call n with attached := (s.call n).attached.put p true } := by
  rw [attach, call_congr (enterPort_frame _ _ _).2.2.2.2.2.2.1, call_onCall_same]

theorem call_attach_other (p : Port) (n : Slot) (s : State) : (attach p n s).call n.other = s.call n.other := by
  rw [attach, call_congr (enterPort_frame _ _ _).2.2.2.2.2.2.1, call_onCall_other]

theorem port_attach (p : Port) (n : Slot) (s : State) : (attach p n s).port p = { s.port p with state := .inCall } :=
  port_enterPort p .inCall _

theorem attach_onlyPort (p : Port) (n : Slot) (s : State) : onlyPort p s (attach p n s) :=
  onlyPort.trans (t := onCall n (fun c => { c with attached := c.attached.put p true }) s) (.of_eq rfl)
    (enterPort_onlyPort p .inCall _)

/-- A port attached from another state has its DC block cleared (R126). -/
theorem mediaPort_attach (h : (s.port p).state ≠ .inCall) (n : Slot) :
    ((attach p n s).mediaPort p).dcIn = 0 ∧ ((attach p n s).mediaPort p).dcOut = 0 := by
  have hm := mediaPort_enterPort (s := onCall n (fun c => { c with attached := c.attached.put p true }) s) (p := p)
    (new := .inCall) (.inl rfl) h
  rw [attach, hm]
  exact ⟨rfl, rfl⟩

theorem media_attach (p : Port) (n m : Slot) (s : State) : (attach p n s).media m = s.media m := enterPort_media p _ _ m

theorem originate_facts (hroom : (s.call n).signals.length < 8) (hs : (s.port p).state ≠ .inCall) :
    (originate p n s).port p = { s.port p with state := .inCall } ∧ onlyPort p s (originate p n s) ∧
    (originate p n s).cc.stamp = min (s.cc.stamp + 1) Config.max32 ∧
    (originate p n s).call n = { s.call n with
      state := .originating, attached := (s.call n).attached.put p true, dir := .out,
      stamp := min (s.cc.stamp + 1) Config.max32, start := s.fu.uptime, sent := 0, received := 0, endCause := none,
      signals := (s.call n).signals ++ [.seize p] } ∧
    (originate p n s).call n.other = s.call n.other ∧
    (originate p n s).media n = (s.media n).change ((originate p n s).call n).mediaState ∧
    ((originate p n s).mediaPort p).dcIn = 0 ∧ ((originate p n s).mediaPort p).dcOut = 0 ∧
    counted Ctr.admissionsGranted 1 s (originate p n s) ∧ counted Ctr.callsOriginated 1 s (originate p n s) ∧
    changesOnly [.phones, .calls, .media, .counters] s (originate p n s) ∧
    countsOnly [Ctr.admissionsGranted, Ctr.callsOriginated, Ctr.staleVoice] s (originate p n s) := by
  generalize hv : occupy n .originating .out s = v
  generalize hw : attach p n v = w
  have hvcall : v.call n = (s.call n).admitted .originating .out (min (s.cc.stamp + 1) Config.max32) s.fu.uptime := by
    rw [← hv]
    exact call_onCall_same _ n _
  have hvother : v.call n.other = s.call n.other := by
    rw [← hv]
    exact call_onCall_other n _ _
  have hvstamp : v.cc.stamp = min (s.cc.stamp + 1) Config.max32 := by rw [← hv]; rfl
  obtain ⟨hvppu, hvmdu, hvcounters⟩ : v.ppu = s.ppu ∧ v.mdu = s.mdu ∧ v.counters = (bump Ctr.admissionsGranted s).counters := by
    rw [← hv]
    exact ⟨rfl, rfl, rfl⟩
  have hwcall : w.call n = { s.call n with
      state := .originating, attached := (s.call n).attached.put p true, dir := .out,
      stamp := min (s.cc.stamp + 1) Config.max32, start := s.fu.uptime, sent := 0, received := 0, endCause := none } := by
    rw [← hw, call_attach, hvcall]
    rfl
  have hwother : w.call n.other = s.call n.other := by rw [← hw, call_attach_other, hvother]
  have hwport : w.port p = { s.port p with state := .inCall } := by rw [← hw, port_attach, port_congr hvppu]
  have hwonly : onlyPort p s w := by
    rw [← hw]
    exact (onlyPort.of_eq hvppu).trans (attach_onlyPort p n v)
  have hwmedia : ∀ m, w.media m = s.media m := fun m => by rw [← hw, media_attach, media_congr hvmdu]
  have hwdc : (w.mediaPort p).dcIn = 0 ∧ (w.mediaPort p).dcOut = 0 := by
    rw [← hw]
    exact mediaPort_attach (by rwa [port_congr hvppu]) n
  have hwcounters : w.counters = (bump Ctr.admissionsGranted s).counters := by rw [← hw, ← hvcounters]; simp
  have hwstamp : w.cc.stamp = min (s.cc.stamp + 1) Config.max32 := by
    rw [← hw, attach, (enterPort_frame _ _ _).2.2.2.2.2.2.1]
    exact hvstamp
  have hwch : changesOnly [.phones, .calls, .media, .counters] s w := by
    rw [← hw, ← hv]
    simp [changesOnly_iff]
  have he : originate p n s = followCall n (bump Ctr.callsOriginated (signalled n (.seize p) w)) := by
    rw [← queueSignal_room (by rw [hwcall]; exact hroom), ← hw, ← hv]
    rfl
  have hgranted : countsOnly [Ctr.admissionsGranted] s w :=
    ((countsOnly.refl _ s).bump (c := Ctr.admissionsGranted) (by simp)).congr hwcounters
  have hfollow := followCall_countsOnly n (bump Ctr.callsOriginated (signalled n (.seize p) w))
  have horiginated : counted Ctr.callsOriginated 1 w (bump Ctr.callsOriginated (signalled n (.seize p) w)) :=
    counter_bump_same _ _
  have honly : countsOnly [Ctr.callsOriginated] w (bump Ctr.callsOriginated (signalled n (.seize p) w)) :=
    ((countsOnly.refl _ w).congr (u := signalled n (.seize p) w) rfl).bump (by simp)
  have hcc : (originate p n s).cc = (signalled n (.seize p) w).cc := by rw [he]; simp
  have hcall : (originate p n s).call n = { s.call n with
      state := .originating, attached := (s.call n).attached.put p true, dir := .out,
      stamp := min (s.cc.stamp + 1) Config.max32, start := s.fu.uptime, sent := 0, received := 0, endCause := none,
      signals := (s.call n).signals ++ [.seize p] } := by
    rw [call_congr hcc, call_signalled, hwcall]
  refine ⟨?_, ?_, ?_, hcall, ?_, ?_, ?_, ?_, ?_, ?_, ?_, ?_⟩
  · rw [he, port_congr (s := w) (by simp [signalled]), hwport]
  · rw [he]
    exact hwonly.congr (by simp [signalled])
  · rw [hcc]
    exact hwstamp
  · rw [call_congr hcc]
    exact (call_onCall_other n _ w).trans hwother
  · rw [hcall, he, followCall_media, if_pos rfl]
    show (w.media n).change ((signalled n (.seize p) w).call n).mediaState = _
    rw [hwmedia, call_signalled, hwcall]
  · rw [he, mediaPort_followCall]
    exact hwdc.1
  · rw [he, mediaPort_followCall]
    exact hwdc.2
  · rw [he]
    have hcount : counted Ctr.admissionsGranted 1 s w := (counter_congr hwcounters _).trans (counter_bump_same _ _)
    exact counted_then hcount ((honly.mono (by simp)).trans (hfollow.mono (by simp))) (ds := [Ctr.callsOriginated, Ctr.staleVoice])
      (by decide)
  · rw [he]
    exact counted_then (counted_after hgranted (by decide) horiginated) hfollow (by decide)
  · rw [he]
    exact hwch.trans (by simp [changesOnly_iff, signalled])
  · rw [he]
    exact ((hgranted.mono (by simp)).trans (honly.mono (by simp))).trans (hfollow.mono (by simp))

/-- Settles O39: the closing is measured, and the off-hook it makes is granted. -/
theorem offHookOriginatesACall : Obligations.OffHookOriginatesACall := by
  intro s p n h hc hr hj hl hn hroom hb
  have hoff : s.offHook p = false := by simp only [State.offHook, h]
  obtain ⟨hport, honly, hch⟩ := takeChange_quiet (s := s) (p := p) (closed := true) (by rw [hoff]; rfl)
  have hloop := loopChange_closes hr hc
  generalize takeChange p true s = v at *
  have hv := ppu_of_changesOnly hch
  generalize v.ppu = f at hv
  subst hv
  rw [hoff] at hport
  have hclose : closingTaken p { s with ppu := f } = offHook p { s with ppu := f } := by
    unfold closingTaken
    rw [hport, h]
  rw [hclose, offHook_originates (s := { s with ppu := f }) (n := n) hj hl hn hb] at hloop
  have hbump : countsOnly [Ctr.offHooks p] s (bump (Ctr.offHooks p) { s with ppu := f }) :=
    ((countsOnly.refl _ s).congr (u := { s with ppu := f }) rfl).bump (by simp)
  have hlifted : counted (Ctr.offHooks p) 1 s (bump (Ctr.offHooks p) { s with ppu := f }) := counter_bump_same _ _
  have hch' : changesOnly [.phones, .calls, .media, .counters] s (bump (Ctr.offHooks p) { s with ppu := f }) := by
    simp [changesOnly_iff]
  obtain ⟨oport, oonly, ostamp, ocall, oother, omedia, oin, oout, ogranted, ooriginated, och, ocounts⟩ :=
    originate_facts (s := bump (Ctr.offHooks p) { s with ppu := f }) (n := n) (p := p) hroom (by
      rw [port_bump, hport, h]
      decide)
  refine ⟨_, congrArg Host.Outcome.next hloop, ?_, oonly.other.trans honly.other, oonly.pair.trans honly.pair,
    oonly.cadences.trans honly.cadences, ostamp, ?_, oother, omedia, oin, oout, ?_, ?_, ?_, hch'.trans och, ?_⟩
  · rw [oport, port_bump, hport]
    rfl
  · rw [ocall, ostamp]
    rfl
  · exact counted_then hlifted ocounts (by cases p <;> decide)
  · exact counted_after hbump (by cases p <;> decide) ogranted
  · exact counted_after hbump (by cases p <;> decide) ooriginated
  · exact (hbump.mono (by simp)).trans (ocounts.mono (by simp))

/-! ## A ringing port answered (R106, R154) -/

theorem stopAll_none (h : ports = { a := false, b := false }) : stopAll ports s = s := by
  subst h
  rfl

theorem takeLifted_none (h : ports = { a := false, b := false }) : takeLifted ports s = s := by
  subst h
  rfl

/-- A call as its answer takes it: no longer alerting, and the port attached. -/
def takenCall (p : Port) (n : Slot) (s : State) : State :=
  attach p n (onCall n (fun c => { c with alert := none, ringSet := noPorts, cadence := 0, group := false })
    (bump (Ctr.answers p) (stopChannel p s)))

theorem call_takenCall (p : Port) (n : Slot) (s : State) : (takenCall p n s).call n =
    { s.call n with alert := none, ringSet := noPorts, cadence := 0, group := false,
                    attached := (s.call n).attached.put p true } := by
  rw [takenCall, call_attach, call_onCall_same]
  rfl

theorem call_takenCall_other (p : Port) (n : Slot) (s : State) : (takenCall p n s).call n.other = s.call n.other := by
  rw [takenCall, call_attach_other, call_onCall_other]
  rfl

theorem port_takenCall (p : Port) (n : Slot) (s : State) :
    (takenCall p n s).port p = { s.port p with state := .inCall, chan := none, trip := 0 } := by
  rw [takenCall, port_attach]
  show ({ (stopChannel p s).port p with state := .inCall } : PortUnit) = _
  rw [port_stopChannel]

theorem takenCall_onlyPort (p : Port) (n : Slot) (s : State) : onlyPort p s (takenCall p n s) :=
  onlyPort.trans (t := onCall n (fun c => { c with alert := none, ringSet := noPorts, cadence := 0, group := false })
    (bump (Ctr.answers p) (stopChannel p s))) ((stopChannel_onlyPort p s).congr rfl) (attach_onlyPort p n _)

/-- The call connected, its ANSWER queued. -/
def connected (p : Port) (n : Slot) (s : State) : State :=
  onCall n (fun c => { c with state := .connected }) (signalled n (.answer p) (takenCall p n s))

theorem call_connected (p : Port) (n : Slot) (s : State) : (connected p n s).call n = { s.call n with
    state := .connected, attached := (s.call n).attached.put p true, ringSet := { a := false, b := false }, alert := none,
    cadence := 0, group := false, signals := (s.call n).signals ++ [.answer p] } := by
  rw [connected, call_onCall_same, call_signalled, call_takenCall]
  rfl

theorem call_connected_other (p : Port) (n : Slot) (s : State) : (connected p n s).call n.other = s.call n.other := by
  rw [connected, call_onCall_other]
  exact (call_onCall_other n _ (takenCall p n s)).trans (call_takenCall_other p n s)

theorem connected_counters (p : Port) (n : Slot) (s : State) :
    (connected p n s).counters = (bump (Ctr.answers p) s).counters := by
  have hbump : (bump (Ctr.answers p) (stopChannel p s)).counters = (bump (Ctr.answers p) s).counters := rfl
  rw [← hbump]
  simp [connected, signalled, takenCall]

theorem connected_changesOnly (p : Port) (n : Slot) (s : State) :
    changesOnly [.phones, .calls, .media, .counters] s (connected p n s) := by
  simp [changesOnly_iff, connected, signalled, takenCall]

theorem media_connected (p : Port) (n m : Slot) (s : State) : (connected p n s).media m = s.media m :=
  media_attach p n m _

/-- A call answered by the only port that rings for it, on ports that ring alone. -/
theorem answer_alone (hn : s.ringSlotOf p = some n) (hp : s.ppu.pair = .apart)
    (halone : (s.call n).ringSet.put p false = { a := false, b := false }) (hroom : (s.call n).signals.length < 8) :
    answer p s = bump Ctr.callsAnswered (followCall n (connected p n s)) := by
  have hpair : (takenCall p n s).ppu.pair = .apart := (takenCall_onlyPort p n s).pair.trans hp
  have hroom' : ((takenCall p n s).call n).signals.length < 8 := by rw [call_takenCall]; exact hroom
  rw [connected, ← queueSignal_room hroom', ← unpair_apart hpair p]
  simp only [answer, hn, halone]
  rfl

/-- Settles O42: the trip closes the loop, and the closing of a ringing port answers its call. -/
theorem ringTripAnswersTheCall : Obligations.RingTripAnswersTheCall := by
  intro s p n h hr hp hn halone hroom
  have hstop : ((stopChannel p s).port p).state = .ringing := by rw [port_stopChannel]; exact h
  have hoff : (stopChannel p s).offHook p = false := by simp only [State.offHook, hstop]
  obtain ⟨hport, honly, hch⟩ := takeChange_quiet (s := stopChannel p s) (p := p) (closed := true) (by rw [hoff]; rfl)
  have htrip : ringTrip p s = closingTaken p (takeChange p true (stopChannel p s)) := if_pos hr
  rw [hoff, port_stopChannel] at hport
  have honly' := (stopChannel_onlyPort p s).trans honly
  have hch' : changesOnly [.phones] s (takeChange p true (stopChannel p s)) :=
    changesOnly.trans (t := stopChannel p s) (by simp [changesOnly_iff]) hch
  generalize takeChange p true (stopChannel p s) = v at *
  have hv := ppu_of_changesOnly hch'
  generalize v.ppu = f at hv
  subst hv
  have hclose : closingTaken p { s with ppu := f } = answer p { s with ppu := f } := by
    unfold closingTaken
    rw [hport, h]
  rw [hclose, answer_alone (s := { s with ppu := f }) hn (honly'.pair.trans hp) halone hroom] at htrip
  generalize hx : connected p n { s with ppu := f } = x at htrip
  have hxcall := hx ▸ call_connected p n { s with ppu := f }
  have hxother := hx ▸ call_connected_other p n { s with ppu := f }
  have hxcounters := hx ▸ connected_counters p n { s with ppu := f }
  have hxch := hx ▸ connected_changesOnly p n { s with ppu := f }
  have hxmedia := hx ▸ media_connected p n n { s with ppu := f }
  have hxport : x.port p = { s.port p with
      state := .inCall, closed := true, differ := 0, trip := 0, capture := (s.port p).measure, measure := 0, compare := none,
      chan := none } := by
    rw [← hx]
    exact (port_takenCall p n _).trans (by rw [hport]; rfl)
  have hxonly : onlyPort p s x := by
    rw [← hx]
    exact (honly'.trans (takenCall_onlyPort p n _)).congr rfl
  have hfollow := followCall_countsOnly n x
  have hcount : counted (Ctr.answers p) 1 s x := (counter_congr hxcounters _).trans (counter_bump_same _ _)
  have honlyx : countsOnly [Ctr.answers p] s x :=
    (((countsOnly.refl _ s).congr (u := { s with ppu := f }) rfl).bump (c := Ctr.answers p) (by simp)).congr hxcounters
  have hafter : countsOnly [Ctr.callsAnswered, Ctr.staleVoice] x (bump Ctr.callsAnswered (followCall n x)) :=
    (hfollow.mono (by simp)).bump (by simp)
  have hbefore : countsOnly [Ctr.answers p, Ctr.staleVoice] s (followCall n x) :=
    (honlyx.mono (by simp)).trans (hfollow.mono (by simp))
  have hcc : (bump Ctr.callsAnswered (followCall n x)).cc = x.cc := by simp
  refine ⟨_, congrArg Host.Outcome.next htrip, ?_, ?_, ?_, ?_, ?_, ?_, ?_, ?_, ?_⟩
  · rw [port_congr (s := x) (by simp), hxport]
  · rw [port_congr (s := x) (by simp), hxonly.other]
  · rw [call_congr hcc, hxcall]
    rfl
  · rw [call_congr hcc, hxother]
    rfl
  · show (followCall n x).media n = _
    rw [followCall_media, if_pos rfl, hxmedia, call_congr hcc]
    rfl
  · exact counted_then hcount hafter (by cases p <;> decide)
  · exact counted_after hbefore (by cases p <;> decide) (counter_bump_same _ _)
  · exact changesOnly.trans (t := { s with ppu := f }) (by simp [changesOnly_iff])
      (hxch.trans (by simp [changesOnly_iff]))
  · exact ((honlyx.mono (by simp)).trans (hfollow.mono (by simp))).bump (by simp)

/-! ## A call's last handset (R102, R159) and its alert limit (R156) -/

/-- A slot freed with the other in use, its CLEAR behind the signals that it holds. -/
theorem freed_facts (hroom : (s.call n).signals.length < 8) (ho : (s.call n.other).state ≠ .free) (cause : Cause) :
    let t := reportIfIdle (queueSignal n (.clear cause) (freeSlot n cause s))
    t = signalled n (.clear cause) (freeSlot n cause s) ∧
    t.call n = { s.call n with
      state := .free, held := false, attached := { a := false, b := false }, ringSet := { a := false, b := false }, cadence := 0,
      group := false, alert := none, endCause := some cause, mark := (s.call n).mark || s.ls.link.isHold,
      signals := (s.call n).signals ++ [.clear cause] } ∧
    t.call n.other = s.call n.other ∧ t.media n = (s.media n).change .off ∧ countsOnly [Ctr.staleVoice] s t := by
  intro t
  have hcall := call_freeSlot n n cause s
  have hother := call_freeSlot n n.other cause s
  rw [if_pos rfl] at hcall
  rw [if_neg (slot_ne_other n)] at hother
  have hsig : queueSignal n (.clear cause) (freeSlot n cause s) = signalled n (.clear cause) (freeSlot n cause s) :=
    queueSignal_room (by rw [hcall]; exact hroom) _
  have hsother : (signalled n (.clear cause) (freeSlot n cause s)).call n.other = s.call n.other :=
    (call_onCall_other n _ (freeSlot n cause s)).trans hother
  have he : t = signalled n (.clear cause) (freeSlot n cause s) := by
    show reportIfIdle (queueSignal n (.clear cause) (freeSlot n cause s)) = _
    rw [hsig]
    exact reportIfIdle_used (inUse_of_other (n := n) (by rw [hsother]; exact ho))
  refine ⟨he, ?_, he ▸ hsother, ?_, ?_⟩
  · rw [he, call_signalled, hcall]
    rfl
  · rw [he]
    show (freeSlot n cause s).media n = _
    rw [media_freeSlot, if_pos rfl]
  · rw [he]
    exact (freeSlot_countsOnly n cause s).congr rfl

theorem onHookEvent_inCall {value : Nat} (h : (s.port p).state = .inCall)
    (hc : (s.port p).compare = some { kind := .onHook, value := value }) : onHookEvent p s =
      toIdle p (detach p (bump (Ctr.onHooks p) (whenever (decide (1 ≤ (s.port p).pulses)) (bump (Ctr.digitsAbandoned p))
        (disarmed p s)))) := by
  have hstate : ((bump (Ctr.onHooks p) (whenever (decide (1 ≤ (s.port p).pulses)) (bump (Ctr.digitsAbandoned p))
      (disarmed p s))).port p).state = .inCall := by
    rw [port_congr (s := disarmed p s) (by simp), port_disarmed]
    exact h
  have hfires : onHookEvent p s = onHookTaken p (bump (Ctr.onHooks p)
      (whenever (decide (1 ≤ (s.port p).pulses)) (bump (Ctr.digitsAbandoned p)) (disarmed p s))) :=
    if_pos (armedWith_of h hc)
  rw [hfires]
  simp only [onHookTaken, hstate]

theorem isHold_eq (l : LinkState) : l.isHold = (l == .riding || l == .retraining) := by cases l <;> rfl

/-- The data floor that waits takes effect when the bound holds for the one slot that is left (R59). -/
theorem lbu_freeSlot_other (ho : (s.call n.other).state ≠ .free) (cause : Cause) : (freeSlot n cause s).lbu =
    s.lbu.pendingFloor.elim s.lbu fun d =>
      if s.ls.link = .carrying ∧ s.lbu.size.voiceBlocks + 1 + d ≤ s.lbu.sustained then
        { s.lbu with floor := d, pendingFloor := none } else s.lbu := by
  have hfree : ((onCall n (fun c => c.freed cause s.ls.link.isHold) s).call n).state = .free := by
    rw [call_onCall_same]
    rfl
  have hres : (onCall n (fun c => c.freed cause s.ls.link.isHold) s).reserved = 1 :=
    reserved_eq_one hfree (by rw [call_onCall_other]; exact ho)
  have hbound : ∀ d, (onCall n (fun c => c.freed cause s.ls.link.isHold) s).boundHolds d = true ↔
      s.lbu.size.voiceBlocks + 1 + d ≤ s.lbu.sustained := fun d => by
    rw [boundHolds_eq, hres, Nat.one_mul]
    simp
  have hcarry : (onCall n (fun c => c.freed cause s.ls.link.isHold) s).carrying = true ↔ s.ls.link = .carrying := beq_iff_eq
  rw [lbu_freeSlot, floorCheck_lbu]
  simp only [hcarry, hbound]
  rfl

/-- Settles O43: the compare fires, the last port is detached, and the slot is freed before the port goes IDLE. -/
theorem lastOnHookEndsTheCall : Obligations.LastOnHookEndsTheCall := by
  intro s p n value h hc hn hlast hused ho hroom
  have hevent := onHookEvent_inCall h hc
  generalize hv : bump (Ctr.onHooks p) (whenever (decide (1 ≤ (s.port p).pulses)) (bump (Ctr.digitsAbandoned p))
    (disarmed p s)) = v at hevent
  obtain ⟨vppu, vcc, vls, vlbu, vmdu⟩ : v.ppu = (disarmed p s).ppu ∧ v.cc = s.cc ∧ v.ls = s.ls ∧ v.lbu = s.lbu ∧
      v.mdu = s.mdu := by
    rw [← hv]
    exact ⟨by simp, by simp [disarmed], by simp [disarmed], by simp [disarmed], by simp [disarmed]⟩
  have hpulses : countsOnly [Ctr.digitsAbandoned p] s
      (whenever (decide (1 ≤ (s.port p).pulses)) (bump (Ctr.digitsAbandoned p)) (disarmed p s)) :=
    ((countsOnly.refl _ s).congr (u := disarmed p s) rfl).whenever fun w => (countsOnly.refl _ w).bump (by simp)
  have vcount : counted (Ctr.onHooks p) 1 s v := by
    rw [← hv]
    exact counted_after hpulses (by cases p <;> decide) (counter_bump_same _ _)
  have vcounts : countsOnly [Ctr.onHooks p, Ctr.digitsAbandoned p] s v := by
    rw [← hv]
    exact (hpulses.mono (by simp)).bump (by simp)
  have vch : changesOnly [.budget, .phones, .calls, .media, .counters] s v := by
    rw [← hv]
    simp [changesOnly_iff, disarmed]
  have vcall := call_congr vcc
  have hdetach := detach_last (s := v) (p := p) (n := n) (by rw [slotOf_congr vcc]; exact hn)
    (by rw [vcall, hlast]; rfl)
  generalize hu : onCall n (fun c => { c with attached := (v.call n).attached.put p false }) v = u at hdetach
  have ucall : u.call n = { s.call n with attached := (s.call n).attached.put p false } := by
    rw [← hu, call_onCall_same, vcall]
  have uother : u.call n.other = s.call n.other := by rw [← hu, call_onCall_other, vcall]
  obtain ⟨he, fcall, fother, fmedia, fcounts⟩ :=
    freed_facts (s := u) (n := n) (by rw [ucall]; exact hroom) (by rw [uother]; exact ho) .normal
  have flbu := lbu_freeSlot_other (s := u) (n := n) (by rw [uother]; exact ho) .normal
  rw [← hdetach] at he fcall fother fmedia fcounts
  obtain ⟨uls, ulbu, umdu, ucounters⟩ : u.ls = s.ls ∧ u.lbu = s.lbu ∧ u.mdu = s.mdu ∧ u.counters = v.counters := by
    rw [← hu]
    exact ⟨vls, vlbu, vmdu, rfl⟩
  rw [ulbu, uls] at flbu
  rw [ucall, uls, isHold_eq] at fcall
  have hcounts : countsOnly [Ctr.staleVoice] v (toIdle p (detach p v)) :=
    (((countsOnly.refl _ v).congr ucounters).trans fcounts).congr (by simp)
  refine ⟨_, congrArg Host.Outcome.next hevent, ?_, ?_, ?_, ?_, ?_, ?_, ?_, vch.trans ?_, ?_⟩
  · rw [port_toIdle, port_congr (detach_frame _ _).2.1, port_congr vppu, port_disarmed]
    rfl
  · rw [(toIdle_onlyPort p _).other, port_congr (detach_frame _ _).2.1, port_congr vppu, (disarmed_onlyPort p s).other]
  · rw [call_congr (s := detach p v) (by simp), fcall]
  · rw [call_congr (s := detach p v) (by simp), fother, uother]
  · rw [media_congr (mdu_toIdle p _), fmedia, media_congr umdu]
  · have hlbu : (toIdle p (detach p v)).lbu = (freeSlot n .normal u).lbu := by
      rw [he]
      simp [signalled]
    rw [hlbu, flbu]
    cases s.lbu.pendingFloor <;> rfl
  · exact counted_then vcount hcounts (by cases p <;> decide)
  · rw [he, ← hu]
    simp [changesOnly_iff, signalled]
  · exact (vcounts.mono (by simp)).trans (hcounts.mono (by simp))

/-- Ports that ring alone stopped: those of the set that ring go IDLE (R107). -/
theorem stopRinging_apart (h : s.ppu.pair = .apart) (p : Port) :
    ((stopRinging p s).port p = if (s.port p).state = .ringing then (s.port p).silent .idle else s.port p) ∧
    onlyPort p s (stopRinging p s) := by
  unfold stopRinging
  split
  · next hr =>
    rw [unpair_apart ((toIdle_onlyPort p s).pair.trans h)]
    exact ⟨port_toIdle p s, toIdle_onlyPort p s⟩
  · exact ⟨rfl, .refl p s⟩

theorem stopRingingIf_apart (h : s.ppu.pair = .apart) (p q : Port) (b : Bool) :
    ((whenever b (stopRinging p) s).port q =
      if (p = q ∧ b = true) ∧ (s.port q).state = .ringing then (s.port q).silent .idle else s.port q) ∧
    (whenever b (stopRinging p) s).ppu.pair = .apart := by
  obtain ⟨hsame, honly⟩ := stopRinging_apart h p
  cases b with
  | false => exact ⟨by simp [whenever], h⟩
  | true =>
    refine ⟨?_, honly.pair.trans h⟩
    show (stopRinging p s).port q = _
    rcases Port.eq_or_eq_other p q with rfl | rfl
    · rw [hsame]
      simp
    · rw [honly.other, if_neg fun hc => Port.ne_other p hc.1.1]

theorem port_stopAll_apart (h : s.ppu.pair = .apart) (ports : PortSet) (q : Port) : (stopAll ports s).port q =
    if ports.has q = true ∧ (s.port q).state = .ringing then
      { s.port q with state := .idle, chan := none, tone := none, park := none, trip := 0 } else s.port q := by
  obtain ⟨hfirst, hpair⟩ := stopRingingIf_apart h .a q ports.a
  obtain ⟨hsecond, -⟩ := stopRingingIf_apart hpair .b q ports.b
  unfold stopAll
  cases q with
  | a =>
    rw [hsecond, if_neg (by simp), hfirst]
    exact if_congr (by simp [PortSet.has]) rfl rfl
  | b =>
    have hkept : (whenever ports.a (stopRinging .a) s).port .b = s.port .b := by rw [hfirst, if_neg (by simp)]
    rw [hsecond, hkept]
    exact if_congr (by simp [PortSet.has]) rfl rfl

/-- Ports that stop ringing leave the media alone. -/
theorem mdu_stopAll (ports : PortSet) (s : State) : (stopAll ports s).mdu = s.mdu := by
  have hstop : ∀ (q : Port) (b : Bool) (v : State), (whenever b (stopRinging q) v).mdu = v.mdu := fun q b v => by
    cases b with
    | false => rfl
    | true =>
      show (stopRinging q v).mdu = v.mdu
      unfold stopRinging
      split
      · rw [(unpair_frame _ _).2.2.2.2.2.2.2.1, mdu_toIdle]
      · rfl
  unfold stopAll
  rw [hstop, hstop]

/-- Handsets that are down take no off-hook. -/
theorem takeLifted_down {ports : PortSet} (h : ∀ q, ports.has q = true → (s.port q).closed = false) : takeLifted ports s = s := by
  have hone : ∀ (q : Port) (b : Bool), ports.has q = b → whenever b (takeIfLifted q) s = s := fun q b hb => by
    cases b with
    | false => rfl
    | true => exact takeIfLifted_down (h q hb)
  unfold takeLifted
  rw [hone .a ports.a rfl, hone .b ports.b rfl]

/-- Settles O46: the ports stop, the slot is freed with its CLEAR, and no handset is lifted. -/
theorem alertLimitEndsTheCall : Obligations.AlertLimitEndsTheCall := by
  intro s n h halert ho hpair hdown hroom hfloor
  have hevent : alertEvent n s = alertLimit n s := if_pos ⟨h, Option.isSome_iff_ne_none.2 halert⟩
  have hport := port_stopAll_apart hpair (s.call n).ringSet
  generalize hu : stopAll (s.call n).ringSet s = u at hport
  have hlimit : alertLimit n s = takeLifted (s.call n).ringSet (reportIfIdle (bump Ctr.alertsUnanswered
      (queueSignal n (.clear .noAnswer) (freeSlot n .noAnswer u)))) := by
    rw [← hu]
    rfl
  obtain ⟨ucc, uls, ulbu, umdu, ucounters, uch⟩ : u.cc = s.cc ∧ u.ls = s.ls ∧ u.lbu = s.lbu ∧ u.mdu = s.mdu ∧
      u.counters = s.counters ∧ changesOnly [.phones, .calls, .media, .counters] s u := by
    rw [← hu]
    exact ⟨by simp, by simp, by simp, mdu_stopAll _ _, by simp, by simp [changesOnly_iff]⟩
  have ucall := call_congr ucc
  obtain ⟨he, fcall, fother, fmedia, fcounts⟩ :=
    freed_facts (s := u) (n := n) (by rw [ucall]; exact hroom) (by rw [ucall]; exact ho) .noAnswer
  have flbu : (freeSlot n .noAnswer u).lbu = s.lbu := by
    rw [lbu_freeSlot_other (by rw [ucall]; exact ho), ulbu, hfloor]
    rfl
  generalize hf : reportIfIdle (queueSignal n (.clear .noAnswer) (freeSlot n .noAnswer u)) = f at *
  have hsignal : queueSignal n (.clear .noAnswer) (freeSlot n .noAnswer u) = f := by
    rw [he]
    exact queueSignal_room (by
      have hcall := call_freeSlot n n .noAnswer u
      rw [if_pos rfl, ucall] at hcall
      rw [hcall]
      exact hroom) _
  have fppu : f.ppu = u.ppu := by rw [he]; simp [signalled]
  have hreport : reportIfIdle (bump Ctr.alertsUnanswered f) = bump Ctr.alertsUnanswered f :=
    reportIfIdle_used (inUse_of_other (n := n) (by
      show (f.call n.other).state ≠ .free
      rw [fother, ucall]
      exact ho))
  have hlifted : takeLifted (s.call n).ringSet (bump Ctr.alertsUnanswered f) = bump Ctr.alertsUnanswered f :=
    takeLifted_down fun q hq => by
      rw [port_bump, port_congr fppu, hport]
      split <;> exact hdown q hq
  rw [hlimit, hsignal, hreport, hlifted] at hevent
  rw [ucall, uls, isHold_eq] at fcall
  have fonly : countsOnly [Ctr.staleVoice] s f := ((countsOnly.refl _ s).congr ucounters).trans fcounts
  refine ⟨_, congrArg Host.Outcome.next hevent, fcall, fother.trans (ucall _), fmedia.trans (by rw [media_congr umdu]), fun q => ?_,
    counted_after fonly (by decide) (counter_bump_same _ _), uch.trans ?_, (fonly.mono (by simp)).bump (by simp)⟩
  · rw [port_bump, port_congr fppu, hport]
  · have hlbu : f.lbu = u.lbu := by rw [ulbu, ← flbu, he]; simp [signalled]
    have hsame : changesOnly [.budget, .phones, .calls, .media, .counters] u (bump Ctr.alertsUnanswered f) := by
      rw [he]
      simp [changesOnly_iff, signalled]
    exact hsame.drop hlbu

end Sys2Proof.Machine

/-! PROOFS. O34 and O35: a voice frame and a probe delivered from the line. -/

namespace Sys2Proof.Machine

variable {s t u v w : State} {n : Slot}

/-! ## A frame delivered to a slot (R15) -/

theorem deliver_signal (n : Slot) (codes : Bytes) (s : State) :
    deliver n.chan (1 :: codes) s = signalArrives n (1 :: codes) (bump (Ctr.framesDelivered n.chan) s) := by
  cases n <;> rfl

theorem deliver_media (n : Slot) (codes : Bytes) (s : State) :
    deliver n.chan (2 :: codes) s = mediaArrives n (2 :: codes) (bump (Ctr.framesDelivered n.chan) s) := by
  cases n <;> rfl

/-! ## A voice frame (R134, R135) -/

/-- A frame that the playout has taken, counted in the Call Table. -/
def voiceCounted (n : Slot) (s : State) : State := onCall n (fun k => { k with received := satAdd Config.max32 k.received 1 }) s

/-- What stands in the record of a slot whose playout is `m` now. -/
theorem voiceCounted_facts {m : MediaSlot} (hm : w.mdu = (onMedia n (fun _ => m) s).mdu) (hcc : w.cc = s.cc)
    (hch : changesOnly [.calls, .media, .counters] s w) :
    (voiceCounted n w).media n = m ∧ (voiceCounted n w).media n.other = s.media n.other ∧
    (voiceCounted n w).mdu = { s.mdu with slots := (voiceCounted n w).mdu.slots } ∧
    (voiceCounted n w).call n = { s.call n with received := min ((s.call n).received + 1) Config.max32 } ∧
    (voiceCounted n w).call n.other = s.call n.other ∧ (voiceCounted n w).cc.stamp = s.cc.stamp ∧
    changesOnly [.calls, .media, .counters] s (voiceCounted n w) := by
  refine ⟨?_, ?_, ?_, ?_, ?_, ?_, hch.trans (by simp [changesOnly_iff, voiceCounted])⟩
  · exact (media_congr (s := onMedia n (fun _ => m) s) hm n).trans (media_onMedia_same s n _)
  · exact (media_congr (s := onMedia n (fun _ => m) s) hm n.other).trans
      ((media_onMedia s n n.other _).trans (if_neg (slot_ne_other n)))
  · show w.mdu = { s.mdu with slots := w.mdu.slots }
    rw [hm]
    rfl
  · rw [voiceCounted, call_onCall_same, call_congr hcc]
    rfl
  · rw [voiceCounted, call_onCall_other, call_congr hcc]
  · show w.cc.stamp = _
    rw [hcc]

theorem mdu_onMedia_self (n : Slot) (s : State) : (onMedia n (fun _ => s.media n) s).mdu = s.mdu := by
  cases n <;> rfl

theorem mediaArrives_length {frame : Bytes} (h : frame.length ≠ 84) : mediaArrives n frame s = bump Ctr.badMediaLength s :=
  if_pos h

theorem mediaArrives_off {frame : Bytes} (h : frame.length = 84) (hp : (s.media n).play = .off) :
    mediaArrives n frame s = bump (Ctr.mediaWithoutCall n) s := (if_neg (not_not_intro h)).trans (if_pos hp)

theorem mediaArrives_taken {flags hi lo : Byte} {codes : Bytes} (h : codes.length = 80) (hp : (s.media n).play ≠ .off) :
    mediaArrives n ([2, flags, hi, lo] ++ codes) s = voiceCounted n (playArrival n (flags.getLsbD 0)
      { seq := hi ++ lo, silent := flags.getLsbD 1, codes := codes } s) := by
  have hlen : ¬ ([2, flags, hi, lo] ++ codes).length ≠ 84 := by simp [h]
  have h0 : flags.getLsbD 0 = (flags.toNat % 2 == 1) := (testBit_eq flags 0).trans (by rw [Nat.pow_zero, Nat.div_one])
  rw [h0, testBit_eq flags 1]
  exact (if_neg hlen).trans (if_neg hp)

theorem playArrival_resume (f : RingFrame) (s : State) :
    playArrival n true f s = bump (Ctr.resumes n) (onMedia n (fun _ => (s.media n).restart f) s) := rfl

theorem playArrival_first {f : RingFrame} (h : (s.media n).base = none) : playArrival n false f s =
    onMedia n (fun _ => ({ s.media n with base := some f.seq, age := 0 } : MediaSlot).store f) s := by
  simp only [playArrival, h]
  rfl

section
variable {f : RingFrame} {b : Half} (hb : (s.media n).base = some b)
include hb

theorem playArrival_near (hd : (f.seq - b).toNat ≤ 15) : playArrival n false f s =
    if (s.media n).holdsSeq f.seq = true then bump (Ctr.duplicates n) s
    else onMedia n (fun _ => (s.media n).store f) s := by
  simp only [playArrival, hb]
  exact if_pos hd

theorem playArrival_overrun (hd : 16 ≤ (f.seq - b).toNat) (hd' : (f.seq - b).toNat ≤ 32767) : playArrival n false f s =
    bump (Ctr.overruns n) (onMedia n (fun _ => (s.media n).restart f) s) := by
  have hfar : ¬ (f.seq - b).toNat ≤ 15 := by omega
  simp only [playArrival, hb]
  exact (if_neg hfar).trans (if_pos hd')

theorem playArrival_late (hd : 32768 ≤ (f.seq - b).toNat) : playArrival n false f s = bump (Ctr.lateFrames n) s := by
  have hfar : ¬ (f.seq - b).toNat ≤ 15 := by omega
  have hlate : ¬ (f.seq - b).toNat ≤ 32767 := by omega
  simp only [playArrival, hb]
  exact (if_neg hfar).trans (if_neg hlate)

end

theorem holdsSeq_iff (m : MediaSlot) (q : Half) :
    m.holdsSeq q = true ↔ ∃ g, vget m.ring (Fin.ofNat 16 q.toNat) = some g ∧ g.seq = q := by
  unfold MediaSlot.holdsSeq ringPos
  cases vget m.ring (Fin.ofNat 16 q.toNat) with
  | none => simp
  | some g => simp

theorem bump_counters_congr (h : t.counters = s.counters) (c : Counter) : (bump c t).counters = (bump c s).counters := by
  simp only [bump, bumpBy, h]

/-- A counter moved once and no other, after the delivery was counted. -/
theorem countsOnce {c : Counter} {d : Counter} (hcd : c ≠ d) (h : t.counters = (bump c (bump d s)).counters) :
    counted c 1 s t ∧ countsOnly [c, d] s t := by
  have hbump : countsOnly [d] s (bump d s) := (countsOnly.refl _ s).bump (by simp)
  refine ⟨?_, ?_⟩
  · exact (counter_congr h c).trans (counted_after hbump (by simpa using hcd) (counter_bump_same _ _))
  · exact (((countsOnly.refl [c, d] s).bump (by simp)).bump (by simp)).congr h

/-- Settles O34: the checks in order, and then the distance of the frame from the base. -/
theorem voiceFramesFillTheRing : Obligations.VoiceFramesFillTheRing := by
  intro s n flags hi lo codes f t m q frame at_ restarted counts taken
  generalize hv : bump (Ctr.framesDelivered n.chan) s = v
  have ht : t = mediaArrives n ([2, flags, hi, lo] ++ codes) v := by
    rw [← hv]
    exact deliver_media n _ s
  have vmedia : ∀ k, v.media k = s.media k := fun k => by rw [← hv]; rfl
  have vonly : countsOnly [Ctr.framesDelivered n.chan] s v := by
    rw [← hv]
    exact (countsOnly.refl _ s).bump (by simp)
  have vch : changesOnly [.counters] s v := by
    rw [← hv]
    simp [changesOnly_iff]
  have hset : ∀ u : MediaSlot, (onMedia n (fun _ => u) v).mdu = (onMedia n (fun _ => u) s).mdu := fun u => by rw [← hv]; rfl
  have hcc : v.cc = s.cc := by rw [← hv]; rfl
  have hmdu : v.mdu = s.mdu := by rw [← hv]; rfl
  refine ⟨fun hl => ?_, fun hl hp => ?_, fun hl hp => ?_⟩
  · rw [mediaArrives_length (by simpa using hl)] at ht
    exact ⟨countsOnce (by cases n <;> decide) (by rw [ht, ← hv]), by rw [ht]; exact vch.trans (by simp [changesOnly_iff])⟩
  · rw [mediaArrives_off (by simp [hl]) (by rw [vmedia]; exact hp)] at ht
    exact ⟨countsOnce (by cases n <;> decide) (by rw [ht, ← hv]), by rw [ht]; exact vch.trans (by simp [changesOnly_iff])⟩
  rw [mediaArrives_taken hl (by rw [vmedia]; exact hp)] at ht
  have htaken : ∀ {u : MediaSlot} {w : State}, t = voiceCounted n w → w.mdu = (onMedia n (fun _ => u) s).mdu → w.cc = s.cc →
      changesOnly [.calls, .media, .counters] s w → taken u := fun hw hm hc hch => by
    have hfacts := voiceCounted_facts hm hc hch
    rw [← hw] at hfacts
    exact hfacts
  have hstored : ∀ (u : MediaSlot) (c : Counter), t = voiceCounted n (bump c (onMedia n (fun _ => u) v)) → taken u := fun u c hw =>
    htaken hw (hset u) hcc ((vch.mono (by simp)).trans (by simp [changesOnly_iff]))
  have hplain : ∀ u : MediaSlot, t = voiceCounted n (onMedia n (fun _ => u) v) →
      taken u ∧ countsOnly [Ctr.framesDelivered n.chan] s t := fun u hw =>
    ⟨htaken hw (hset u) hcc ((vch.mono (by simp)).trans (by simp [changesOnly_iff])), by rw [hw]; exact vonly.congr rfl⟩
  have hleft : ∀ c : Counter, t = voiceCounted n (bump c v) → taken m := fun c hw =>
    htaken hw ((congrArg State.mdu hv).symm.trans (mdu_onMedia_self n s).symm) hcc
      ((vch.mono (by simp)).trans (by simp [changesOnly_iff]))
  have hcounts : ∀ (c : Counter) (w : State), c ≠ Ctr.framesDelivered n.chan → t = voiceCounted n (bump c w) →
      w.counters = v.counters → counts c := fun c w hne hw hcw =>
    countsOnce hne (by
      rw [hw, hv]
      exact bump_counters_congr hcw c)
  refine ⟨fun hr => ?_, fun hr hb => ?_, fun hr b hb => ⟨fun hd hh => ?_, fun hd hh => ?_, fun hd hd' => ?_, fun hd => ?_⟩⟩
  · rw [hr, playArrival_resume, vmedia] at ht
    exact ⟨hstored _ _ ht, hcounts _ _ (by cases n <;> decide) ht rfl⟩
  · rw [hr, playArrival_first (by rw [vmedia]; exact hb), vmedia] at ht
    exact hplain _ ht
  · rw [hr, playArrival_near (b := b) (by rw [vmedia]; exact hb) hd, vmedia, if_pos ((holdsSeq_iff _ _).2 hh)] at ht
    exact ⟨hleft _ ht, hcounts _ _ (by cases n <;> decide) ht rfl⟩
  · rw [hr, playArrival_near (b := b) (by rw [vmedia]; exact hb) hd, vmedia, if_neg fun h => hh ((holdsSeq_iff _ _).1 h)] at ht
    exact hplain _ ht
  · rw [hr, playArrival_overrun (b := b) (by rw [vmedia]; exact hb) hd hd', vmedia] at ht
    exact ⟨hstored _ _ ht, hcounts _ _ (by cases n <;> decide) ht rfl⟩
  · rw [hr, playArrival_late (b := b) (by rw [vmedia]; exact hb) hd] at ht
    exact ⟨hleft _ ht, hcounts _ _ (by cases n <;> decide) ht rfl⟩

/-! ## A probe (R193, R194) -/

theorem isProbe_iff (frame : Bytes) : isProbe frame = true ↔ 4 ≤ frame.length ∧ frame.getD 0 0 = 0x41 ∧
    (frame.getD 1 0).toNat ≤ 200 ∧ frame.length = (frame.getD 1 0).toNat + 4 := by
  simp only [isProbe, Bool.and_eq_true, decide_eq_true_eq, beq_iff_eq, and_assoc]

/-- The place that an older reply leaves: it is counted, and its frame is cut short if it is in progress (R194). -/
def replyReplaced (s : State) : State :=
  whenever s.tr.probe.isSome (fun s => s |> cutShort 14 (fun src => src == .probe) |> bump Ctr.probeReplaced) s

theorem probeArrives_probe {frame : Bytes} (h : isProbe frame = true) (s : State) : probeArrives frame s =
    bump Ctr.probesAnswered (onTr (fun t => { t with probe := some (s.probeReply frame) }) (replyReplaced s)) := if_pos h

theorem probeArrives_other {frame : Bytes} (h : ¬ isProbe frame = true) (s : State) :
    probeArrives frame s = bump Ctr.badProbes s := if_neg h

/-- A frame in progress is a probe reply. -/
theorem any_probe_iff (o : Option Sending) :
    (o.any fun sd => sd.source == .probe) = true ↔ o.map Sending.source = some .probe := by
  cases o <;> simp

theorem replyReplaced_facts (s : State) :
    (∀ c, (replyReplaced s).chan c = if c = 14 ∧ s.tr.probe ≠ none ∧ (s.chan 14).seg.map Sending.source = some .probe then
      { s.chan 14 with seg := none } else s.chan c) ∧ (replyReplaced s).bf.loopStore = s.bf.loopStore ∧
    countedIf (s.tr.probe ≠ none) Ctr.probeReplaced 1 s (replyReplaced s) ∧
    countedIf (s.tr.probe ≠ none ∧ (s.chan 14).seg.map Sending.source = some .probe) Ctr.framesCutShort 1 s (replyReplaced s) ∧
    countsOnly [Ctr.probeReplaced, Ctr.framesCutShort] s (replyReplaced s) ∧ (replyReplaced s).tr = s.tr ∧
    changesOnly [.framer, .tests, .counters] s (replyReplaced s) := by
  cases hp : s.tr.probe with
  | none =>
    have he : replyReplaced s = s := by
      unfold replyReplaced
      rw [hp]
      rfl
    rw [he]
    exact ⟨fun c => by simp, rfl, ⟨by simp, fun _ => rfl⟩, ⟨by simp, fun _ => rfl⟩, .refl _ s, rfl, .refl _ s⟩
  | some r =>
    have he : replyReplaced s = bump Ctr.probeReplaced (cutShort 14 (fun src => src == .probe) s) := by
      unfold replyReplaced
      rw [hp]
      rfl
    have honly := cutShort_countsOnly 14 (fun src => src == .probe) s
    have hbump : countsOnly [Ctr.probeReplaced] (cutShort 14 (fun src => src == .probe) s)
        (bump Ctr.probeReplaced (cutShort 14 (fun src => src == .probe) s)) := (countsOnly.refl _ _).bump (by simp)
    have hcut := countedIf_then (cutShort_counted 14 (fun src => src == .probe) s) hbump (by decide)
    rw [he]
    refine ⟨fun c => ?_, loopStore_cutShort _ _ s,
      ⟨fun _ => counted_after honly (by decide) (counter_bump_same _ _), fun h => absurd (by simp) h⟩, ?_,
      (honly.mono (by simp)).bump (by simp), by simp, by simp [changesOnly_iff]⟩
    · refine (chan_cutShort 14 c _ s).trans (if_congr ?_ rfl rfl)
      rw [any_probe_iff]
      simp
    · refine (countedIf_congr ?_).1 hcut
      rw [any_probe_iff]
      simp

/-- Settles O35: a probe's reply is taken from the state, and takes the place of an older one. -/
theorem probesAreAnswered : Obligations.ProbesAreAnswered := by
  intro s frame t probe
  generalize hv : bump (Ctr.framesDelivered 14) s = v
  have ht : t = probeArrives frame v := by rw [← hv]; rfl
  have vcount : counted (Ctr.framesDelivered 14) 1 s v := by
    rw [← hv]
    exact counter_bump_same _ _
  have vonly : countsOnly [Ctr.framesDelivered 14] s v := by
    rw [← hv]
    exact (countsOnly.refl _ s).bump (by simp)
  have vch : changesOnly [.counters] s v := by
    rw [← hv]
    simp [changesOnly_iff]
  have htr : v.tr = s.tr := by rw [← hv]; rfl
  have hbf : v.bf = s.bf := by rw [← hv]; rfl
  refine ⟨fun h => ?_, fun h => ?_⟩
  · intro reply
    obtain ⟨rchan, rstore, rreplaced, rcut, ronly, rtr, rch⟩ := replyReplaced_facts v
    have hreply : v.probeReply frame = reply := by
      have hcrc : v.counter Ctr.crcBad = s.counter Ctr.crcBad := vonly _ (by decide)
      have hls : v.ls = s.ls := by rw [← hv]; rfl
      have hfu : v.fu = s.fu := by rw [← hv]; rfl
      rw [State.probeReply, State.lineReport, hls, hfu, hcrc]
      simp only [reply, List.append_assoc]
    rw [probeArrives_probe ((isProbe_iff frame).2 h), hreply] at ht
    rw [htr] at rreplaced
    rw [htr, chan_congr hbf] at rcut
    have hbefore : countsOnly [Ctr.framesDelivered 14, Ctr.probeReplaced, Ctr.framesCutShort] s (replyReplaced v) :=
      (vonly.mono (by simp)).trans (ronly.mono (by simp))
    have hafter : countsOnly [Ctr.probesAnswered] (replyReplaced v) t := by
      rw [ht]
      exact ((countsOnly.refl _ _).congr (u := onTr _ (replyReplaced v)) rfl).bump (by simp)
    have hdelivered : countsOnly [Ctr.probeReplaced, Ctr.framesCutShort, Ctr.probesAnswered] v t :=
      (ronly.mono (by simp)).trans (hafter.mono (by simp))
    have tbf : t.bf = (replyReplaced v).bf := by rw [ht]; rfl
    refine ⟨?_, fun c => ?_, ?_, ?_, ?_, ?_, counted_then vcount hdelivered (by decide), ?_, ?_⟩
    · rw [ht]
      show ({ (replyReplaced v).tr with probe := some reply } : TestResponder) = _
      rw [rtr, htr]
    · rw [chan_congr tbf, rchan, htr, chan_congr hbf, chan_congr hbf]
    · rw [tbf, rstore, hbf]
    · rw [ht]
      exact counted_after hbefore (by decide) (counter_bump_same _ _)
    · exact countedIf_after vonly (by decide) (countedIf_then rreplaced hafter (by decide))
    · exact countedIf_after vonly (by decide) (countedIf_then rcut hafter (by decide))
    · rw [ht]
      exact ((vch.mono (by simp)).trans rch).trans (by simp [changesOnly_iff])
    · exact (vonly.mono (by simp)).trans (hdelivered.mono (by simp))
  · rw [probeArrives_other fun hp => h ((isProbe_iff frame).1 hp)] at ht
    rw [ht]
    exact ⟨counted_after vonly (by decide) (counter_bump_same _ _), vch.trans (by simp [changesOnly_iff]),
      (vonly.mono (by simp)).bump (by simp)⟩

end Sys2Proof.Machine

/-! PROOFS. O11 and O12: the blocks of a period in the grant order, and the account the two carries keep. -/

namespace Sys2Proof.Machine

variable {s t u : State}

/-! ## What the grant of slots leaves as it was (R61 to R67) -/

/-- Every queue that the grant order serves stays empty if it is: nothing joins one during the grant. -/
structure Drains (s t : State) : Prop where
  priority : s.qm.priority = [] → t.qm.priority = []
  bulk : s.qm.bulk = [] → t.qm.bulk = []
  replies : s.qm.replies = [] → t.qm.replies = []
  notices : s.fu.exchList = [] → t.fu.exchList = []
  probe : s.tr.probe = none → t.tr.probe = none
  looped : s.bf.loopStore = [] → t.bf.loopStore = []
  signals : ∀ n, (s.call n).signals = [] → (t.call n).signals = []

/-- The counters that the period start moves (R52, R70). -/
def grantCounters : List Counter :=
  [Ctr.grantedUrgent, Ctr.grantedVoice, Ctr.grantedControl, Ctr.grantedTest, Ctr.grantedData, Ctr.grantedOperations,
   Ctr.fillSent, Ctr.staleVoice, Ctr.periodsCarried, Ctr.emptyPeriods]

/-- By how much each of these counters has moved; one that has not is as it was. -/
def tallied (m : Counter → Nat) (s t : State) : Prop :=
  ∀ c ∈ grantCounters, countedIf (m c ≠ 0) c (m c) s t

/-- One counter's share of a tally. -/
def only (c : Counter) (k : Nat) : Counter → Nat := fun d => if d = c then k else 0

/-- What no slot of the grant order touches, whatever it is handed to, and by how much the counters of the grants move. -/
structure Grants (m : Counter → Nat) (s t : State) : Prop where
  rest : grantRest t = grantRest s
  faults : t.fu = { s.fu with exchList := t.fu.exchList }
  home : t.qm.fifo = s.qm.fifo ∧ t.qm.homeUp = s.qm.homeUp
  calls : ∀ n, t.call n = { s.call n with signals := (t.call n).signals, sent := (t.call n).sent }
  test : t.tr.test = s.tr.test
  drains : Drains s t
  counts : tallied m s t

theorem Drains.refl (s : State) : Drains s s := ⟨id, id, id, id, id, id, fun _ => id⟩

theorem Drains.trans (h : Drains s t) (k : Drains t u) : Drains s u :=
  ⟨k.priority ∘ h.priority, k.bulk ∘ h.bulk, k.replies ∘ h.replies, k.notices ∘ h.notices, k.probe ∘ h.probe,
   k.looped ∘ h.looped, fun n => k.signals n ∘ h.signals n⟩

theorem satAdd_add (m a j k : Nat) : satAdd m (satAdd m a j) k = satAdd m a (j + k) := by
  unfold satAdd
  omega

theorem countedIf_ne_zero {c : Counter} {k : Nat} :
    countedIf (k ≠ 0) c k s t ↔ t.counter c = if k = 0 then s.counter c else satAdd Config.max32 (s.counter c) k := by
  unfold countedIf counted
  by_cases h : k = 0 <;> simp [h]

theorem tallied.refl (s : State) : tallied (fun _ => 0) s s := fun _ _ => ⟨fun h => absurd rfl h, fun _ => rfl⟩

theorem tallied.trans {m m' : Counter → Nat} (h : tallied m s t) (k : tallied m' t u) :
    tallied (fun c => m c + m' c) s u := by
  intro c hc
  have h1 := countedIf_ne_zero.1 (h c hc)
  have h2 := countedIf_ne_zero.1 (k c hc)
  rw [countedIf_ne_zero, h2, h1]
  by_cases e : m c = 0 <;> by_cases e' : m' c = 0 <;> simp [e, e', satAdd_add]

theorem tallied_of_countsOnly {cs : List Counter} (h : countsOnly cs s t) (hd : ∀ c ∈ grantCounters, c ∉ cs) :
    tallied (fun _ => 0) s t := fun c hc => ⟨fun h => absurd rfl h, fun _ => h c (hd c hc)⟩

theorem tallied_bumpBy (c : Counter) {k : Nat} (hk : k ≠ 0) (s : State) : tallied (only c k) s (bumpBy c k s) := by
  intro d _
  rw [countedIf_ne_zero, counter_bumpBy]
  unfold only
  by_cases h : d = c
  · simp [h, hk]
  · simp [h, Ne.symm h]

theorem Grants.refl (s : State) : Grants (fun _ => 0) s s :=
  ⟨rfl, rfl, ⟨rfl, rfl⟩, fun _ => rfl, rfl, .refl s, .refl s⟩

theorem Grants.trans {m m' : Counter → Nat} (h : Grants m s t) (k : Grants m' t u) : Grants (fun c => m c + m' c) s u where
  rest := k.rest.trans h.rest
  faults := by rw [k.faults, h.faults]
  home := ⟨k.home.1.trans h.home.1, k.home.2.trans h.home.2⟩
  calls n := by rw [k.calls n, h.calls n]
  test := k.test.trans h.test
  drains := h.drains.trans k.drains
  counts := h.counts.trans k.counts

/-- Counters that are no part of the tally, the framer's channels and the outputs: the tally of nothing. -/
theorem grants_of_pieces (s t : State) (hp : t.pending = s.pending) (hls : t.ls = s.ls) (hme : t.me = s.me) (hppu : t.ppu = s.ppu)
    (hdu : t.du = s.du) (hclock : t.clock = s.clock) (hfree : t.free = s.free) (hqm : t.qm = s.qm) (hcc : t.cc = s.cc)
    (htr : t.tr = s.tr) (hfu : t.fu = s.fu) (hstore : s.bf.loopStore = [] → t.bf.loopStore = [])
    {m : Counter → Nat} (hc : tallied m s t) : Grants m s t where
  rest := by simp only [grantRest, hp, hls, hme, hppu, hdu, hclock, hfree]
  faults := by rw [hfu]
  home := by rw [hqm]; exact ⟨rfl, rfl⟩
  calls n := by rw [call_congr hcc]
  test := by rw [htr]
  drains := ⟨by rw [hqm]; exact id, by rw [hqm]; exact id, by rw [hqm]; exact id, by rw [hfu]; exact id, by rw [htr]; exact id,
    hstore, fun n => by rw [call_congr hcc]; exact id⟩
  counts := hc

theorem grants_onChan (c : Chan) (f : Channel → Channel) (s : State) : Grants (fun _ => 0) s (onChan c f s) :=
  grants_of_pieces s (onChan c f s) rfl rfl rfl rfl rfl rfl rfl rfl rfl rfl rfl id (.refl s)

theorem grants_bumpBy (c : Counter) {k : Nat} (hk : k ≠ 0) (s : State) : Grants (only c k) s (bumpBy c k s) :=
  grants_of_pieces s (bumpBy c k s) rfl rfl rfl rfl rfl rfl rfl rfl rfl rfl rfl id (tallied_bumpBy c hk s)

theorem tallied_bump_other {c : Counter} (hc : c ∉ grantCounters) (s : State) : tallied (fun _ => 0) s (bump c s) := by
  intro d hd
  have hne : c ≠ d := fun h => hc (h ▸ hd)
  rw [countedIf_ne_zero, counter_bump, if_neg hne, if_pos rfl]

theorem grants_bump_other {c : Counter} (hc : c ∉ grantCounters) (s : State) : Grants (fun _ => 0) s (bump c s) :=
  grants_of_pieces s (bump c s) rfl rfl rfl rfl rfl rfl rfl rfl rfl rfl rfl id (tallied_bump_other hc s)

theorem grants_onMedia (n : Slot) (f : MediaSlot → MediaSlot) (s : State) : Grants (fun _ => 0) s (onMedia n f s) :=
  grants_of_pieces s (onMedia n f s) rfl rfl rfl rfl rfl rfl rfl rfl rfl rfl rfl id (.refl s)

theorem grants_onLbu (f : Budget → Budget) (s : State) : Grants (fun _ => 0) s (onLbu f s) :=
  grants_of_pieces s (onLbu f s) rfl rfl rfl rfl rfl rfl rfl rfl rfl rfl rfl id (.refl s)

theorem Grants.cast {m m' : Counter → Nat} (h : Grants m s t) (e : ∀ d, m' d = m d) : Grants m' s t := by
  rw [show m' = m from funext e]
  exact h

/-! ## Blocks put on one channel (R5, R6, R17) -/

/-- The channel in a line block's first byte (section 11.1). -/
def blockChannel (b : Bytes) : Nat := (b.headD 0).toNat / 16

/-- These blocks put on the line, with all that the grant of slots leaves as it was. -/
structure Laid (blocks : List Bytes) (m : Counter → Nat) (s t : State) : Prop where
  out : t.out = { s.out with line := s.out.line ++ blocks }
  grants : Grants m s t

theorem Laid.trans {l l' : List Bytes} {m m' : Counter → Nat} (h : Laid l m s t) (k : Laid l' m' t u) :
    Laid (l ++ l') (fun d => m d + m' d) s u where
  out := by rw [k.out, h.out, List.append_assoc]
  grants := h.grants.trans k.grants

theorem Laid.retally {l : List Bytes} {m m' : Counter → Nat} (h : Laid l m s t) (e : ∀ d, m' d = m d) : Laid l m' s t :=
  ⟨h.out, h.grants.cast e⟩

/-- These blocks put on the line, all of one channel; no other channel's framer record moves. -/
structure Sent (c : Chan) (blocks : List Bytes) (m : Counter → Nat) (s t : State) : Prop extends Laid blocks m s t where
  channels : blocks.map blockChannel = List.replicate blocks.length c.val
  others : ∀ d, d ≠ c → t.chan d = s.chan d

theorem Sent.of_grants (c : Chan) {m : Counter → Nat} (h : Grants m s t) (hout : t.out = s.out)
    (hc : ∀ d, d ≠ c → t.chan d = s.chan d) : Sent c [] m s t :=
  ⟨⟨by rw [hout]; simp, h⟩, rfl, hc⟩

theorem Sent.refl (c : Chan) (s : State) : Sent c [] (fun _ => 0) s s := .of_grants c (.refl s) rfl fun _ _ => rfl

theorem Sent.trans {c : Chan} {l l' : List Bytes} {m m' : Counter → Nat} (h : Sent c l m s t) (k : Sent c l' m' t u) :
    Sent c (l ++ l') (fun d => m d + m' d) s u where
  toLaid := h.toLaid.trans k.toLaid
  channels := by rw [List.map_append, h.channels, k.channels, List.length_append, List.replicate_add]
  others d hd := (k.others d hd).trans (h.others d hd)

theorem blockChannel_blockBytes (size : BlockSize) (c : Chan) (kind : BlockKind) (urgent fill : Bool) (seq : Byte) (used : Nat)
    (frameNo : Byte) (payload : Bytes) :
    blockChannel (blockBytes size c kind urgent fill seq used frameNo payload) = c.val := by
  have h := congrArg Fin.val (headByte_fields c kind urgent fill).1
  have hlt := (byteOf (c.val * 16 + kind.code * 4 + urgent.toNat * 2 + fill.toNat)).isLt
  rw [blockBytes_eq, blockBody]
  refine (Nat.mod_eq_of_lt (b := 16) ?_).symm.trans h
  show (byteOf (c.val * 16 + kind.code * 4 + urgent.toNat * 2 + fill.toNat)).toNat / 16 < 16
  omega

theorem sent_emitOn (c : Chan) (kind : BlockKind) (urgent : Bool) (used : Nat) (frameNo : Byte) (payload : Bytes) (s : State) :
    Sent c [blockBytes s.lbu.size c kind urgent false (s.chan c).txSeq used frameNo payload] (fun _ => 0) s
      (emitOn c kind urgent used frameNo payload s) where
  out := rfl
  channels := by simp [blockChannel_blockBytes]
  others d hd := by
    rw [emitOn, chan_congr (bump_bf _ _), chan_onChan, if_neg (Ne.symm hd)]
    rfl
  grants := grants_of_pieces s (emitOn c kind urgent used frameNo payload s) rfl rfl rfl rfl rfl rfl rfl rfl rfl rfl rfl id
    (tallied_bump_other (c := Ctr.blocksSent) (by decide) (onChan c _ (sendBlock _ s)))

theorem framesSent_untallied : ∀ c : Chan, Ctr.framesSent c ∉ grantCounters := by
  decide

theorem grants_noticeDone (k : FaultKind) (carried : Nat) (s : State) : Grants (fun _ => 0) s (noticeDone k carried s) where
  rest := rfl
  faults := rfl
  home := ⟨rfl, rfl⟩
  calls n := rfl
  test := rfl
  drains := ⟨id, id, id, fun h => by simp [noticeDone, onList, onFu, h, takeRepeats], id, id, fun _ => id⟩
  counts := tallied_bump_other (c := Ctr.exchNoticesSent) (by decide) (onList .exch (takeRepeats k carried) s)

theorem grants_onCall (n : Slot) {f : CallSlot → CallSlot}
    (hf : ∀ k, f k = { k with signals := (f k).signals, sent := (f k).sent }) (hs : ∀ k, k.signals = [] → (f k).signals = [])
    (s : State) : Grants (fun _ => 0) s (onCall n f s) where
  rest := rfl
  faults := rfl
  home := ⟨rfl, rfl⟩
  calls m := by
    rw [call_onCall]
    split
    · rename_i h
      rw [← h]
      exact hf _
    · rfl
  test := rfl
  drains := ⟨id, id, id, id, id, id, fun m h => by
    rw [call_onCall]
    split
    · rename_i hn
      exact hs _ (hn ▸ h)
    · exact h⟩
  counts := .refl s

theorem grants_onQm {f : QueueManager → QueueManager} (hf : ∀ q, (f q).fifo = q.fifo ∧ (f q).homeUp = q.homeUp)
    (hp : s.qm.priority = [] → (f s.qm).priority = []) (hb : s.qm.bulk = [] → (f s.qm).bulk = [])
    (hr : s.qm.replies = [] → (f s.qm).replies = []) : Grants (fun _ => 0) s (onQm f s) :=
  ⟨rfl, rfl, hf _, fun _ => rfl, rfl, ⟨hp, hb, hr, id, id, id, fun _ => id⟩, .refl s⟩

theorem grants_noProbe (s : State) : Grants (fun _ => 0) s (onTr (fun t => { t with probe := none }) s) :=
  ⟨rfl, rfl, ⟨rfl, rfl⟩, fun _ => rfl, rfl, ⟨id, id, id, id, fun _ => rfl, id, fun _ => id⟩, .refl s⟩

/-- A frame leaves the head of its own source, whatever that is, and is counted on its channel (R7). -/
theorem grants_frameLeft (c : Chan) (source : Source) (s : State) : Grants (fun _ => 0) s (frameLeft c source s) := by
  have hb := grants_bump_other (framesSent_untallied c) s
  have hnil {α : Type} {l : List α} (h : l = []) : l.tail = [] := by rw [h]; rfl
  cases source with
  | voice n =>
    exact hb.trans (grants_onCall n (f := fun k => { k with sent := satAdd Config.max32 k.sent 1 }) (fun _ => rfl) (fun _ => id) _)
  | signal n =>
    exact hb.trans (grants_onCall n (f := fun k => { k with signals := k.signals.tail }) (fun _ => rfl) (fun _ => hnil) _)
  | priority =>
    exact hb.trans (grants_onQm (f := fun q => { q with priority := q.priority.tail }) (fun _ => ⟨rfl, rfl⟩) hnil id id)
  | bulk => exact hb.trans (grants_onQm (f := fun q => { q with bulk := q.bulk.tail }) (fun _ => ⟨rfl, rfl⟩) id hnil id)
  | reply => exact hb.trans (grants_onQm (f := fun q => { q with replies := q.replies.tail }) (fun _ => ⟨rfl, rfl⟩) id id hnil)
  | notice k r => exact hb.trans (grants_noticeDone k r _)
  | probe => exact hb.trans (grants_noProbe _)

theorem sent_onChan (c : Chan) (f : Channel → Channel) (s : State) : Sent c [] (fun _ => 0) s (onChan c f s) :=
  .of_grants c (grants_onChan c f s) rfl fun d hd => by rw [chan_onChan, if_neg (Ne.symm hd)]

theorem sent_frameLeft (c : Chan) (source : Source) (s : State) : Sent c [] (fun _ => 0) s (frameLeft c source s) :=
  .of_grants c (grants_frameLeft c source s) (frameLeft_out c source s).1
    fun d _ => chan_congr (frameLeft_frame c source s).2.1 d

/-- The next block of a frame in progress. -/
theorem sent_emitNext (c : Chan) (sd : Sending) (s : State) :
    Sent c [blockBytes s.lbu.size c (kindAt sd.emitted sd.total) false false (s.chan c).txSeq
      ((sd.bytes.drop (sd.emitted * s.lbu.size.payload)).take s.lbu.size.payload).length sd.frameNo
      ((sd.bytes.drop (sd.emitted * s.lbu.size.payload)).take s.lbu.size.payload)] (fun _ => 0) s (emitNext c sd s) := by
  have h := sent_emitOn c (kindAt sd.emitted sd.total) false
    ((sd.bytes.drop (sd.emitted * s.lbu.size.payload)).take s.lbu.size.payload).length sd.frameNo
    ((sd.bytes.drop (sd.emitted * s.lbu.size.payload)).take s.lbu.size.payload) s
  unfold emitNext
  dsimp only
  split
  · exact h.trans ((sent_onChan c _ _).trans (sent_frameLeft c sd.source _))
  · exact h.trans (sent_onChan c _ _)

theorem sent_startFrame (c : Chan) (source : Source) (bytes : Bytes) (s : State) :
    ∃ b, Sent c [b] (fun _ => 0) s (startFrame c source bytes s) :=
  ⟨_, (sent_onChan c _ s).trans (sent_emitNext c _ _)⟩

theorem sent_nextOn {c : Chan} {head : State → Option (Source × Bytes)} (h : nextOn c head s = some t) :
    ∃ b, Sent c [b] (fun _ => 0) s t := by
  unfold nextOn at h
  split at h
  · cases h
    exact ⟨_, sent_emitNext ..⟩
  · split at h
    · cases h
      exact sent_startFrame ..
    · cases h

theorem sent_sendLooped {c : Chan} (h : sendLooped c s = some t) : ∃ b, Sent c [b] (fun _ => 0) s t := by
  unfold sendLooped at h
  split at h
  · rename_i b rest hs
    cases h
    have hstore : Sent c [] (fun _ => 0) s (onBf (fun f => { f with loopStore := rest }) s) :=
      .of_grants c (grants_of_pieces s (onBf (fun f => { f with loopStore := rest }) s) rfl rfl rfl rfl rfl rfl rfl rfl rfl rfl
        rfl (fun e => by rw [e] at hs; cases hs) (.refl s)) rfl fun _ _ => rfl
    have hcount (v : State) : Sent c [] (fun _ => 0) v (bump Ctr.loopedSent v) :=
      .of_grants c (grants_bump_other (by decide) v) rfl fun _ _ => rfl
    exact ⟨_, hstore.trans ((sent_emitOn c b.kind false b.used b.frameNo b.payload _).trans (hcount _))⟩
  · cases h

theorem only_add (c : Counter) (j k : Nat) : (fun d => only c j d + only c k d) = only c (j + k) := by
  funext d
  unfold only
  split <;> rfl

theorem only_add_apply (c d : Counter) (j k : Nat) : only c (j + k) d = only c j d + only c k d :=
  (congrFun (only_add c j k) d).symm

theorem only_zero (c : Counter) : only c 0 = fun _ => 0 := by
  funext d
  unfold only
  split <;> rfl

theorem sent_emitGasp (i : PendingItem) (s : State) : ∃ b, Sent 15 [b] (fun _ => 0) s (emitGasp i s) := by
  have hcounts (c : Counter) (hc : c ∉ grantCounters) (v : State) : Sent 15 [] (fun _ => 0) v (bump c v) :=
    .of_grants 15 (grants_bump_other hc v) rfl fun _ _ => rfl
  have hdone (v : State) : Sent 15 [] (fun _ => 0) v (noticeDone .batteryLow i.repeats v) :=
    .of_grants 15 (grants_noticeDone _ _ v) rfl fun _ _ => rfl
  have hclaim (v : State) : Sent 15 [] (fun _ => 0) v (onLbu (fun b => { b with urgent := false }) v) :=
    .of_grants 15 (grants_onLbu _ v) rfl fun _ _ => rfl
  exact ⟨_, (sent_onChan 15 _ s).trans ((sent_emitOn 15 .whole true _ _ _ _).trans ((sent_onChan 15 _ _).trans
    ((hcounts _ (framesSent_untallied 15) _).trans ((hdone _).trans ((hcounts Ctr.gaspsSent (by decide) _).trans (hclaim _))))))⟩

/-! ## What each claim has to send (R61 to R67) -/

theorem nextOn_none_iff {c : Chan} {head : State → Option (Source × Bytes)} :
    nextOn c head s = none ↔ (s.chan c).seg = none ∧ head s = none := by
  unfold nextOn
  cases (s.chan c).seg with
  | some sd => simp
  | none => cases head s <;> simp

theorem operationsClaim_none_iff : operationsClaim s = none ↔ noOperations s := by
  unfold operationsClaim noOperations
  rw [nextOn_none_iff, operationsHead]
  cases s.qm.replies with
  | cons m l => simp
  | nil => cases s.fu.exchList <;> simp

theorem priorityClaim_none_iff : priorityClaim s = none ↔ noPriority s := by
  unfold priorityClaim noPriority
  rw [nextOn_none_iff]
  cases s.qm.priority <;> simp

theorem sendLooped_none_iff {c : Chan} : sendLooped c s = none ↔ s.bf.loopStore = [] := by
  unfold sendLooped
  cases s.bf.loopStore <;> simp

theorem bulkClaim_none_iff : bulkClaim s = none ↔ noBulk s := by
  unfold bulkClaim noBulk
  split
  · exact sendLooped_none_iff
  · rw [nextOn_none_iff]
    cases s.qm.bulk <;> simp

theorem testClaim_none_iff : testClaim s = none ↔ noTest s := by
  unfold testClaim noTest
  split
  · exact sendLooped_none_iff
  · rw [nextOn_none_iff]
    cases s.tr.probe <;> simp

theorem signalServed_none_iff {n : Slot} : signalServed n s = none ↔ (s.call n).signals = [] := by
  unfold signalServed
  cases h : (s.call n).signals with
  | nil => simp
  | cons g l =>
    have hne : nextOn n.chan (signalHead n) s ≠ none := fun hn => by simpa [signalHead, h] using (nextOn_none_iff.1 hn).2
    simpa using hne

theorem Grants.looped {m : Counter → Nat} (h : Grants m s t) (c : Chan) : t.looped c = s.looped c := by
  have hls : t.ls = s.ls := congrArg (fun r => r.2.1) h.rest
  rw [State.looped, hls]
  rfl

section Passed

variable {c : Chan} {l : List Bytes} {m : Counter → Nat}

theorem Sent.noPriority (h : Sent c l m s t) (hc : (2 : Chan) ≠ c) (hn : noPriority s) : noPriority t := by
  unfold Machine.noPriority at hn ⊢
  rw [h.others 2 hc]
  exact ⟨hn.1, h.grants.drains.priority hn.2⟩

theorem Sent.noOperations (h : Sent c l m s t) (hc : (15 : Chan) ≠ c) (hn : noOperations s) : noOperations t := by
  unfold Machine.noOperations at hn ⊢
  obtain ⟨hseg, hreplies, hnotices⟩ := hn
  rw [h.others 15 hc]
  exact ⟨hseg, h.grants.drains.replies hreplies, h.grants.drains.notices hnotices⟩

theorem Sent.noBulk (h : Sent c l m s t) (hc : (3 : Chan) ≠ c) (hn : noBulk s) : noBulk t := by
  unfold Machine.noBulk at hn ⊢
  rw [h.grants.looped, h.others 3 hc]
  split at hn
  · rename_i hl
    rw [if_pos hl]
    exact h.grants.drains.looped hn
  · rename_i hl
    rw [if_neg hl]
    exact ⟨hn.1, h.grants.drains.bulk hn.2⟩

theorem Sent.noTest (h : Sent c l m s t) (hc : (14 : Chan) ≠ c) (hn : noTest s) : noTest t := by
  unfold Machine.noTest at hn ⊢
  rw [h.grants.looped, h.others 14 hc]
  split at hn
  · rename_i hl
    rw [if_pos hl]
    exact h.grants.drains.looped hn
  · rename_i hl
    rw [if_neg hl]
    exact ⟨hn.1, h.grants.drains.probe hn.2⟩

end Passed

/-! ## A step of the grant order (R61, R70) -/

/-- One step of the grant order has taken `n` slots of at most `limit`, all for one channel, each counted; where it leaves slots
over, its claim has nothing more to send. -/
structure Took (claim : Claim) (c : Chan) (ctr : Counter) (limit n : Nat) (p q : State × Nat) : Prop where
  left : q.2 + n = p.2
  bound : n ≤ limit
  sent : ∃ blocks, blocks.length = n ∧ Sent c blocks (only ctr n) p.1 q.1
  had : n ≠ 0 → claim p.1 ≠ none
  idle : n = 0 → q.1 = p.1
  passed : n < limit → q.2 ≠ 0 → claim q.1 = none
  record : q.1.lbu = p.1.lbu
  media : q.1.mdu = p.1.mdu

theorem serve_took {claim : Claim} {c : Chan} (ctr : Counter)
    (hc : ∀ u v, claim u = some v → ∃ b, Sent c [b] (fun _ => 0) u v) (n : Nat) (s : State) :
    (serve claim ctr n s).2 ≤ n ∧
      (∃ blocks, blocks.length = (serve claim ctr n s).2 ∧
        Sent c blocks (only ctr (serve claim ctr n s).2) s (serve claim ctr n s).1) ∧
      ((serve claim ctr n s).2 ≠ 0 → claim s ≠ none) ∧
      ((serve claim ctr n s).2 = 0 → (serve claim ctr n s).1 = s) ∧
      ((serve claim ctr n s).2 < n → claim (serve claim ctr n s).1 = none) := by
  induction n generalizing s with
  | zero => exact ⟨Nat.le_refl _, ⟨[], rfl, only_zero ctr ▸ Sent.refl c s⟩, fun h => absurd rfl h,
      fun _ => rfl, fun h => nomatch h⟩
  | succ n ih =>
    cases hs : claim s with
    | none =>
      have e : serve claim ctr (n + 1) s = (s, 0) := by simp [serve, hs]
      rw [e]
      exact ⟨Nat.zero_le _, ⟨[], rfl, only_zero ctr ▸ Sent.refl c s⟩, fun h => absurd rfl h,
        fun _ => rfl, fun _ => hs⟩
    | some v =>
      have e : serve claim ctr (n + 1) s = ((serve claim ctr n (bump ctr v)).1, (serve claim ctr n (bump ctr v)).2 + 1) := by
        simp [serve, hs]
      obtain ⟨hle, ⟨blocks, hlen, hsent⟩, -, -, hstop⟩ := ih (bump ctr v)
      obtain ⟨b, hb⟩ := hc s v hs
      have hcount : Sent c [] (only ctr 1) v (bump ctr v) :=
        .of_grants c (grants_bumpBy ctr (by decide) v) rfl fun _ _ => rfl
      have hall := hb.trans (hcount.trans hsent)
      rw [e]
      refine ⟨Nat.succ_le_succ hle, ⟨[b] ++ ([] ++ blocks), by simp [hlen], ?_⟩, fun _ => by simp,
        (fun h => nomatch h), fun h => hstop (Nat.lt_of_succ_lt_succ h)⟩
      · have hm : (fun d => 0 + (only ctr 1 d + only ctr (serve claim ctr n (bump ctr v)).2 d)) =
            only ctr ((serve claim ctr n (bump ctr v)).2 + 1) := by
          rw [Nat.add_comm _ 1, ← only_add]
          simp
        rw [← hm]
        exact hall

theorem stepOf_took {claim : Claim} {c : Chan} (ctr : Counter) (limit : Nat) (p : State × Nat)
    (hc : ∀ u v, claim u = some v → ∃ b, Sent c [b] (fun _ => 0) u v)
    (hkeep : ∀ u v, claim u = some v → v.lbu = u.lbu ∧ v.mdu = u.mdu) :
    ∃ n, Took claim c ctr limit n p (stepOf claim ctr limit p) := by
  obtain ⟨hle, hsent, hhad, hidle, hstop⟩ := serve_took ctr hc (min limit p.2) p.1
  refine ⟨(serve claim ctr (min limit p.2) p.1).2, ?_, by omega, hsent, hhad, hidle, ?_,
    stepOf_keeps State.lbu claim ctr limit p (fun _ => rfl) fun u v h => (hkeep u v h).1,
    stepOf_keeps State.mdu claim ctr limit p (fun _ => rfl) fun u v h => (hkeep u v h).2⟩
  · show p.2 - _ + _ = p.2
    omega
  · intro hn hq
    have hq' : p.2 - (serve claim ctr (min limit p.2) p.1).2 ≠ 0 := hq
    exact hstop (by omega)

/-! ## Voice frames (R63) -/

theorem sent_continueFrame (c : Chan) (n : Nat) (s : State) : ∃ blocks, Sent c blocks (fun _ => 0) s (continueFrame c n s) := by
  induction n generalizing s with
  | zero => exact ⟨[], .refl c s⟩
  | succ n ih =>
    unfold continueFrame
    split
    · rename_i sd _
      obtain ⟨blocks, hb⟩ := ih (emitNext c sd s)
      exact ⟨_, (sent_emitNext c sd s).trans hb⟩
    · exact ⟨[], .refl c s⟩

/-- A voice frame in progress takes no signal from a queue as it leaves. -/
theorem signals_emitNext {c : Chan} {sd : Sending} {n : Slot} (h : sd.source = .voice n) (m : Slot) :
    ((emitNext c sd s).call m).signals = (s.call m).signals := by
  unfold emitNext
  dsimp only
  split
  · rw [h, frameLeft, call_onCall]
    split
    · rename_i hm
      subst hm
      rfl
    · rfl
  · rfl

theorem signals_continueFrame {c : Chan} {n : Slot} (j : Nat) (h : ∀ sd, (s.chan c).seg = some sd → sd.source = .voice n)
    (m : Slot) : ((continueFrame c j s).call m).signals = (s.call m).signals := by
  induction j generalizing s with
  | zero => rfl
  | succ j ih =>
    unfold continueFrame
    split
    · rename_i sd hsd
      rw [ih, signals_emitNext (h sd hsd)]
      intro sd' hs
      rw [emitNext_seg] at hs
      split at hs
      · cases hs
      · cases hs
        exact h sd hsd
    · rfl

theorem sent_emitVoice (n : Slot) {f : Bytes} (hf : f.length = 84) (s : State) :
    Sent n.chan (blocksOf s.lbu.size n.chan (s.chan n.chan).txSeq (s.chan n.chan).nextFrame f)
        (only Ctr.grantedVoice s.lbu.size.voiceBlocks) s (emitVoice n f s) ∧
      (∀ m, ((emitVoice n f s).call m).signals = (s.call m).signals) := by
  have hpos : s.lbu.size.voiceBlocks ≠ 0 := by cases s.lbu.size <;> decide
  let sd : Sending := ⟨.voice n, f, (s.chan n.chan).nextFrame, blocksFor s.lbu.size f.length, 0⟩
  let v := onChan n.chan (fun h => { h with nextFrame := h.nextFrame + 1 }) s
  have htotal : blocksFor s.lbu.size f.length = s.lbu.size.voiceBlocks := by rw [hf, blocksFor_voice]
  have hseq : (v.chan n.chan).txSeq = (s.chan n.chan).txSeq + byteOf 0 := by
    simp [v, byteOf]
  have hline := continueFrame_line (s := v) (sd := sd) (s.lbu.size.voiceBlocks - 1) rfl
    (by show 0 + (s.lbu.size.voiceBlocks - 1) + 1 = blocksFor s.lbu.size f.length; omega) rfl hseq
  obtain ⟨blocks, hb⟩ := sent_continueFrame n.chan (s.lbu.size.voiceBlocks - 1) (emitNext n.chan sd v)
  have hall := (sent_onChan n.chan (fun h => { h with nextFrame := h.nextFrame + 1 }) s).trans
    ((sent_emitNext n.chan sd v).trans hb)
  have hcount (w : State) : Sent n.chan [] (only Ctr.grantedVoice s.lbu.size.voiceBlocks) w
      (bumpBy Ctr.grantedVoice s.lbu.size.voiceBlocks w) :=
    .of_grants n.chan (grants_bumpBy _ hpos w) rfl fun _ _ => rfl
  have hblocks := List.append_cancel_left ((congrArg Outputs.line hall.out).symm.trans hline)
  have hof : blocksOf s.lbu.size n.chan (s.chan n.chan).txSeq (s.chan n.chan).nextFrame f =
      (List.range' 0 (s.lbu.size.voiceBlocks - 1 + 1)).map
        (frameBlock s.lbu.size n.chan (s.chan n.chan).txSeq (s.chan n.chan).nextFrame f) := by
    rw [blocksOf_eq, htotal, List.range_eq_range', Nat.sub_add_cancel (Nat.one_le_iff_ne_zero.2 hpos)]
  refine ⟨?_, fun m => ?_⟩
  · have := hall.trans (hcount _)
    rw [hblocks, List.append_nil] at this
    rw [hof]
    simp only [Nat.zero_add] at this
    exact this
  · have hseg : ∀ sd', ((emitNext n.chan sd v).chan n.chan).seg = some sd' → sd'.source = .voice n := by
      intro sd' hs
      rw [emitNext_seg] at hs
      split at hs
      · cases hs
      · cases hs
        rfl
    exact (signals_continueFrame (s.lbu.size.voiceBlocks - 1) hseg m).trans (signals_emitNext (s := v) rfl m)

/-- The slots a slot's due voice frame takes of those left. -/
def voiceSlots (n : Slot) (p : State × Nat) : Nat :=
  if (p.1.media n).due.isSome = true ∧ p.1.lbu.size.voiceBlocks ≤ p.2 then p.1.lbu.size.voiceBlocks else 0

/-- The voice frame of a slot that is due and finds too few slots. -/
def staleAt (n : Slot) (p : State × Nat) : Nat :=
  if (p.1.media n).due.isSome = true ∧ voiceSlots n p = 0 then 1 else 0

/-- What a slot's voice step does: its due frame whole on its channel, or stale; nothing is due afterwards. -/
structure Voiced (n : Slot) (p q : State × Nat) : Prop where
  left : q.2 + voiceSlots n p = p.2
  sent : ∃ blocks, blocks.length = voiceSlots n p ∧
    Sent n.chan blocks (fun d => only Ctr.grantedVoice (voiceSlots n p) d + only Ctr.staleVoice (staleAt n p) d) p.1 q.1 ∧
    ∀ f, (p.1.media n).due = some f → voiceSlots n p ≠ 0 →
      blocks = blocksOf p.1.lbu.size n.chan (p.1.chan n.chan).txSeq (p.1.chan n.chan).nextFrame f
  signals : ∀ m, (q.1.call m).signals = (p.1.call m).signals
  media : q.1.mdu = (clearDue n p.1).mdu
  record : q.1.lbu = p.1.lbu

theorem mdu_clearDue_idle {n : Slot} (h : (s.media n).due = none) : (clearDue n s).mdu = s.mdu := by
  have hset : ({ s.media n with due := none } : MediaSlot) = s.media n := by rw [← h]
  show { s.mdu with slots := s.mdu.slots.set n { s.media n with due := none } } = s.mdu
  rw [hset]
  cases n <;> rfl

theorem voiceStep_voiced (n : Slot) (p : State × Nat) (h : ∀ f, (p.1.media n).due = some f → f.length = 84) :
    Voiced n p (voiceStep n p) := by
  have hlbu : (voiceStep n p).1.lbu = p.1.lbu := (voiceStep_frame n p).2.2.1
  have hpos : p.1.lbu.size.voiceBlocks ≠ 0 := by cases p.1.lbu.size <;> decide
  have hclear (v : State) : Sent n.chan [] (fun _ => 0) v (clearDue n v) :=
    .of_grants n.chan (grants_onMedia n _ v) rfl fun _ _ => rfl
  cases hd : (p.1.media n).due with
  | none =>
    have e : voiceStep n p = p := by simp [voiceStep, hd]
    have hv : voiceSlots n p = 0 := by simp [voiceSlots, hd]
    have hst : staleAt n p = 0 := by simp [staleAt, hd]
    rw [e]
    refine ⟨by rw [hv]; rfl, ⟨[], by rw [hv]; rfl, ?_, fun f hf => by rw [hd] at hf; cases hf⟩, fun _ => rfl,
      (mdu_clearDue_idle hd).symm, rfl⟩
    rw [hv, hst, only_zero, only_zero]
    exact .refl _ _
  | some f =>
    by_cases hb : p.1.lbu.size.voiceBlocks ≤ p.2
    · have e : voiceStep n p = (clearDue n (emitVoice n f p.1), p.2 - p.1.lbu.size.voiceBlocks) := by
        simp [voiceStep, hd, hb]
      have hv : voiceSlots n p = p.1.lbu.size.voiceBlocks := by simp [voiceSlots, hd, hb]
      have hst : staleAt n p = 0 := by simp [staleAt, hv, hpos]
      obtain ⟨hsent, hsig⟩ := sent_emitVoice n (h f hd) p.1
      have hlen : (blocksOf p.1.lbu.size n.chan (p.1.chan n.chan).txSeq (p.1.chan n.chan).nextFrame f).length =
          p.1.lbu.size.voiceBlocks := by
        rw [blocksOf_eq, List.length_map, List.length_range, h f hd, blocksFor_voice]
      rw [e]
      refine ⟨by rw [hv]; exact Nat.sub_add_cancel hb, ⟨_, by rw [hv]; exact hlen, ?_, fun g hg _ => ?_⟩,
        fun m => hsig m, ?_, e ▸ hlbu⟩
      · have := hsent.trans (hclear _)
        rw [List.append_nil] at this
        rw [hv, hst, only_zero]
        exact this
      · cases hd.symm.trans hg
        rfl
      · have hm : (emitVoice n f p.1).mdu = p.1.mdu := by simp
        simp only [clearDue, onMedia, onMdu, hm]
    · have e : voiceStep n p = (bump Ctr.staleVoice (clearDue n p.1), p.2) := by
        simp [voiceStep, hd, hb]
      have hv : voiceSlots n p = 0 := by simp [voiceSlots, hb]
      have hst : staleAt n p = 1 := by simp [staleAt, hv, hd]
      have hcount (v : State) : Sent n.chan [] (only Ctr.staleVoice 1) v (bump Ctr.staleVoice v) :=
        .of_grants n.chan (grants_bumpBy _ (by decide) v) rfl fun _ _ => rfl
      rw [e]
      refine ⟨by rw [hv]; rfl, ⟨[], by rw [hv]; rfl, ?_, fun g _ hn => absurd hv hn⟩, fun _ => rfl, rfl, rfl⟩
      rw [hv, hst, only_zero]
      exact (hclear p.1).trans (hcount _)

/-! ## The control block (R64) -/

/-- What the control step does: a signal of the slot whose turn it is, else of the other slot, else a block of channel 15. -/
structure Controlled (served : Option Chan) (p q : State × Nat) : Prop where
  left : q.2 + served.toList.length = p.2
  sent : ∃ (c : Chan) (blocks : List Bytes), (c = 0 ∨ c = 1 ∨ c = 15) ∧ blocks.map blockChannel = served.toList.map Fin.val ∧
    Sent c blocks (only Ctr.grantedControl served.toList.length) p.1 q.1
  signal : ∀ n, p.2 ≠ 0 → (p.1.call n).signals ≠ [] → (n = p.1.lbu.turn ∨ (p.1.call p.1.lbu.turn).signals = []) →
    served = some n.chan ∧ q.1.lbu.turn = n.other
  noSignal : (p.2 = 0 ∨ ∀ n, (p.1.call n).signals = []) →
    q.1.lbu.turn = p.1.lbu.turn ∧ (served = none ∨ served = some 15 ∧ ¬ noOperations p.1)
  passed : served = none → q.2 ≠ 0 → noOperations q.1
  record : q.1.lbu = { p.1.lbu with turn := q.1.lbu.turn }
  media : q.1.mdu = p.1.mdu

theorem stepOf_one (claim : Claim) (ctr : Counter) (p : State × Nat) :
    stepOf claim ctr 1 p =
      if p.2 = 0 then p else (claim p.1).elim p fun v => (bump ctr v, p.2 - 1) := by
  obtain ⟨v, k⟩ := p
  cases k with
  | zero => rfl
  | succ k =>
    have hmin : min 1 (k + 1) = 1 := by omega
    simp only [stepOf, hmin, serve, Nat.add_one_ne_zero, if_false]
    cases claim v <;> rfl

theorem sent_signalServed {n : Slot} (h : signalServed n s = some t) :
    (∃ b, Sent n.chan [b] (fun _ => 0) s t) ∧ t.lbu = { s.lbu with turn := n.other } := by
  unfold signalServed at h
  split at h
  · cases h
  · simp only [Option.map_eq_some_iff] at h
    obtain ⟨v, hv, rfl⟩ := h
    obtain ⟨b, hb⟩ := sent_nextOn hv
    have hturn : Sent n.chan [] (fun _ => 0) v (onLbu (fun b => { b with turn := n.other }) v) :=
      .of_grants n.chan (grants_onLbu _ v) rfl fun _ _ => rfl
    refine ⟨⟨b, hb.trans hturn⟩, ?_⟩
    rw [onLbu, (nextOn_frame _ _ _ _ hv).2.2.1]

/-- The control step serves a signal of this slot. -/
theorem controlled_signal {n : Slot} {p : State × Nat} {v : State} (hp : p.2 ≠ 0) (hc : controlClaim p.1 = some v)
    (hs : signalServed n p.1 = some v) (hsig : (p.1.call n).signals ≠ [])
    (hfirst : ∀ m, (p.1.call m).signals ≠ [] → (m = p.1.lbu.turn ∨ (p.1.call p.1.lbu.turn).signals = []) → m = n) :
    Controlled (some n.chan) p (stepOf controlClaim Ctr.grantedControl 1 p) := by
  obtain ⟨⟨b, hb⟩, hlbu⟩ := sent_signalServed hs
  have e : stepOf controlClaim Ctr.grantedControl 1 p = (bump Ctr.grantedControl v, p.2 - 1) := by
    rw [stepOf_one, if_neg hp, hc, Option.elim]
  have hcount : Sent n.chan [] (only Ctr.grantedControl 1) v (bump Ctr.grantedControl v) :=
    .of_grants n.chan (grants_bumpBy _ (by decide) v) rfl fun _ _ => rfl
  have hall := hb.trans hcount
  simp only [Nat.zero_add] at hall
  have hturn : (bump Ctr.grantedControl v).lbu.turn = n.other := by rw [bump_lbu, hlbu]
  rw [e]
  refine ⟨Nat.sub_add_cancel (Nat.one_le_iff_ne_zero.2 hp), ⟨n.chan, _, ?_, hall.channels, hall⟩, fun m _ hm ht => ?_,
    fun h => ?_, (fun h => nomatch h), ?_, (signalServed_frame n _ _ hs).2.2.2.2.1⟩
  · cases n
    · exact .inl rfl
    · exact .inr (.inl rfl)
  · rw [hfirst m hm ht]
    exact ⟨rfl, hturn⟩
  · rcases h with h | h
    · exact absurd h hp
    · exact absurd (h n) hsig
  · rw [bump_lbu, hlbu]

/-- No slot has a signal, and channel 15 is served. -/
theorem controlled_operations {p : State × Nat} {v : State} (hp : p.2 ≠ 0) (hc : controlClaim p.1 = some v)
    (hs : operationsClaim p.1 = some v) (hnone : ∀ n, (p.1.call n).signals = []) :
    Controlled (some 15) p (stepOf controlClaim Ctr.grantedControl 1 p) := by
  obtain ⟨b, hb⟩ := sent_nextOn (show nextOn 15 operationsHead p.1 = some v from hs)
  have e : stepOf controlClaim Ctr.grantedControl 1 p = (bump Ctr.grantedControl v, p.2 - 1) := by
    rw [stepOf_one, if_neg hp, hc, Option.elim]
  have hcount : Sent 15 [] (only Ctr.grantedControl 1) v (bump Ctr.grantedControl v) :=
    .of_grants 15 (grants_bumpBy _ (by decide) v) rfl fun _ _ => rfl
  have hall := hb.trans hcount
  simp only [Nat.zero_add] at hall
  obtain ⟨-, -, hlbu, -, -, hmdu, -⟩ := operationsClaim_frame _ _ hs
  have hhad : ¬ noOperations p.1 := fun h => by
    rw [operationsClaim_none_iff.2 h] at hs
    cases hs
  rw [e]
  refine ⟨Nat.sub_add_cancel (Nat.one_le_iff_ne_zero.2 hp), ⟨15, _, .inr (.inr rfl), hall.channels, hall⟩,
    fun m _ hm _ => absurd (hnone m) hm, fun _ => ⟨?_, .inr ⟨rfl, hhad⟩⟩, (fun h => nomatch h), ?_, hmdu⟩
  · rw [bump_lbu, hlbu]
  · rw [bump_lbu, hlbu]

theorem controlled_none {p : State × Nat} (e : stepOf controlClaim Ctr.grantedControl 1 p = p)
    (hnone : p.2 = 0 ∨ (∀ n, (p.1.call n).signals = []) ∧ noOperations p.1) :
    Controlled none p (stepOf controlClaim Ctr.grantedControl 1 p) := by
  rw [e]
  refine ⟨rfl, ⟨15, [], .inr (.inr rfl), rfl, (only_zero Ctr.grantedControl).symm ▸ Sent.refl 15 p.1⟩, fun m hp hm _ => ?_,
    fun _ => ⟨rfl, .inl rfl⟩, fun _ hp => ?_, rfl, rfl⟩
  · rcases hnone with h | h
    · exact absurd h hp
    · exact absurd (h.1 m) hm
  · rcases hnone with h | h
    · exact absurd h hp
    · exact h.2

theorem controlClaim_eq (s : State) : controlClaim s =
    (signalServed s.lbu.turn s).or ((signalServed s.lbu.turn.other s).or (operationsClaim s)) := by
  unfold controlClaim
  cases signalServed s.lbu.turn s with
  | some v => rfl
  | none =>
    cases signalServed s.lbu.turn.other s with
    | some v => rfl
    | none => rfl

theorem Slot.eq_other {m n : Slot} (h : m ≠ n) : m = n.other := by
  cases m <;> cases n
  case zero.one => rfl
  case one.zero => rfl
  all_goals exact absurd rfl h

theorem control_controlled (p : State × Nat) :
    ∃ served, Controlled served p (stepOf controlClaim Ctr.grantedControl 1 p) := by
  by_cases hp : p.2 = 0
  · exact ⟨none, controlled_none (by rw [stepOf_one, if_pos hp]) (.inl hp)⟩
  have hclaim := controlClaim_eq p.1
  cases hturn : signalServed p.1.lbu.turn p.1 with
  | some v =>
    have hsig : (p.1.call p.1.lbu.turn).signals ≠ [] := fun h => by
      rw [signalServed_none_iff.2 h] at hturn
      cases hturn
    rw [hturn] at hclaim
    exact ⟨_, controlled_signal hp hclaim hturn hsig fun m _ hm => hm.resolve_right hsig⟩
  | none =>
    have hempty := signalServed_none_iff.1 hturn
    rw [hturn] at hclaim
    cases hother : signalServed p.1.lbu.turn.other p.1 with
    | some v =>
      have hsig : (p.1.call p.1.lbu.turn.other).signals ≠ [] := fun h => by
        rw [signalServed_none_iff.2 h] at hother
        cases hother
      rw [hother] at hclaim
      refine ⟨_, controlled_signal hp hclaim hother hsig fun m hm _ => ?_⟩
      have hne : m ≠ p.1.lbu.turn := fun h => hm (h ▸ hempty)
      exact Slot.eq_other hne
    | none =>
      rw [hother] at hclaim
      have hnone : ∀ n, (p.1.call n).signals = [] := by
        intro n
        by_cases h : n = p.1.lbu.turn
        · rw [h]
          exact hempty
        · rw [Slot.eq_other h]
          exact signalServed_none_iff.1 hother
      cases hops : operationsClaim p.1 with
      | some v =>
        rw [hops] at hclaim
        exact ⟨_, controlled_operations hp hclaim hops hnone⟩
      | none =>
        rw [hops] at hclaim
        exact ⟨none, controlled_none (by rw [stepOf_one, if_neg hp, hclaim]; rfl)
          (.inr ⟨hnone, operationsClaim_none_iff.1 hops⟩)⟩

/-! ## The urgent block (R62) -/

theorem sent_urgentClaim {v : State} (h : urgentClaim s = some v) : ∃ b, Sent 15 [b] (fun _ => 0) s v := by
  unfold urgentClaim at h
  split at h
  · split at h
    · cases h
      exact sent_emitGasp _ s
    · cases h
  · cases h

theorem urgentClaim_isSome_iff : (∃ v, urgentClaim s = some v) ↔
    s.lbu.urgent = true ∧ ∃ i ∈ s.fu.exchList, i.kind = .batteryLow := by
  have hfind : s.gaspItem.isSome = true ↔ ∃ i ∈ s.fu.exchList, i.kind = .batteryLow := by
    simp [State.gaspItem, List.find?_isSome]
  unfold urgentClaim
  by_cases hu : s.lbu.urgent = true
  · rw [if_pos hu, ← hfind]
    cases s.gaspItem <;> simp [hu]
  · rw [if_neg hu]
    simp [hu]

theorem urgentClaim_after {v : State} (h : urgentClaim s = some v) :
    v.lbu = { s.lbu with urgent := false } ∧ v.cc = s.cc ∧ v.mdu = s.mdu := by
  unfold urgentClaim at h
  split at h
  · split at h
    · cases h
      exact ⟨by simp [emitGasp], by simp, by simp⟩
    · cases h
  · cases h

/-- What the first step does: the dying gasp, where it is claimed and has its item. -/
structure Urgent (n : Nat) (p q : State × Nat) : Prop where
  left : q.2 + n = p.2
  taken : n = if p.1.lbu.urgent = true ∧ (∃ i ∈ p.1.fu.exchList, i.kind = .batteryLow) ∧ 1 ≤ p.2 then 1 else 0
  sent : ∃ blocks, blocks.length = n ∧ Sent 15 blocks (only Ctr.grantedUrgent n) p.1 q.1
  record : q.1.lbu = { p.1.lbu with urgent := p.1.lbu.urgent && n == 0 }
  idle : n = 0 → q.1 = p.1
  calls : q.1.cc = p.1.cc
  media : q.1.mdu = p.1.mdu

theorem urgent_step (p : State × Nat) : ∃ n, Urgent n p (stepOf urgentClaim Ctr.grantedUrgent 1 p) := by
  by_cases hp : p.2 ≠ 0 ∧ ∃ v, urgentClaim p.1 = some v
  · obtain ⟨hp, v, hv⟩ := hp
    obtain ⟨b, hb⟩ := sent_urgentClaim hv
    obtain ⟨hlbu, hcc, hmdu⟩ := urgentClaim_after hv
    obtain ⟨hu, hi⟩ := urgentClaim_isSome_iff.1 ⟨v, hv⟩
    have e : stepOf urgentClaim Ctr.grantedUrgent 1 p = (bump Ctr.grantedUrgent v, p.2 - 1) := by
      rw [stepOf_one, if_neg hp, hv, Option.elim]
    have hcount : Sent 15 [] (only Ctr.grantedUrgent 1) v (bump Ctr.grantedUrgent v) :=
      .of_grants 15 (grants_bumpBy _ (by decide) v) rfl fun _ _ => rfl
    have hall := hb.trans hcount
    simp only [Nat.zero_add] at hall
    have h1 : 1 ≤ p.2 := Nat.one_le_iff_ne_zero.2 hp
    rw [e]
    exact ⟨1, Nat.sub_add_cancel h1, (if_pos ⟨hu, hi, h1⟩).symm, ⟨_, rfl, hall⟩, by rw [bump_lbu, hlbu, hu]; rfl,
      (fun h => nomatch h), hcc, hmdu⟩
  · have e : stepOf urgentClaim Ctr.grantedUrgent 1 p = p := by
      rw [stepOf_one]
      split
      · rfl
      · rename_i h0
        cases hv : urgentClaim p.1 with
        | none => rfl
        | some v => exact absurd ⟨h0, v, hv⟩ hp
    rw [e]
    refine ⟨0, rfl, (if_neg fun h => hp ⟨Nat.one_le_iff_ne_zero.1 h.2.2, urgentClaim_isSome_iff.2 ⟨h.1, h.2.1⟩⟩).symm,
      ⟨[], rfl, (only_zero Ctr.grantedUrgent).symm ▸ Sent.refl 15 p.1⟩, by simp, fun _ => rfl, rfl, rfl⟩

/-! ## The other claims (R65 to R67) -/

theorem sent_testClaim {v : State} (h : testClaim s = some v) :
    (∃ b, Sent 14 [b] (fun _ => 0) s v) ∧ v.lbu = s.lbu ∧ v.mdu = s.mdu := by
  obtain ⟨-, -, hlbu, -, -, hmdu, -⟩ := testClaim_frame _ _ h
  refine ⟨?_, hlbu, hmdu⟩
  unfold testClaim at h
  split at h
  · exact sent_sendLooped h
  · exact sent_nextOn h

theorem sent_bulkClaim {v : State} (h : bulkClaim s = some v) :
    (∃ b, Sent 3 [b] (fun _ => 0) s v) ∧ v.lbu = s.lbu ∧ v.mdu = s.mdu := by
  obtain ⟨-, -, hlbu, -, -, hmdu, -⟩ := bulkClaim_frame _ _ h
  refine ⟨?_, hlbu, hmdu⟩
  unfold bulkClaim at h
  split at h
  · exact sent_sendLooped h
  · exact sent_nextOn h

theorem sent_priorityClaim {v : State} (h : priorityClaim s = some v) :
    (∃ b, Sent 2 [b] (fun _ => 0) s v) ∧ v.lbu = s.lbu ∧ v.mdu = s.mdu := by
  obtain ⟨-, -, hlbu, -, -, hmdu, -⟩ := priorityClaim_frame _ _ h
  exact ⟨sent_nextOn h, hlbu, hmdu⟩

theorem sent_operationsClaim {v : State} (h : operationsClaim s = some v) :
    (∃ b, Sent 15 [b] (fun _ => 0) s v) ∧ v.lbu = s.lbu ∧ v.mdu = s.mdu := by
  obtain ⟨-, -, hlbu, -, -, hmdu, -⟩ := operationsClaim_frame _ _ h
  exact ⟨sent_nextOn h, hlbu, hmdu⟩

theorem sent_fillRest (n : Nat) (s : State) :
    Sent 0 (List.replicate n (blockBytes s.lbu.size 0 .whole false true 0 0 0 [])) (only Ctr.fillSent n) s (fillRest n s) := by
  induction n generalizing s with
  | zero => exact only_zero Ctr.fillSent ▸ Sent.refl 0 s
  | succ n ih =>
    have hfirst : Sent 0 [blockBytes s.lbu.size 0 .whole false true 0 0 0 []] (only Ctr.fillSent 1) s (emitFill s) :=
      ⟨⟨rfl, grants_of_pieces s (emitFill s) rfl rfl rfl rfl rfl rfl rfl rfl rfl rfl rfl id
        (tallied_bumpBy Ctr.fillSent (by decide) (sendBlock _ s))⟩, by simp [blockChannel_blockBytes], fun _ _ => rfl⟩
    have hall := hfirst.trans (ih (emitFill s))
    rw [only_add, Nat.add_comm 1 n] at hall
    exact hall

/-! ## The whole grant (R61) -/

/-- By how much a period's grants move the counters, given what each step takes and the stale voice frames. -/
def grantTally (g : SlotsTaken) (stale : Nat) : Counter → Nat := fun d =>
  only Ctr.grantedUrgent g.urgent d + only Ctr.grantedVoice (g.voiceZero + g.voiceOne) d +
    only Ctr.grantedControl g.control.toList.length d + only Ctr.grantedTest g.tests d +
    only Ctr.grantedData (g.bulkFloor + g.priority + g.bulk) d + only Ctr.grantedOperations g.operations d +
    only Ctr.fillSent g.fill d + only Ctr.staleVoice stale d

/-- The ten steps of a period's grant, each with the slots it takes; the states between them are named in order. -/
structure Handed (k : Nat) (g : SlotsTaken) (s : State) (p1 p2 p3 p4 p5 p6 p7 p8 p9 : State × Nat) (t : State) : Prop where
  urgent : Urgent g.urgent (s, k) p1
  zero : Voiced .zero p1 p2
  one : Voiced .one p2 p3
  control : Controlled g.control p3 p4
  tests : Took testClaim 14 Ctr.grantedTest 1 g.tests p4 p5
  floor : Took bulkClaim 3 Ctr.grantedData (s.param .bulkFloor) g.bulkFloor p5 p6
  priority : Took priorityClaim 2 Ctr.grantedData k g.priority p6 p7
  bulk : Took bulkClaim 3 Ctr.grantedData k g.bulk p7 p8
  operations : Took operationsClaim 15 Ctr.grantedOperations k g.operations p8 p9
  fill : t = fillRest p9.2 p9.1
  voiceZero : g.voiceZero = voiceSlots .zero p1
  voiceOne : g.voiceOne = voiceSlots .one p2
  filled : g.fill = p9.2

theorem grantTally_eq (g : SlotsTaken) (stale : Nat) :
    grantTally g stale Ctr.grantedUrgent = g.urgent ∧ grantTally g stale Ctr.grantedVoice = g.voiceZero + g.voiceOne ∧
      grantTally g stale Ctr.grantedControl = g.control.toList.length ∧ grantTally g stale Ctr.grantedTest = g.tests ∧
      grantTally g stale Ctr.grantedData = g.bulkFloor + g.priority + g.bulk ∧
      grantTally g stale Ctr.grantedOperations = g.operations ∧ grantTally g stale Ctr.fillSent = g.fill ∧
      grantTally g stale Ctr.staleVoice = stale ∧ grantTally g stale Ctr.periodsCarried = 0 ∧
      grantTally g stale Ctr.emptyPeriods = 0 := by
  simp [grantTally, only, Ctr.grantedUrgent, Ctr.grantedVoice, Ctr.grantedControl, Ctr.grantedTest, Ctr.grantedData,
    Ctr.grantedOperations, Ctr.fillSent, Ctr.staleVoice, Ctr.periodsCarried, Ctr.emptyPeriods]

theorem media_clearDue_other {m n : Slot} (h : m ≠ n) (s : State) : (clearDue n s).media m = s.media m := by
  rw [clearDue, media_onMedia, if_neg (Ne.symm h)]

theorem grantSteps_handed (k : Nat) (h : ∀ n f, (s.media n).due = some f → f.length = 84) :
    ∃ g p1 p2 p3 p4 p5 p6 p7 p8 p9, Handed k g s p1 p2 p3 p4 p5 p6 p7 p8 p9 (grantSteps k s) := by
  obtain ⟨nu, hu⟩ := urgent_step (s, k)
  have h0 := voiceStep_voiced .zero (stepOf urgentClaim Ctr.grantedUrgent 1 (s, k)) fun f hf =>
    h .zero f (by rwa [media_congr hu.media] at hf)
  have h1 := voiceStep_voiced .one (voiceStep .zero (stepOf urgentClaim Ctr.grantedUrgent 1 (s, k))) fun f hf =>
    h .one f (by rwa [media_congr h0.media, media_clearDue_other (by decide), media_congr hu.media] at hf)
  obtain ⟨served, hc⟩ := control_controlled (voiceStep .one (voiceStep .zero (stepOf urgentClaim Ctr.grantedUrgent 1 (s, k))))
  obtain ⟨nt, ht⟩ := stepOf_took Ctr.grantedTest 1 _ (fun _ _ hv => (sent_testClaim hv).1) fun _ _ hv => (sent_testClaim hv).2
  obtain ⟨nb, hb⟩ := stepOf_took Ctr.grantedData (s.param .bulkFloor) _ (fun _ _ hv => (sent_bulkClaim hv).1)
    fun _ _ hv => (sent_bulkClaim hv).2
  obtain ⟨np, hp⟩ := stepOf_took Ctr.grantedData k _ (fun _ _ hv => (sent_priorityClaim hv).1)
    fun _ _ hv => (sent_priorityClaim hv).2
  obtain ⟨nk, hk⟩ := stepOf_took Ctr.grantedData k _ (fun _ _ hv => (sent_bulkClaim hv).1) fun _ _ hv => (sent_bulkClaim hv).2
  obtain ⟨no, ho⟩ := stepOf_took Ctr.grantedOperations k _ (fun _ _ hv => (sent_operationsClaim hv).1)
    fun _ _ hv => (sent_operationsClaim hv).2
  exact ⟨⟨nu, _, _, served, nt, nb, np, nk, no, _⟩, _, _, _, _, _, _, _, _, _, hu, h0, h1, hc, ht, hb, hp, hk, ho, rfl, rfl, rfl,
    rfl⟩

section Handed

variable {k : Nat} {g : SlotsTaken} {p1 p2 p3 p4 p5 p6 p7 p8 p9 : State × Nat}

/-- The slots left after each step. -/
theorem Handed.slots (h : Handed k g s p1 p2 p3 p4 p5 p6 p7 p8 p9 t) :
    p1.2 + g.urgent = k ∧ p2.2 + g.voiceZero = p1.2 ∧ p3.2 + g.voiceOne = p2.2 ∧ p4.2 + g.control.toList.length = p3.2 ∧
      p5.2 + g.tests = p4.2 ∧ p6.2 + g.bulkFloor = p5.2 ∧ p7.2 + g.priority = p6.2 ∧ p8.2 + g.bulk = p7.2 ∧
      p9.2 + g.operations = p8.2 ∧ g.fill = p9.2 :=
  ⟨h.urgent.left, by rw [h.voiceZero]; exact h.zero.left, by rw [h.voiceOne]; exact h.one.left, h.control.left, h.tests.left,
   h.floor.left, h.priority.left, h.bulk.left, h.operations.left, h.filled⟩

theorem Handed.total (h : Handed k g s p1 p2 p3 p4 p5 p6 p7 p8 p9 t) : g.traffic + g.fill = k := by
  have := h.slots
  unfold SlotsTaken.traffic SlotsTaken.toBulkFloor SlotsTaken.beforeTests SlotsTaken.beforeControl
  omega

/-- The budget record through the steps: the urgent claim falls in the first, the turn moves in the control step. -/
theorem Handed.records (h : Handed k g s p1 p2 p3 p4 p5 p6 p7 p8 p9 t) :
    p3.1.lbu = { s.lbu with urgent := s.lbu.urgent && g.urgent == 0 } ∧
      t.lbu = { s.lbu with urgent := s.lbu.urgent && g.urgent == 0, turn := p4.1.lbu.turn } := by
  have hstart : p3.1.lbu = { s.lbu with urgent := s.lbu.urgent && g.urgent == 0 } := by
    rw [h.one.record, h.zero.record, h.urgent.record]
  have hend : t.lbu = p4.1.lbu := by
    rw [h.fill, (fillRest_frame p9.2 p9.1).2.2.2.1, h.operations.record, h.bulk.record, h.priority.record, h.floor.record,
      h.tests.record]
  refine ⟨hstart, ?_⟩
  rw [hend, h.control.record, hstart]

/-- Nothing is due after the grant; the Media Unit is otherwise as it was. -/
theorem Handed.media (h : Handed k g s p1 p2 p3 p4 p5 p6 p7 p8 p9 t) :
    t.mdu = (clearDue .one (clearDue .zero s)).mdu := by
  have hclear (n : Slot) {u v : State} (e : u.mdu = v.mdu) : (clearDue n u).mdu = (clearDue n v).mdu := by
    simp only [clearDue, onMedia, onMdu, e]
  rw [h.fill, (fillRest_frame p9.2 p9.1).2.2.2.2.2.2.2.2.1, h.operations.media, h.bulk.media, h.priority.media,
    h.floor.media, h.tests.media, h.control.media, h.one.media, hclear .one (h.zero.media.trans (hclear .zero h.urgent.media))]

/-- The blocks of a period in the order of the steps (R61). -/
structure Ordered (k : Nat) (g : SlotsTaken) (blocks : List Bytes) (s : State) : Prop where
  length : blocks.length = k
  channels : blocks.map blockChannel =
    List.replicate g.urgent 15 ++ List.replicate g.voiceZero 0 ++ List.replicate g.voiceOne 1 ++
      g.control.toList.map Fin.val ++ List.replicate g.tests 14 ++ List.replicate g.bulkFloor 3 ++
      List.replicate g.priority 2 ++ List.replicate g.bulk 3 ++ List.replicate g.operations 15 ++ List.replicate g.fill 0
  fillBlocks : blocks.drop g.traffic = List.replicate g.fill (blockBytes s.lbu.size 0 .whole false true 0 0 0 [])
  framesZero : ∀ f, (s.media .zero).due = some f → g.voiceZero ≠ 0 →
    (blocks.drop g.urgent).take g.voiceZero = blocksOf s.lbu.size 0 (s.chan 0).txSeq (s.chan 0).nextFrame f
  framesOne : ∀ f, (s.media .one).due = some f → g.voiceOne ≠ 0 →
    (blocks.drop (g.urgent + g.voiceZero)).take g.voiceOne = blocksOf s.lbu.size 1 (s.chan 1).txSeq (s.chan 1).nextFrame f

theorem Handed.laid (h : Handed k g s p1 p2 p3 p4 p5 p6 p7 p8 p9 t) :
    ∃ blocks, Ordered k g blocks s ∧ Laid blocks (grantTally g (staleAt .zero p1 + staleAt .one p2)) s t := by
  obtain ⟨bu, lu, hu⟩ := h.urgent.sent
  obtain ⟨b0, l0, h0, f0⟩ := h.zero.sent
  obtain ⟨b1, l1, h1, f1⟩ := h.one.sent
  obtain ⟨c, bc, -, cc, hc⟩ := h.control.sent
  obtain ⟨bt, lt, ht⟩ := h.tests.sent
  obtain ⟨bb, lb, hb⟩ := h.floor.sent
  obtain ⟨bp, lp, hp⟩ := h.priority.sent
  obtain ⟨bk, lk, hk⟩ := h.bulk.sent
  obtain ⟨bo, lo, ho⟩ := h.operations.sent
  have hf := sent_fillRest p9.2 p9.1
  have hsize : p9.1.lbu.size = s.lbu.size := by
    rw [h.operations.record, h.bulk.record, h.priority.record, h.floor.record, h.tests.record, h.control.record, h.records.1]
  have lc : bc.length = g.control.toList.length := by simpa using congrArg List.length cc
  rw [← h.fill, ← h.filled, hsize] at hf
  rw [← h.voiceZero] at l0 h0 f0
  rw [← h.voiceOne] at l1 h1 f1
  refine ⟨bu ++ (b0 ++ (b1 ++ (bc ++ (bt ++ (bb ++ (bp ++ (bk ++ (bo ++ List.replicate g.fill
    (blockBytes s.lbu.size 0 .whole false true 0 0 0 []))))))))), ⟨?_, ?_, ?_, fun f hdue hv => ?_, fun f hdue hv => ?_⟩, ?_⟩
  · have := h.slots
    simp only [List.length_append, List.length_replicate, lu, l0, l1, lc, lt, lb, lp, lk, lo]
    omega
  · simp only [List.map_append, hu.channels, h0.channels, h1.channels, cc, ht.channels, hb.channels, hp.channels, hk.channels,
      ho.channels, hf.channels, List.append_assoc, List.length_replicate, lu, l0, l1, lt, lb, lp, lk, lo]
    rfl
  · simp only [← List.append_assoc]
    refine List.drop_left' ?_
    simp only [List.length_append, lu, l0, l1, lc, lt, lb, lp, lk, lo]
    unfold SlotsTaken.traffic SlotsTaken.toBulkFloor SlotsTaken.beforeTests SlotsTaken.beforeControl
    rfl
  · rw [List.drop_left' lu, List.take_left' l0]
    rw [f0 f (by rw [media_congr h.urgent.media]; exact hdue) hv, h.urgent.record, hu.others _ (by decide)]
    rfl
  · rw [← List.append_assoc bu, List.drop_left' (by rw [List.length_append, lu, l0]), List.take_left' l1]
    rw [f1 f (by rw [media_congr h.zero.media, media_clearDue_other (by decide), media_congr h.urgent.media]; exact hdue) hv,
      h.zero.record, h.urgent.record, h0.others _ (by decide), hu.others _ (by decide)]
    rfl
  · have hall := hu.toLaid.trans (h0.toLaid.trans (h1.toLaid.trans (hc.toLaid.trans (ht.toLaid.trans (hb.toLaid.trans
      (hp.toLaid.trans (hk.toLaid.trans (ho.toLaid.trans hf.toLaid))))))))
    exact hall.retally fun d => by
      simp only [grantTally, only_add_apply]
      omega

/-- A claim with nothing to send takes no slot. -/
theorem Took.idle_of_none {claim : Claim} {c : Chan} {ctr : Counter} {limit n : Nat} {p q : State × Nat}
    (h : Took claim c ctr limit n p q) (hn : claim p.1 = none) : q.1 = p.1 :=
  h.idle (Decidable.not_not.1 fun hne => h.had hne hn)

/-- What a step leaves unsent on channel 14 stays so to the end of the period. -/
theorem Handed.noTest_end (h : Handed k g s p1 p2 p3 p4 p5 p6 p7 p8 p9 t) (hn : noTest p5.1) : noTest t := by
  obtain ⟨bb, -, hb⟩ := h.floor.sent
  obtain ⟨bp, -, hp⟩ := h.priority.sent
  obtain ⟨bk, -, hk⟩ := h.bulk.sent
  obtain ⟨bo, -, ho⟩ := h.operations.sent
  rw [h.fill]
  exact (sent_fillRest p9.2 p9.1).noTest (by decide) (ho.noTest (by decide) (hk.noTest (by decide) (hp.noTest (by decide)
    (hb.noTest (by decide) hn))))

theorem Handed.noBulk_end (h : Handed k g s p1 p2 p3 p4 p5 p6 p7 p8 p9 t) (hn : noBulk p8.1) : noBulk t := by
  obtain ⟨bo, -, ho⟩ := h.operations.sent
  rw [h.fill]
  exact (sent_fillRest p9.2 p9.1).noBulk (by decide) (ho.noBulk (by decide) hn)

theorem Handed.noBulk_floor (h : Handed k g s p1 p2 p3 p4 p5 p6 p7 p8 p9 t) (hn : noBulk p6.1) : noBulk t := by
  obtain ⟨bp, -, hp⟩ := h.priority.sent
  have h7 := hp.noBulk (by decide) hn
  exact h.noBulk_end (by rw [h.bulk.idle_of_none (bulkClaim_none_iff.2 h7)]; exact h7)

theorem Handed.noPriority_end (h : Handed k g s p1 p2 p3 p4 p5 p6 p7 p8 p9 t) (hn : noPriority p7.1) : noPriority t := by
  obtain ⟨bk, -, hk⟩ := h.bulk.sent
  obtain ⟨bo, -, ho⟩ := h.operations.sent
  rw [h.fill]
  exact (sent_fillRest p9.2 p9.1).noPriority (by decide) (ho.noPriority (by decide) (hk.noPriority (by decide) hn))

theorem Handed.noOperations_end (h : Handed k g s p1 p2 p3 p4 p5 p6 p7 p8 p9 t) (hn : noOperations p9.1) : noOperations t := by
  rw [h.fill]
  exact (sent_fillRest p9.2 p9.1).noOperations (by decide) hn

theorem Handed.noOperations_control (h : Handed k g s p1 p2 p3 p4 p5 p6 p7 p8 p9 t) (hn : noOperations p4.1) :
    noOperations t := by
  obtain ⟨bt, -, ht⟩ := h.tests.sent
  obtain ⟨bb, -, hb⟩ := h.floor.sent
  obtain ⟨bp, -, hp⟩ := h.priority.sent
  obtain ⟨bk, -, hk⟩ := h.bulk.sent
  have h8 := hk.noOperations (by decide) (hp.noOperations (by decide) (hb.noOperations (by decide)
    (ht.noOperations (by decide) hn)))
  exact h.noOperations_end (by rw [h.operations.idle_of_none (operationsClaim_none_iff.2 h8)]; exact h8)

/-- With nothing to send on channel 15 at the start, the gasp has no item, and nothing comes up before the control step. -/
theorem Handed.noOperations_start (h : Handed k g s p1 p2 p3 p4 p5 p6 p7 p8 p9 t) (hn : noOperations s) :
    noOperations p3.1 := by
  obtain ⟨b0, -, h0, -⟩ := h.zero.sent
  obtain ⟨b1, -, h1, -⟩ := h.one.sent
  have hitem : ¬ ∃ i ∈ s.fu.exchList, i.kind = FaultKind.batteryLow := by
    rw [hn.2.2]
    rintro ⟨i, hi, -⟩
    cases hi
  have hu : g.urgent = 0 := h.urgent.taken.trans (if_neg fun e => hitem e.2.1)
  refine h1.noOperations (by decide) (h0.noOperations (by decide) ?_)
  rw [h.urgent.idle hu]
  exact hn

/-- A probe to answer or a looped block there at the test step was there at the start. -/
theorem Handed.noTest_start (h : Handed k g s p1 p2 p3 p4 p5 p6 p7 p8 p9 t) (hn : noTest s) : noTest p4.1 := by
  obtain ⟨bu, -, hu⟩ := h.urgent.sent
  obtain ⟨b0, -, h0, -⟩ := h.zero.sent
  obtain ⟨b1, -, h1, -⟩ := h.one.sent
  obtain ⟨c, bc, hchan, -, hc⟩ := h.control.sent
  have hne : (14 : Chan) ≠ c := by
    rintro rfl
    exact absurd hchan (by decide)
  exact hc.noTest hne (h1.noTest (by decide) (h0.noTest (by decide) (hu.noTest (by decide) hn)))

theorem Handed.signals (h : Handed k g s p1 p2 p3 p4 p5 p6 p7 p8 p9 t) (n : Slot) :
    (p3.1.call n).signals = (s.call n).signals := by
  rw [h.one.signals, h.zero.signals, call_congr h.urgent.calls]

/-- The grant order's clauses about the state after a period (R61 to R67). -/
theorem Handed.order (h : Handed k g s p1 p2 p3 p4 p5 p6 p7 p8 p9 t) {blocks : List Bytes} (ho : Ordered k g blocks s) :
    GrantOrder k blocks g s t := by
  have hslots := h.slots
  have hbefore : g.beforeControl = g.urgent + g.voiceZero + g.voiceOne := rfl
  have htests : g.beforeTests = g.beforeControl + g.control.toList.length := rfl
  have hfloor : g.toBulkFloor = g.beforeTests + g.tests + g.bulkFloor := rfl
  have htraffic : g.traffic = g.toBulkFloor + g.priority + g.bulk + g.operations := rfl
  obtain ⟨hstart, hend⟩ := h.records
  have hturn : p3.1.lbu.turn = s.lbu.turn := by rw [hstart]
  have hturn' : t.lbu.turn = p4.1.lbu.turn := by rw [hend]
  refine ⟨h.total, ho.channels, ho.fillBlocks, h.urgent.taken, by rw [hend], ?_, ?_, ho.framesZero, ho.framesOne,
    fun n hb hs ht => ?_, fun hn => ?_, fun hn hb => ?_, ?_, fun hn hb => ?_, h.floor.bound, fun hn hb => ?_, fun hn => ?_,
    fun hn => ?_, fun hn => ?_⟩
  · rw [h.voiceZero, voiceSlots, media_congr h.urgent.media, h.urgent.record, show k - g.urgent = p1.2 by omega]
  · rw [h.voiceOne, voiceSlots, media_congr h.zero.media, media_clearDue_other (by decide), media_congr h.urgent.media,
      h.zero.record, h.urgent.record, show k - g.urgent - g.voiceZero = p2.2 by omega]
  · rw [hturn']
    exact h.control.signal n (by omega) (by rwa [h.signals]) (by rwa [hturn, h.signals])
  · obtain ⟨ht, hc⟩ := h.control.noSignal (hn.imp (by omega) fun hn n => (h.signals n).trans (hn n))
    exact ⟨by rw [hturn', ht, hturn], hc.imp id fun hc => ⟨hc.1, fun hs => hc.2 (h.noOperations_start hs)⟩⟩
  · have hlen : g.control.toList.length = 0 := by rw [hn]; rfl
    exact h.noOperations_control (h.control.passed hn (by omega))
  · by_cases hn : g.tests = 0
    · exact .inl hn
    · have := h.tests.bound
      exact .inr ⟨by omega, fun hs => h.tests.had hn (testClaim_none_iff.2 (h.noTest_start hs))⟩
  · exact h.noTest_end (testClaim_none_iff.1 (h.tests.passed (by omega) (by omega)))
  · exact h.noBulk_floor (bulkClaim_none_iff.1 (h.floor.passed hn (by omega)))
  · exact h.noPriority_end (priorityClaim_none_iff.1 (h.priority.passed (by omega) (by omega)))
  · exact h.noBulk_end (bulkClaim_none_iff.1 (h.bulk.passed (by omega) (by omega)))
  · exact h.noOperations_end (operationsClaim_none_iff.1 (h.operations.passed (by omega) (by omega)))

end Handed

/-! ## The period start in CARRYING (R52) -/

/-- The four steps of the arithmetic, and the period counted. -/
def periodReckoned (s : State) : State :=
  s |> onLbu Budget.period |> bump Ctr.periodsCarried |> whenever (s.lbu.periodBlocks == 0) (bump Ctr.emptyPeriods)

theorem grantPeriod_eq (s : State) : grantPeriod s = grantSteps s.lbu.periodBlocks (periodReckoned s) := rfl

theorem GrantOrder.reckoned {k : Nat} {blocks : List Bytes} {g : SlotsTaken} (h : GrantOrder k blocks g (periodReckoned s) t) :
    GrantOrder k blocks g s t := by
  unfold periodReckoned at h
  cases hk : s.lbu.periodBlocks == 0 <;> rw [hk] at h <;>
    exact ⟨h.total, h.channels, h.fillBlocks, h.urgent, h.claim, h.voiceZero, h.voiceOne, h.framesZero, h.framesOne,
      h.signalServed, h.noSignal, h.controlPassed, h.tests, h.testsPassed, h.bulkFloor, h.floorPassed, h.priorityPassed,
      h.bulkPassed, h.operationsPassed⟩

theorem GrantOrder.played {k : Nat} {blocks : List Bytes} {g : SlotsTaken} (h : GrantOrder k blocks g s t) (hbf : u.bf = t.bf)
    (hlbu : u.lbu = t.lbu) (hqm : u.qm = t.qm) (hfu : u.fu = t.fu) (htr : u.tr = t.tr) (hls : u.ls = t.ls) :
    GrantOrder k blocks g s u := by
  cases t
  cases u
  cases hbf
  cases hlbu
  cases hqm
  cases hfu
  cases htr
  cases hls
  exact ⟨h.total, h.channels, h.fillBlocks, h.urgent, h.claim, h.voiceZero, h.voiceOne, h.framesZero, h.framesOne,
    h.signalServed, h.noSignal, h.controlPassed, h.tests, h.testsPassed, h.bulkFloor, h.floorPassed, h.priorityPassed,
    h.bulkPassed, h.operationsPassed⟩

/-- The Media Unit's part of a period start leaves what is due; nothing else of the state but its own slots moves. -/
theorem mediaPeriod_due (m n : Slot) (s : State) : ((mediaPeriod n s).media m).due = (s.media m).due := by
  have hp := (playPeriod_same (s.media n) (s.param .playoutTarget)).2
  have hw : (mediaPeriod n s).media m = (onMedia n (fun _ =>
      ((s.media n).playPeriod (s.param .playoutTarget)).1.beginFrame) s).media m := by
    unfold mediaPeriod
    dsimp only
    cases ((s.media n).playPeriod (s.param .playoutTarget)).2 <;> rfl
  rw [hw, media_onMedia]
  split
  · rename_i h
    rw [← h, ← hp]
    unfold MediaSlot.beginFrame
    split <;> rfl
  · rfl

/-- The tally of a period's arithmetic. -/
def reckonTally (k : Nat) : Counter → Nat := fun d =>
  only Ctr.periodsCarried 1 d + only Ctr.emptyPeriods (if k = 0 then 1 else 0) d

theorem laid_periodReckoned (s : State) : Laid [] (reckonTally s.lbu.periodBlocks) s (periodReckoned s) := by
  have hout : (periodReckoned s).out = { s.out with line := s.out.line ++ [] } := by
    unfold periodReckoned
    cases s.lbu.periodBlocks == 0 <;> simp [whenever]
  refine ⟨hout, ((grants_onLbu Budget.period s).trans ((grants_bumpBy Ctr.periodsCarried (k := 1) (by decide) _).trans
    (m' := only Ctr.emptyPeriods (if s.lbu.periodBlocks = 0 then 1 else 0)) ?_)).cast fun d => ?_⟩
  · by_cases hk : s.lbu.periodBlocks = 0
    · have e : (s.lbu.periodBlocks == 0) = true := beq_iff_eq.2 hk
      rw [if_pos hk, periodReckoned, e]
      exact grants_bumpBy Ctr.emptyPeriods (by decide) _
    · have e : (s.lbu.periodBlocks == 0) = false := beq_eq_false_iff_ne.2 hk
      rw [if_neg hk, only_zero, periodReckoned, e]
      exact .refl _
  · simp only [reckonTally]
    omega

theorem lbu_periodReckoned (s : State) : (periodReckoned s).lbu = s.lbu.period := by
  unfold periodReckoned
  cases s.lbu.periodBlocks == 0 <;> rfl

theorem mdu_periodReckoned (s : State) : (periodReckoned s).mdu = s.mdu := by
  unfold periodReckoned
  cases s.lbu.periodBlocks == 0 <;> rfl

/-- k is s or one more: the carries are each short of one more (R53, R54). -/
theorem sustained_bounds (h : RecordOk s) :
    s.lbu.sustained ≤ s.lbu.periodBlocks ∧ s.lbu.periodBlocks ≤ s.lbu.sustained + 1 := by
  have hb := h.bitsCarry
  have hc := h.blockCarry
  unfold Budget.sustained Budget.periodBlocks Budget.credit Budget.available Budget.product Budget.blockBits
  generalize s.lbu.bits * s.lbu.eff = x
  cases hs : s.lbu.size <;> rw [hs] at hc <;> simp only [BlockSize.bytes] at hc ⊢ <;> omega

/-- What a period taken in CARRYING comes to. -/
structure PeriodTaken (blocks : List Bytes) (g : SlotsTaken) (s t : State) : Prop where
  length : blocks.length = s.lbu.periodBlocks
  out : t.out = { s.out with line := s.out.line ++ blocks }
  order : GrantOrder s.lbu.periodBlocks blocks g s t
  grants : Grants (fun d => reckonTally s.lbu.periodBlocks d + grantTally g
    ((if (s.media .zero).due.isSome = true ∧ g.voiceZero = 0 then 1 else 0) +
     (if (s.media .one).due.isSome = true ∧ g.voiceOne = 0 then 1 else 0)) d) s t
  due : t.mdu = (clearDue .one (clearDue .zero s)).mdu
  record : t.lbu = { s.lbu.period with turn := t.lbu.turn, urgent := t.lbu.urgent }

theorem grantPeriod_taken (h : VoiceOk s) : ∃ blocks g, PeriodTaken blocks g s (grantPeriod s) := by
  have hmdu := mdu_periodReckoned s
  obtain ⟨g, p1, p2, p3, p4, p5, p6, p7, p8, p9, hh⟩ := grantSteps_handed (s := periodReckoned s) s.lbu.periodBlocks
    fun n f hf => h.due n f (by rwa [media_congr hmdu] at hf)
  obtain ⟨blocks, hord, hlaid⟩ := hh.laid
  have hall := (laid_periodReckoned s).trans hlaid
  have hzero : staleAt .zero p1 = if (s.media .zero).due.isSome = true ∧ g.voiceZero = 0 then 1 else 0 := by
    rw [staleAt, hh.voiceZero, media_congr hh.urgent.media, media_congr hmdu]
  have hone : staleAt .one p2 = if (s.media .one).due.isSome = true ∧ g.voiceOne = 0 then 1 else 0 := by
    rw [staleAt, hh.voiceOne, media_congr hh.zero.media, media_clearDue_other (by decide), media_congr hh.urgent.media,
      media_congr hmdu]
  rw [hzero, hone] at hall
  refine ⟨blocks, g, hord.length, by rw [grantPeriod_eq]; exact hall.out, (hh.order hord).reckoned, hall.grants, ?_, ?_⟩
  · rw [grantPeriod_eq, hh.media]
    simp only [clearDue, onMedia, onMdu, hmdu]
  · rw [grantPeriod_eq, hh.records.2, lbu_periodReckoned]

/-! ## The whole period start (R52, R63, R132) -/

/-- The Media Unit's part and the sample clock, after the Line Budget Unit's. -/
def periodPlayed (s : State) : State :=
  s |> mediaPeriod .zero |> mediaPeriod .one |> onClock (fun c => { c with sampleInPeriod := 0, tickInPeriod := 0 })

theorem periodPlayed_due (n : Slot) (s : State) : ((periodPlayed s).media n).due = (s.media n).due :=
  (mediaPeriod_due n .one _).trans (mediaPeriod_due n .zero s)

theorem periodPlayed_frame (s : State) :
    (periodPlayed s).bf = s.bf ∧ (periodPlayed s).ls = s.ls ∧ (periodPlayed s).lbu = s.lbu ∧ (periodPlayed s).qm = s.qm ∧
      (periodPlayed s).cc = s.cc ∧ (periodPlayed s).fu = s.fu ∧ (periodPlayed s).tr = s.tr ∧
      (periodPlayed s).counters = s.counters ∧ (periodPlayed s).out = s.out ∧
      (periodPlayed s).clock = { s.clock with sampleInPeriod := 0, tickInPeriod := 0 } := by
  simp [periodPlayed]

theorem periodStart_carrying (h : s.ls.link = .carrying) : periodStart s = periodPlayed (grantPeriod s) := by
  have hc : s.carrying = true := by simp [State.carrying, h]
  rw [periodStart, if_pos hc]
  rfl

theorem periodStart_offLine (h : s.ls.link ≠ .carrying) :
    periodStart s = periodPlayed (dueStale .one (dueStale .zero s)) := by
  have hc : ¬ s.carrying = true := by simpa [State.carrying] using h
  rw [periodStart, if_neg hc]
  rfl

theorem clearDue_due (m n : Slot) (s : State) : ((clearDue n s).media m).due = if n = m then none else (s.media m).due := by
  rw [clearDue, media_onMedia]
  split <;> rfl

theorem dueStale_due (m n : Slot) (s : State) : ((dueStale n s).media m).due = if n = m then none else (s.media m).due := by
  unfold dueStale
  split
  · exact clearDue_due m n s
  · rename_i hd
    split
    · rename_i h
      rw [← h]
      simpa using hd
    · rfl

theorem dueStale_countsOnly (n : Slot) (s : State) : countsOnly [Ctr.staleVoice] s (dueStale n s) := by
  unfold dueStale
  split
  · exact (countsOnly.refl _ _).congr (u := clearDue n s) rfl |>.bump (by decide)
  · exact .refl _ _

section Taken

variable {blocks : List Bytes} {g : SlotsTaken}

theorem PeriodTaken.counted (h : PeriodTaken blocks g s t) (hc : CountersOk s) {c : Counter} {k : Nat} (hm : c ∈ grantCounters)
    (hk : reckonTally s.lbu.periodBlocks c + grantTally g
      ((if (s.media .zero).due.isSome = true ∧ g.voiceZero = 0 then 1 else 0) +
       (if (s.media .one).due.isSome = true ∧ g.voiceOne = 0 then 1 else 0)) c = k) : Machine.counted c k s t := by
  have hle := hc c
  have hcount := countedIf_ne_zero.1 (h.grants.counts c hm)
  rw [hk] at hcount
  rw [Machine.counted, hcount]
  split
  · rename_i h0
    rw [h0]
    unfold satAdd
    omega
  · rfl

theorem reckonTally_eq (k : Nat) :
    reckonTally k Ctr.grantedUrgent = 0 ∧ reckonTally k Ctr.grantedVoice = 0 ∧ reckonTally k Ctr.grantedControl = 0 ∧
      reckonTally k Ctr.grantedTest = 0 ∧ reckonTally k Ctr.grantedData = 0 ∧ reckonTally k Ctr.grantedOperations = 0 ∧
      reckonTally k Ctr.fillSent = 0 ∧ reckonTally k Ctr.staleVoice = 0 ∧ reckonTally k Ctr.periodsCarried = 1 ∧
      reckonTally k Ctr.emptyPeriods = if k = 0 then 1 else 0 := by
  simp [reckonTally, only, Ctr.grantedUrgent, Ctr.grantedVoice, Ctr.grantedControl, Ctr.grantedTest, Ctr.grantedData,
    Ctr.grantedOperations, Ctr.fillSent, Ctr.staleVoice, Ctr.periodsCarried, Ctr.emptyPeriods]

theorem PeriodTaken.allCounted (h : PeriodTaken blocks g s t) (hc : CountersOk s) :
    GrantsCounted g s t ∧ Machine.counted Ctr.staleVoice
      ((if (s.media .zero).due.isSome = true ∧ g.voiceZero = 0 then 1 else 0) +
       (if (s.media .one).due.isSome = true ∧ g.voiceOne = 0 then 1 else 0)) s t := by
  obtain ⟨ru, rv, rc, rt, rd, ro, rf, rs, -, -⟩ := reckonTally_eq s.lbu.periodBlocks
  obtain ⟨gu, gv, gc, gt, gd, go, gf, gs, -, -⟩ := grantTally_eq g
    ((if (s.media .zero).due.isSome = true ∧ g.voiceZero = 0 then 1 else 0) +
     (if (s.media .one).due.isSome = true ∧ g.voiceOne = 0 then 1 else 0))
  exact ⟨⟨h.counted hc (by decide) (by rw [ru, gu, Nat.zero_add]), h.counted hc (by decide) (by rw [rv, gv, Nat.zero_add]),
    h.counted hc (by decide) (by rw [rc, gc, Nat.zero_add]), h.counted hc (by decide) (by rw [rt, gt, Nat.zero_add]),
    h.counted hc (by decide) (by rw [rd, gd, Nat.zero_add]), h.counted hc (by decide) (by rw [ro, go, Nat.zero_add]),
    h.counted hc (by decide) (by rw [rf, gf, Nat.zero_add])⟩, h.counted hc (by decide) (by rw [rs, gs, Nat.zero_add])⟩

/-- The period counted, and counted again where it has no block (R52). -/
theorem PeriodTaken.periods (h : PeriodTaken blocks g s t) :
    Machine.counted Ctr.periodsCarried 1 s t ∧
      t.counter Ctr.emptyPeriods = if s.lbu.periodBlocks = 0 then satAdd Config.max32 (s.counter Ctr.emptyPeriods) 1
        else s.counter Ctr.emptyPeriods := by
  obtain ⟨-, -, -, -, -, -, -, -, rp, re⟩ := reckonTally_eq s.lbu.periodBlocks
  obtain ⟨-, -, -, -, -, -, -, -, gp, ge⟩ := grantTally_eq g
    ((if (s.media .zero).due.isSome = true ∧ g.voiceZero = 0 then 1 else 0) +
     (if (s.media .one).due.isSome = true ∧ g.voiceOne = 0 then 1 else 0))
  have hp := countedIf_ne_zero.1 (h.grants.counts Ctr.periodsCarried (by decide))
  have he := countedIf_ne_zero.1 (h.grants.counts Ctr.emptyPeriods (by decide))
  rw [rp, gp] at hp
  rw [re, ge, Nat.add_zero] at he
  refine ⟨hp, he.trans ?_⟩
  by_cases hk : s.lbu.periodBlocks = 0 <;> simp [hk]

/-- A period taken, after the Media Unit's part. -/
theorem PeriodTaken.played (h : PeriodTaken blocks g s t) :
    (periodPlayed t).out = t.out ∧ GrantOrder s.lbu.periodBlocks blocks g s (periodPlayed t) ∧
      (∀ c, (periodPlayed t).counter c = t.counter c) ∧ (periodPlayed t).lbu = t.lbu ∧
      (periodPlayed t).fu = t.fu ∧ (periodPlayed t).qm = t.qm ∧ (∀ n, (periodPlayed t).call n = t.call n) ∧
      (periodPlayed t).tr = t.tr ∧ (∀ n, ((periodPlayed t).media n).due = none) ∧
      (periodPlayed t).clock = { s.clock with sampleInPeriod := 0, tickInPeriod := 0 } := by
  obtain ⟨hbf, hls, hlbu, hqm, hcc, hfu, htr, hcounters, hout, hclock⟩ := periodPlayed_frame t
  have hrest : t.clock = s.clock := congrArg (fun r => r.2.2.2.2.2.1) h.grants.rest
  refine ⟨hout, h.order.played hbf hlbu hqm hfu htr hls, counter_congr hcounters, hlbu, hfu, hqm, call_congr hcc, htr,
    fun n => ?_, by rw [hclock, hrest]⟩
  rw [periodPlayed_due, media_congr h.due, clearDue_due, clearDue_due]
  cases n <;> rfl

end Taken

/-- Settles O11: the ten steps of the grant order hand the slots out one after another, and the claims only ever lose what they
have to send. -/
theorem periodsEmitTheirBlocks : Obligations.PeriodsEmitTheirBlocks := by
  intro s
  refine ⟨fun hl hv => ⟨_, rfl, ?_⟩, fun hl => ⟨_, rfl, ?_⟩⟩
  · have hfoot : changesOnly (footprint .budgetPeriodStart) s (periodStart s) := effect_changesOnly .budgetPeriodStart s
    obtain ⟨blocks, g, hp⟩ := grantPeriod_taken hv
    obtain ⟨hout, horder, hcounter, hlbu, hfu, hqm, hcall, htr, hdue, hclock⟩ := hp.played
    obtain ⟨hcarried, hempty⟩ := hp.periods
    rw [periodStart_carrying hl] at hfoot ⊢
    refine ⟨⟨blocks, g, hp.length, hout.trans hp.out, horder, fun hc => ?_⟩, hdue, fun hr => sustained_bounds hr, ?_,
      (hcounter _).trans hcarried, (hcounter _).trans hempty, hfoot, ?_, ?_, ?_, fun n => ?_, ?_, hclock⟩
    · obtain ⟨hg, hs⟩ := hp.allCounted hc
      exact ⟨⟨(hcounter _).trans hg.urgent, (hcounter _).trans hg.voice, (hcounter _).trans hg.control,
        (hcounter _).trans hg.tests, (hcounter _).trans hg.data, (hcounter _).trans hg.operations,
        (hcounter _).trans hg.fill⟩, (hcounter _).trans hs⟩
    · rw [hlbu]
      exact hp.record
    · rw [hfu]
      exact hp.grants.faults
    · rw [hqm]
      exact hp.grants.home.1
    · rw [hqm]
      exact hp.grants.home.2
    · rw [hcall]
      exact hp.grants.calls n
    · rw [htr]
      exact hp.grants.test
  · rw [periodStart_offLine hl]
    obtain ⟨hbf, hls, hlbu, hqm, hcc, hfu, htr, hcounters, hout, hclock⟩ := periodPlayed_frame (dueStale .one (dueStale .zero s))
    refine ⟨by simp [changesOnly_iff, periodPlayed], ?_, fun n => ?_, by rw [hclock]; simp⟩
    · exact ((dueStale_countsOnly .zero s).trans (dueStale_countsOnly .one _)).congr hcounters
    · rw [periodPlayed_due, dueStale_due, dueStale_due]
      cases n <;> rfl

/-! ## The carries (R55) -/

/-- One period's account: the capacity B × E goes into blocks and carries, none is lost. -/
theorem period_account (b : Budget) :
    512 * (8 * b.size.bytes * b.periodBlocks + b.period.blockCarry) + b.period.bitsCarry =
      10 * b.rate * b.eff + 512 * b.blockCarry + b.bitsCarry := by
  have hcredit : 8 * b.size.bytes * (b.credit / (8 * b.size.bytes)) + b.credit % (8 * b.size.bytes) = b.credit :=
    Nat.div_add_mod _ _
  have hproduct : 512 * (b.product / 512) + b.product % 512 = b.product := Nat.div_add_mod _ _
  have hk : b.periodBlocks = b.credit / (8 * b.size.bytes) := rfl
  have hb : b.period.blockCarry = b.credit % (8 * b.size.bytes) := rfl
  have hc : b.period.bitsCarry = b.product % 512 := rfl
  have hcr : b.credit = b.product / 512 + b.blockCarry := rfl
  have hpr : b.product = 10 * b.rate * b.eff + b.bitsCarry := rfl
  rw [hk, hb, hcredit, hc, hcr]
  omega

/-- Settles O12, by induction on the number of periods: every period keeps the settings, the account and the voice frames'
length. -/
theorem carriesKeepTheAccount : Obligations.CarriesKeepTheAccount := by
  intro n f hl hv hf
  have key : ∀ i, i ≤ n → (f i).ls.link = .carrying ∧ VoiceOk (f i) ∧
      (f i).lbu.rate = (f 0).lbu.rate ∧ (f i).lbu.eff = (f 0).lbu.eff ∧ (f i).lbu.size = (f 0).lbu.size ∧
      ∃ blocks : List Bytes, (f i).out.line = (f 0).out.line ++ blocks ∧
        512 * (8 * (f 0).lbu.size.bytes * blocks.length + (f i).lbu.blockCarry) + (f i).lbu.bitsCarry =
          i * (10 * (f 0).lbu.rate * (f 0).lbu.eff) + 512 * (f 0).lbu.blockCarry + (f 0).lbu.bitsCarry := by
    intro i
    induction i with
    | zero => exact fun _ => ⟨hl, hv, rfl, rfl, rfl, [], (List.append_nil _).symm, by simp⟩
    | succ i ih =>
      intro hi
      obtain ⟨hl', hv', hrate, heff, hsize, blocks, hline, hacc⟩ := ih (by omega)
      have hstep : f (i + 1) = periodStart (f i) := by
        have := hf i (by omega)
        injection this with h
        exact h.symm
      have hkeeps : Keeps (f i) (periodStart (f i)) := periodStart_keeps (.refl _)
      obtain ⟨new, g, hp⟩ := grantPeriod_taken hv'
      obtain ⟨hout, -, -, hlbu, -⟩ := hp.played
      have hend : (periodStart (f i)).lbu =
          { (f i).lbu.period with turn := (periodStart (f i)).lbu.turn, urgent := (periodStart (f i)).lbu.urgent } := by
        rw [periodStart_carrying hl', hlbu]
        exact hp.record
      have hgrown : (periodStart (f i)).out.line = (f i).out.line ++ new := by
        rw [periodStart_carrying hl', hout, hp.out]
      have hper := period_account (f i).lbu
      rw [hstep]
      refine ⟨by rw [(periodStart_frame (f i)).2.1]; exact hl', hkeeps.voice hv', by rw [hend]; exact hrate,
        by rw [hend]; exact heff, by rw [hend]; exact hsize, blocks ++ new, by rw [hgrown, hline, List.append_assoc], ?_⟩
      rw [hsize, hrate, heff, ← hp.length] at hper
      have hlen : 8 * (f 0).lbu.size.bytes * (blocks ++ new).length =
          8 * (f 0).lbu.size.bytes * blocks.length + 8 * (f 0).lbu.size.bytes * new.length := by
        rw [List.length_append, Nat.mul_add]
      rw [hend, hlen, Nat.succ_mul i]
      show 512 * (_ + (f i).lbu.period.blockCarry) + (f i).lbu.period.bitsCarry = _
      omega
  obtain ⟨-, -, -, -, -, h⟩ := key n (Nat.le_refl n)
  exact h

end Sys2Proof.Machine

/-! PROOFS. O16 and O2: the playout of a period, and the time an idle step keeps. -/

namespace Sys2Proof.Machine

variable {s t u : State}

/-! ## The playout of a period (R137) -/

/-- A slot of the Media Unit but for the frame that is due. -/
def playout (n : Slot) (s : State) : MediaSlot := { s.media n with due := none }

theorem playout_congr (h : t.mdu = s.mdu) (n : Slot) : playout n t = playout n s := by
  rw [playout, media_congr h, playout]

theorem playout_clearDue (m n : Slot) (s : State) : playout m (clearDue n s) = playout m s := by
  rw [playout, clearDue, media_onMedia]
  split
  · rename_i h
    rw [h]
    rfl
  · rfl

theorem playout_voiceStep (m n : Slot) (p : State × Nat) : playout m (voiceStep n p).1 = playout m p.1 := by
  unfold voiceStep
  split
  · rfl
  · rename_i f _
    dsimp only
    split
    · rw [playout_clearDue]
      exact playout_congr (emitVoice_frame n f p.1).2.2.2.2.2.1 m
    · exact playout_clearDue m n p.1

theorem playout_dueStale (m n : Slot) (s : State) : playout m (dueStale n s) = playout m s := by
  unfold dueStale
  split
  · exact playout_clearDue m n s
  · rfl

theorem playout_grantPeriod (m : Slot) (s : State) : playout m (grantPeriod s) = playout m s := by
  have hstep {claim : Claim} (ctr : Counter) (limit : Nat) (p : State × Nat)
      (hc : ∀ u v, claim u = some v → v.mdu = u.mdu) : playout m (stepOf claim ctr limit p).1 = playout m p.1 :=
    stepOf_keeps (playout m) claim ctr limit p (fun _ => rfl) fun u v h => playout_congr (hc u v h) m
  have hcontrol : ∀ u v, controlClaim u = some v → v.mdu = u.mdu := fun _ _ h => (controlClaim_frame _ _ h).2.2.2.2.1
  rw [grantPeriod_eq, grantSteps, playout_congr (fillRest_frame _ _).2.2.2.2.2.2.2.2.1 m]
  rw [hstep _ _ _ fun _ _ h => (sent_operationsClaim h).2.2, hstep _ _ _ fun _ _ h => (sent_bulkClaim h).2.2,
    hstep _ _ _ fun _ _ h => (sent_priorityClaim h).2.2, hstep _ _ _ fun _ _ h => (sent_bulkClaim h).2.2,
    hstep _ _ _ fun _ _ h => (sent_testClaim h).2.2, hstep _ _ _ hcontrol, playout_voiceStep, playout_voiceStep,
    hstep _ _ _ fun _ _ h => (urgentClaim_after h).2.2]
  exact playout_congr (mdu_periodReckoned s) m

theorem media_mediaPeriod (m n : Slot) (s : State) : (mediaPeriod n s).media m =
    if n = m then ((s.media m).playPeriod (s.param .playoutTarget)).1.beginFrame else s.media m := by
  have hw : (mediaPeriod n s).media m = (onMedia n (fun _ =>
      ((s.media n).playPeriod (s.param .playoutTarget)).1.beginFrame) s).media m := by
    unfold mediaPeriod
    dsimp only
    cases ((s.media n).playPeriod (s.param .playoutTarget)).2 <;> rfl
  rw [hw, media_onMedia]
  split
  · rename_i h
    rw [h]
  · rfl

/-- What a slot that is PLAYING has after the Media Unit's part of a period start. -/
theorem media_periodPlayed {n : Slot} {b : Half} (hp : (s.media n).play = .playing) (hb : (s.media n).base = some b) :
    (periodPlayed s).media n = ((s.media n).playFrom b).1.beginFrame := by
  have hfrom : (s.media n).playPeriod (s.param .playoutTarget) = (s.media n).playFrom b := by
    rw [MediaSlot.playPeriod, hp, hb]
  rw [← hfrom]
  show (mediaPeriod .one (mediaPeriod .zero s)).media n = _
  rw [media_mediaPeriod, media_mediaPeriod, param_congr (mediaPeriod_frame .zero s).2.2.2.2.2.2.2.2.2.1]
  cases n <;> rfl

/-- Beginning a frame touches nothing of the playout. -/
theorem beginFrame_eq (u : MediaSlot) : u.beginFrame = { u with builder := u.beginFrame.builder } := by
  unfold MediaSlot.beginFrame
  split <;> rfl

/-- The slot after a period start: its playout was that of the state before. -/
theorem periodStart_playing {n : Slot} {b : Half} (hp : (s.media n).play = .playing) (hb : (s.media n).base = some b) :
    ∃ u : MediaSlot, { u with due := none } = playout n s ∧
      (periodStart s).media n = { (u.playFrom b).1 with builder := ((periodStart s).media n).builder } := by
  have key {v : State} (hv : playout n v = playout n s) (hs : periodStart s = periodPlayed v) :
      ∃ u : MediaSlot, { u with due := none } = playout n s ∧
        (periodStart s).media n = { (u.playFrom b).1 with builder := ((periodStart s).media n).builder } := by
    have hplay : (v.media n).play = (s.media n).play := (congrArg MediaSlot.play hv :)
    have hbase : (v.media n).base = (s.media n).base := (congrArg MediaSlot.base hv :)
    refine ⟨v.media n, hv, ?_⟩
    rw [hs, media_periodPlayed (hplay.trans hp) (hbase.trans hb)]
    exact beginFrame_eq _
  by_cases hl : s.ls.link = .carrying
  · exact key (playout_grantPeriod n s) (periodStart_carrying hl)
  · exact key ((playout_dueStale n .one _).trans (playout_dueStale n .zero s)) (periodStart_offLine hl)

theorem playFrom_frame {u : MediaSlot} {b : Half} {f : RingFrame} (hf : vget u.ring (ringPos b) = some f) (h : f.seq = b) :
    (u.playFrom b).1 = u.playFrame b f := by
  simp [MediaSlot.playFrom, hf, h]

theorem playFrom_missing {u : MediaSlot} {b : Half} (h : ∀ f, vget u.ring (ringPos b) = some f → f.seq ≠ b) :
    (u.playFrom b).1 = u.playMiss b := by
  unfold MediaSlot.playFrom
  cases hf : vget u.ring (ringPos b) with
  | none => rfl
  | some f => simp [h f hf]

/-- What is played in the place of a missing frame. -/
theorem playMiss_playing (u : MediaSlot) (b : Half) :
    (u.playMiss b).playing = if u.miss = 0 then u.prev.elim silence (List.map fun v => v / 2) else silence := by
  have hrefill (v : MediaSlot) : v.refill.playing = v.playing := rfl
  unfold MediaSlot.playMiss
  dsimp only
  rw [apply_ite MediaSlot.playing, hrefill, ite_self]
  cases u.prev with
  | none => simp
  | some l => simp [halved]

theorem playMiss_fifth {u : MediaSlot} (b : Half) (h : u.miss = 4) :
    (u.playMiss b).play = .filling ∧ (u.playMiss b).base = none ∧ (u.playMiss b).ring = ringEmpty ∧ (u.playMiss b).miss = 0 := by
  simp [MediaSlot.playMiss, h, MediaSlot.refill]

theorem playMiss_before {u : MediaSlot} (b : Half) (h : u.miss ≠ 4) :
    (u.playMiss b).play = u.play ∧ (u.playMiss b).base = some (b + 1) ∧ (u.playMiss b).ring = u.ring ∧
      (u.playMiss b).miss = u.miss + 1 := by
  simp [MediaSlot.playMiss, h]

/-- Settles O16: the Line Budget Unit's part leaves the playout as it was, and then the frame of the base is played or missed. -/
theorem periodPlaysTheNextFrame : Obligations.PeriodPlaysTheNextFrame := by
  intro s n b hp hb
  obtain ⟨u, hu, ht⟩ := periodStart_playing hp hb
  have hring : u.ring = (s.media n).ring := (congrArg MediaSlot.ring hu :)
  have hmiss : u.miss = (s.media n).miss := (congrArg MediaSlot.miss hu :)
  have hprev : u.prev = (s.media n).prev := (congrArg MediaSlot.prev hu :)
  have hplay : u.play = .playing := (congrArg MediaSlot.play hu :).trans hp
  refine ⟨_, rfl, fun f hf hseq => ?_, fun hmissing => ?_⟩
  · have hframe := playFrom_frame (hring ▸ hf : vget u.ring (ringPos b) = some f) hseq
    change let samples := _; ((periodStart s).media n).playing = samples ∧ _
    rw [ht, hframe]
    exact ⟨rfl, rfl, rfl, rfl, hplay, congrArg (fun r => vset r (ringPos b) none) hring⟩
  · have hmiss' := playFrom_missing (fun f hf => hmissing f (hring ▸ hf) : ∀ f, vget u.ring (ringPos b) = some f → f.seq ≠ b)
    have hplaying := playMiss_playing u b
    rw [hmiss, hprev] at hplaying
    change ((periodStart s).media n).playing = _ ∧ _
    rw [ht, hmiss']
    refine ⟨hplaying.trans ?_, ?_⟩
    · cases (s.media n).prev <;> cases (s.media n).miss <;> rfl
    · split
      · rename_i h4
        obtain ⟨hplay', hbase', hring', hmiss4⟩ := playMiss_fifth b (hmiss.trans h4)
        exact ⟨hplay', hbase', fun i => by simp [hring', ringEmpty, vget], hmiss4⟩
      · rename_i h4
        obtain ⟨hplay', hbase', hring', hmiss4⟩ := playMiss_before b (hmiss ▸ h4 : u.miss ≠ 4)
        exact ⟨hplay'.trans hplay, hbase', hring'.trans hring, hmiss4.trans (by rw [hmiss])⟩

/-! ## The time that events keep (R183) -/

/-- The tick of the second and the uptime are as they were. -/
def sameTime (s t : State) : Prop := t.fu.tick = s.fu.tick ∧ t.fu.uptime = s.fu.uptime

theorem sameTime.refl (s : State) : sameTime s s := ⟨rfl, rfl⟩

theorem sameTime.trans (h : sameTime s t) (k : sameTime t u) : sameTime s u := ⟨k.1.trans h.1, k.2.trans h.2⟩

theorem sameTime_of_fu (h : t.fu = s.fu) : sameTime s t := by rw [sameTime, h]; exact ⟨rfl, rfl⟩

theorem sameTime_of_reports (h : Reports s t) : sameTime s t := by rw [sameTime, h.monitor]; exact ⟨rfl, rfl⟩

/-- An event that is not due changes nothing. -/
theorem sameTime_ifDue {due : State → Bool} {event : State → State} (h : ∀ u, sameTime u (event u)) (s : State) :
    sameTime s (ifDue due event s) := by
  unfold ifDue
  split
  · exact h s
  · exact .refl s

theorem sameTime_if {c : Prop} [Decidable c] {x y : State} (hx : sameTime s x) (hy : sameTime s y) :
    sameTime s (if c then x else y) := by
  split
  · exact hx
  · exact hy

/-! ### Timers -/

theorem trainTimerEvent_sameTime (s : State) : sameTime s (trainTimerEvent s) :=
  sameTime_if (sameTime_of_reports (trainingFailed_reports true (reports_bump (.refl s)))) (.refl s)

theorem rideTimerEvent_sameTime (s : State) : sameTime s (rideTimerEvent s) :=
  sameTime_if (sameTime_of_reports (rideFails_reports (.refl s))) (.refl s)

theorem holdTimerEvent_sameTime (s : State) : sameTime s (holdTimerEvent s) :=
  sameTime_if (sameTime_of_reports (holdExpires_reports (.refl s))) (.refl s)

theorem backoffEvent_sameTime (s : State) : sameTime s (backoffEvent s) :=
  sameTime_if (sameTime_of_reports (newRound_reports (.refl s))) (.refl s)

theorem silentEvent_sameTime (s : State) : sameTime s (silentEvent s) :=
  sameTime_if (sameTime_of_reports (startRide_reports (reports_bump (.refl s)))) (.refl s)

theorem alertEvent_sameTime (n : Slot) (s : State) : sameTime s (alertEvent n s) :=
  sameTime_if (sameTime_of_reports (alertLimit_reports n (.refl s))) (.refl s)

theorem testExpiry_sameTime (s : State) : sameTime s (testExpiry s) := sameTime_of_fu (by simp)

theorem timerEvents_sameTime (s : State) : sameTime s (timerEvents s) :=
  (sameTime_ifDue trainTimerEvent_sameTime s).trans <| (sameTime_ifDue rideTimerEvent_sameTime _).trans <|
    (sameTime_ifDue holdTimerEvent_sameTime _).trans <| (sameTime_ifDue backoffEvent_sameTime _).trans <|
    (sameTime_ifDue silentEvent_sameTime _).trans <|
    (sameTime_ifDue (fun u => sameTime_of_reports (loopbackExpires_reports (.refl u))) _).trans <|
    (sameTime_ifDue (alertEvent_sameTime .zero) _).trans <| (sameTime_ifDue (alertEvent_sameTime .one) _).trans <|
    sameTime_ifDue testExpiry_sameTime _

/-! ### Power -/

theorem sameTime_onFu {f : FaultUnit → FaultUnit} (h : (f s.fu).tick = s.fu.tick ∧ (f s.fu).uptime = s.fu.uptime) :
    sameTime s (onFu f s) := h

theorem sameTime_whenever {b : Bool} {f : State → State} (h : ∀ u, sameTime u (f u)) (s : State) :
    sameTime s (whenever b f s) := by
  cases b
  · exact .refl s
  · exact h s

theorem occurrence_sameTime (k : FaultKind) (detail : Nat) (s : State) : sameTime s (occurrence k detail s) :=
  sameTime_of_reports (occurrence_reports k detail (.refl s))

theorem endCondition_sameTime (k : FaultKind) (s : State) : sameTime s (endCondition k s) :=
  sameTime_of_reports (endCondition_reports k (.refl s))

theorem mainsLost_sameTime (detail : Nat) (s : State) : sameTime s (mainsLost detail s) :=
  (occurrence_sameTime .mainsLost detail s).trans (sameTime_onFu ⟨rfl, rfl⟩)

theorem batteryLow_sameTime (detail : Nat) (s : State) : sameTime s (batteryLow detail s) :=
  (occurrence_sameTime .batteryLow detail s).trans
    (sameTime_whenever
      (f := fun s => s |> onFu (fun u => { u with gaspSent := true }) |> onLbu (fun b => { b with urgent := true }))
      (fun _ => ⟨rfl, rfl⟩) _)

theorem powerConditions_sameTime (old new : PowerState) (s : State) : sameTime s (powerConditions old new s) := by
  cases old <;> cases new
  case mains.battery => exact mainsLost_sameTime 2 s
  case mains.low => exact (mainsLost_sameTime 3 s).trans (batteryLow_sameTime 0 _)
  case battery.low => exact batteryLow_sameTime _ s
  case low.battery => exact endCondition_sameTime .batteryLow s
  case battery.mains => exact endCondition_sameTime .mainsLost s
  case low.mains => exact (endCondition_sameTime .mainsLost s).trans (endCondition_sameTime .batteryLow _)
  all_goals exact .refl s

theorem shedBulk_sameTime (s : State) : sameTime s (shedBulk s) := by
  refine sameTime.trans (t := s |> cutShort 3 (fun src => src == .bulk) |> onQm (fun q => { q with bulk := [] })
    |> bumpBy Ctr.bulkShed s.qm.bulk.length) (sameTime_of_fu (by simp)) ?_
  exact sameTime_whenever (fun u => occurrence_sameTime .bulkDrop 4 u) _

theorem testPowerLimited_sameTime (p : Port) (s : State) : sameTime s (testPowerLimited p s) := sameTime_of_fu (by simp)

theorem limitRinger_sameTime (s : State) : sameTime s (limitRinger s) := by
  refine sameTime_if (sameTime_if ?_ ?_) (.refl s)
  · exact sameTime_of_reports (takeIfLifted_reports .b (occurrence_reports .ringLimited 2
      (leaveRingSet_reports .b .power (stopRinging_reports .b (.refl s)))))
  · exact (occurrence_sameTime .ringLimited 2 s).trans (testPowerLimited_sameTime .b _)

/-- The conditions of a change of power state, and what leaving MAINS ends. -/
theorem powerEffects_sameTime (old new : PowerState) (s : State) :
    sameTime s (whenever (old == .mains) (fun s => s |> shedBulk |> limitRinger) (powerConditions old new s)) :=
  (powerConditions_sameTime old new s).trans
    (sameTime_whenever (fun u => (shedBulk_sameTime u).trans (limitRinger_sameTime _)) _)

theorem powerChange_sameTime (mains low : Bool) (s : State) : sameTime s (powerChange mains low s) := by
  unfold powerChange
  dsimp only
  split
  · exact sameTime_onFu ⟨rfl, rfl⟩
  · refine sameTime.trans (t := bump Ctr.powerChanges (onFu (fun u => { u with power := powerOf mains low })
      (onFu (takeInputs mains low) s))) ⟨rfl, rfl⟩ ?_
    exact powerEffects_sameTime _ _ _

theorem powerTick_sameTime (s : State) : sameTime s (powerTick s) :=
  (sameTime_onFu (f := fun u => { u with mainsDiffer := _, batteryDiffer := _ }) ⟨rfl, rfl⟩).trans
    (sameTime_whenever (powerChange_sameTime _ _) _)

/-! ### The ports -/

theorem closingTaken_sameTime (p : Port) (s : State) : sameTime s (closingTaken p s) := by
  unfold closingTaken
  cases (s.port p).state
  case idle => exact sameTime_of_reports (offHook_reports p (.refl s))
  case ringing => exact sameTime_of_reports (answer_reports p (.refl s))
  case testing => exact sameTime_of_fu (by simp)
  all_goals exact .refl s

theorem takeChange_sameTime (p : Port) (closed : Bool) (s : State) : sameTime s (takeChange p closed s) :=
  sameTime_of_reports (takeChange_reports p closed (.refl s))

theorem loopChange_sameTime (p : Port) (s : State) : sameTime s (loopChange p s) :=
  sameTime_if (.refl s) ((takeChange_sameTime p _ s).trans (sameTime_whenever (closingTaken_sameTime p) _))

theorem ringTrip_sameTime (p : Port) (s : State) : sameTime s (ringTrip p s) :=
  sameTime_if ((sameTime_of_reports (stopChannel_reports p (.refl s))).trans
    ((takeChange_sameTime p true _).trans (closingTaken_sameTime p _))) (.refl s)

theorem onHookEvent_sameTime (p : Port) (s : State) : sameTime s (onHookEvent p s) :=
  sameTime_if (sameTime_of_reports (onHookFires_reports p (.refl s))) (.refl s)

theorem interdigitEvent_sameTime (p : Port) (s : State) : sameTime s (interdigitEvent p s) :=
  sameTime_if (sameTime_of_reports (interdigitFires_reports p (.refl s))) (.refl s)

theorem measureTick_sameTime (p : Port) (s : State) : sameTime s (measureTick p s) := by
  unfold measureTick
  dsimp only
  generalize hu : onPort p (fun u => { u with measure := satAdd Config.max16 (s.port p).measure 1 }) s = u
  have h : sameTime s u := hu ▸ sameTime.refl s
  cases (u.port p).compare with
  | none => exact h
  | some c =>
    refine sameTime_if ?_ h
    cases c.kind with
    | onHook => exact h.trans (onHookEvent_sameTime p u)
    | interdigit => exact h.trans (interdigitEvent_sameTime p u)

theorem senseTick_sameTime (p : Port) (s : State) : sameTime s (senseTick p s) := by
  have hm (f : PortUnit → PortUnit) : sameTime s (measureTick p (onPort p f s)) :=
    (sameTime_of_fu (t := onPort p f s) rfl).trans (measureTick_sameTime p _)
  exact sameTime_if (sameTime_if (sameTime_if (ringTrip_sameTime p s) (hm _)) (hm _))
    (sameTime_if (hm _) (sameTime_if (loopChange_sameTime p s) (hm _)))

theorem portTick_sameTime (p : Port) (s : State) : sameTime s (portTick p s) :=
  (senseTick_sameTime p s).trans <| (sameTime_ifDue (fun u => sameTime_of_reports (parkExpires_reports p (.refl u))) _).trans <|
    sameTime_ifDue (fun u => sameTime_of_reports (segmentEnd_reports p (.refl u))) _

/-! ### The period and the second -/

theorem Laid.sameTime {l : List Bytes} {m : Counter → Nat} (h : Laid l m s t) : sameTime s t := by
  rw [Machine.sameTime, h.grants.faults]
  exact ⟨rfl, rfl⟩

/-- The uptime and the tick of a state. -/
def timeOf (s : State) : Nat × Nat := (s.fu.tick, s.fu.uptime)

theorem timeOf_eq (h : sameTime s t) : timeOf t = timeOf s := Prod.ext h.1 h.2

theorem voiceStep_sameTime (n : Slot) (p : State × Nat) : sameTime p.1 (voiceStep n p).1 := by
  unfold voiceStep
  split
  · exact .refl _
  · rename_i f _
    dsimp only
    split
    · obtain ⟨b, hb⟩ := sent_startFrame n.chan (.voice n) f p.1
      obtain ⟨blocks, hbs⟩ := sent_continueFrame n.chan (p.1.lbu.size.voiceBlocks - 1) (startFrame n.chan (.voice n) f p.1)
      exact hb.toLaid.sameTime.trans hbs.toLaid.sameTime
    · exact ⟨rfl, rfl⟩

theorem controlClaim_sameTime {v : State} (h : controlClaim s = some v) : sameTime s v := by
  rw [controlClaim_eq] at h
  cases h0 : signalServed s.lbu.turn s with
  | some w =>
    rw [h0] at h
    cases h
    obtain ⟨⟨b, hb⟩, -⟩ := sent_signalServed h0
    exact hb.toLaid.sameTime
  | none =>
    rw [h0] at h
    cases h1 : signalServed s.lbu.turn.other s with
    | some w =>
      rw [h1] at h
      cases h
      obtain ⟨⟨b, hb⟩, -⟩ := sent_signalServed h1
      exact hb.toLaid.sameTime
    | none =>
      rw [h1] at h
      obtain ⟨⟨b, hb⟩, -⟩ := sent_operationsClaim h
      exact hb.toLaid.sameTime

theorem grantPeriod_sameTime (s : State) : sameTime s (grantPeriod s) := by
  have hstep {claim : Claim} (ctr : Counter) (limit : Nat) (p : State × Nat)
      (hc : ∀ u v, claim u = some v → sameTime u v) : timeOf (stepOf claim ctr limit p).1 = timeOf p.1 :=
    stepOf_keeps timeOf claim ctr limit p (fun _ => rfl) fun u v h => timeOf_eq (hc u v h)
  have hsent {c : Chan} {u v : State} (h : ∃ b, Sent c [b] (fun _ => 0) u v) : sameTime u v :=
    h.elim fun _ hb => hb.toLaid.sameTime
  have hvoice (n : Slot) (p : State × Nat) : timeOf (voiceStep n p).1 = timeOf p.1 := timeOf_eq (voiceStep_sameTime n p)
  have hall : timeOf (grantPeriod s) = timeOf s := by
    rw [grantPeriod_eq, grantSteps, timeOf_eq (sent_fillRest _ _).toLaid.sameTime,
      hstep _ _ _ fun _ _ h => hsent (sent_operationsClaim h).1, hstep _ _ _ fun _ _ h => hsent (sent_bulkClaim h).1,
      hstep _ _ _ fun _ _ h => hsent (sent_priorityClaim h).1, hstep _ _ _ fun _ _ h => hsent (sent_bulkClaim h).1,
      hstep _ _ _ fun _ _ h => hsent (sent_testClaim h).1, hstep _ _ _ fun _ _ h => controlClaim_sameTime h, hvoice, hvoice,
      hstep _ _ _ fun _ _ h => hsent (sent_urgentClaim h)]
    exact timeOf_eq (laid_periodReckoned s).sameTime
  exact ⟨congrArg Prod.fst hall, congrArg Prod.snd hall⟩

theorem periodTick_sameTime (s : State) : sameTime s (periodTick s) := by
  have hplayed (v : State) : sameTime v (periodPlayed v) := sameTime_of_fu (periodPlayed_frame v).2.2.2.2.2.1
  refine sameTime_if ?_ (.refl s)
  by_cases hl : s.ls.link = .carrying
  · rw [periodStart_carrying hl]
    exact (grantPeriod_sameTime s).trans (hplayed _)
  · rw [periodStart_offLine hl]
    exact (sameTime_of_fu (by simp)).trans (hplayed _)

/-- Everything of a tick before its place in the second. -/
theorem beforeSecond_sameTime (s : State) :
    sameTime s (s |> closeFrames |> advance |> timerEvents |> powerTick |> portTick .a |> portTick .b |> periodTick) :=
  (sameTime_of_fu (t := advance (closeFrames s)) (by simp)).trans <| (timerEvents_sameTime _).trans <|
    (powerTick_sameTime _).trans <| (portTick_sameTime .a _).trans <| (portTick_sameTime .b _).trans (periodTick_sameTime _)

theorem uptimeSecond_time (s : State) :
    (uptimeSecond s).fu.tick = 0 ∧ (uptimeSecond s).fu.uptime = (s.fu.uptime + 1) % 4294967296 := by
  obtain ⟨-, -, -, -, -, -, hreports, -⟩ :=
    mediaSecond_facts (gradeSecond (onFu (fun u => { u with uptime := (u.uptime + 1) % 4294967296, tick := 0 }) s))
  exact (sameTime_of_reports (gradeSecond_reports (.refl _))).trans (sameTime_of_reports hreports)

theorem secondTick_time (s : State) :
    if s.fu.tick < 999 then (secondTick s).fu.tick = s.fu.tick + 1 ∧ (secondTick s).fu.uptime = s.fu.uptime
    else (secondTick s).fu.tick = 0 ∧ (secondTick s).fu.uptime = (s.fu.uptime + 1) % 4294967296 := by
  have hsec : Config.secondTicks = 1000 := rfl
  unfold secondTick
  split
  · rw [if_neg (by omega)]
    exact ⟨rfl, rfl⟩
  · rw [if_pos (by omega)]
    exact uptimeSecond_time s

/-- Settles O2: every stage of the tick but the last keeps the time. -/
theorem idleStepKeepsTime : Obligations.IdleStepKeepsTime := by
  intro s hp
  obtain ⟨htick, huptime⟩ := beforeSecond_sameTime s
  have htime := secondTick_time (s |> closeFrames |> advance |> timerEvents |> powerTick |> portTick .a |> portTick .b
    |> periodTick)
  rw [htick, huptime] at htime
  exact ⟨tick s, by rw [step, hp], (tick_frame s).1.trans hp, htime⟩

end Sys2Proof.Machine

/-! PROOFS. O48: the power state and its two inputs. -/

namespace Sys2Proof.Machine

variable {s t u : State}

/-! ## What a change of power state leaves of its inputs (R180, R181) -/

/-- The inputs, the power state and the time are as they were: records, lists, battery-since and the gasp mark may move. -/
def sameInputs (s t : State) : Prop :=
  t.fu = { s.fu with records := t.fu.records, exchList := t.fu.exchList, locList := t.fu.locList, since := t.fu.since,
                     gaspSent := t.fu.gaspSent }

theorem sameInputs.refl (s : State) : sameInputs s s := rfl

theorem sameInputs.trans (h : sameInputs s t) (k : sameInputs t u) : sameInputs s u := by
  unfold sameInputs at *
  rw [k, h]

theorem sameInputs_of_reports (h : Reports s t) : sameInputs s t := by
  unfold sameInputs
  rw [h.monitor]

theorem sameInputs_whenever {b : Bool} {f : State → State} (h : ∀ u, sameInputs u (f u)) (s : State) :
    sameInputs s (whenever b f s) := by
  cases b
  · exact .refl s
  · exact h s

theorem occurrence_sameInputs (k : FaultKind) (detail : Nat) (s : State) : sameInputs s (occurrence k detail s) :=
  sameInputs_of_reports (occurrence_reports k detail (.refl s))

theorem mainsLost_sameInputs (detail : Nat) (s : State) : sameInputs s (mainsLost detail s) :=
  (occurrence_sameInputs .mainsLost detail s).trans rfl

theorem batteryLow_sameInputs (detail : Nat) (s : State) : sameInputs s (batteryLow detail s) :=
  (occurrence_sameInputs .batteryLow detail s).trans
    (sameInputs_whenever
      (f := fun s => s |> onFu (fun u => { u with gaspSent := true }) |> onLbu (fun b => { b with urgent := true }))
      (fun _ => rfl) _)

theorem endCondition_sameInputs (k : FaultKind) (s : State) : sameInputs s (endCondition k s) :=
  sameInputs_of_reports (endCondition_reports k (.refl s))

theorem powerConditions_sameInputs (old new : PowerState) (s : State) : sameInputs s (powerConditions old new s) := by
  cases old <;> cases new
  case mains.battery => exact mainsLost_sameInputs 2 s
  case mains.low => exact (mainsLost_sameInputs 3 s).trans (batteryLow_sameInputs 0 _)
  case battery.low => exact batteryLow_sameInputs _ s
  case low.battery => exact endCondition_sameInputs .batteryLow s
  case battery.mains => exact endCondition_sameInputs .mainsLost s
  case low.mains => exact (endCondition_sameInputs .mainsLost s).trans (endCondition_sameInputs .batteryLow _)
  all_goals exact .refl s

/-- The Bulk queue emptied and the blocks counted, before BULK_DROP is reported (R87). -/
def bulkEmptied (s : State) : State :=
  s |> cutShort 3 (fun src => src == .bulk) |> onQm (fun q => { q with bulk := [] }) |> bumpBy Ctr.bulkShed s.qm.bulk.length

theorem shedBulk_eq (s : State) : shedBulk s = whenever (1 ≤ s.qm.bulk.length) (occurrence .bulkDrop 4) (bulkEmptied s) := rfl

theorem bulkEmptied_fu (s : State) : (bulkEmptied s).fu = s.fu := by simp [bulkEmptied]

theorem shedBulk_sameInputs (s : State) : sameInputs s (shedBulk s) := by
  rw [shedBulk_eq]
  refine sameInputs.trans ?_ (sameInputs_whenever (fun u => occurrence_sameInputs .bulkDrop 4 u) _)
  unfold sameInputs
  rw [bulkEmptied_fu]

theorem limitRinger_sameInputs (s : State) : sameInputs s (limitRinger s) := by
  unfold limitRinger
  split
  · split
    · exact sameInputs_of_reports (takeIfLifted_reports .b (occurrence_reports .ringLimited 2
        (leaveRingSet_reports .b .power (stopRinging_reports .b (.refl s)))))
    · refine (occurrence_sameInputs .ringLimited 2 s).trans ?_
      have h : (testPowerLimited .b (occurrence .ringLimited 2 s)).fu = (occurrence .ringLimited 2 s).fu := by simp
      unfold sameInputs
      rw [h]
  · exact .refl s

/-! ## The change itself -/

/-- The inputs and the power state taken, and the change counted. -/
def powerTaken (mains low : Bool) (s : State) : State :=
  s |> onFu (takeInputs mains low) |> onFu (fun u => { u with power := powerOf mains low }) |> bump Ctr.powerChanges

theorem powerChange_same {mains low : Bool} (h : s.fu.power = powerOf mains low) :
    powerChange mains low s = onFu (takeInputs mains low) s := by
  rw [powerChange, if_pos h]

theorem powerChange_moves {mains low : Bool} (h : s.fu.power ≠ powerOf mains low) :
    powerChange mains low s = whenever (s.fu.power == .mains) (fun s => s |> shedBulk |> limitRinger)
      (powerConditions s.fu.power (powerOf mains low) (powerTaken mains low s)) := by
  rw [powerChange, if_neg h]
  rfl

/-- The state's inputs after a change, moved or not. -/
theorem powerChange_inputs (mains low : Bool) (s : State) :
    ∃ v : State, v.fu = { takeInputs mains low s.fu with power := powerOf mains low } ∧
      sameInputs v (powerChange mains low s) := by
  by_cases h : s.fu.power = powerOf mains low
  · refine ⟨onFu (takeInputs mains low) s, ?_, ?_⟩
    · rw [← h]
      rfl
    · rw [powerChange_same h]
      exact .refl _
  · refine ⟨powerTaken mains low s, rfl, ?_⟩
    rw [powerChange_moves h]
    exact (powerConditions_sameInputs _ _ _).trans
      (sameInputs_whenever (fun u => (shedBulk_sameInputs u).trans (limitRinger_sameInputs _)) _)

/-! ## What is counted -/

/-- Counters that only a change of power state's own effects move. -/
def powerCounters : List Counter :=
  Ctr.framesCutShort :: Ctr.bulkShed :: Ctr.testResultsSent :: Ctr.testResultsLost :: Ctr.fifoFull .localReply ::
    Ctr.lostLinkDown .localReply :: moveCounters

theorem occurrence_powerCounters (k : FaultKind) (detail : Nat) (s : State) :
    countsOnly powerCounters s (occurrence k detail s) :=
  (occurrence_countsOnly k detail s).mono (by decide)

theorem powerConditions_countsOnly (old new : PowerState) (s : State) :
    countsOnly powerCounters s (powerConditions old new s) := by
  have hmains (d : Nat) (v : State) : countsOnly powerCounters v (mainsLost d v) :=
    (occurrence_powerCounters .mainsLost d v).congr rfl
  have hlow (d : Nat) (v : State) : countsOnly powerCounters v (batteryLow d v) :=
    (occurrence_powerCounters .batteryLow d v).whenever fun w => (countsOnly.refl _ w).congr rfl
  have hend (k : FaultKind) (v : State) : countsOnly powerCounters v (endCondition k v) :=
    (countsOnly.refl _ v).congr (by simp)
  cases old <;> cases new
  case mains.battery => exact hmains 2 s
  case mains.low => exact (hmains 3 s).trans (hlow 0 _)
  case battery.low => exact hlow _ s
  case low.battery => exact hend .batteryLow s
  case battery.mains => exact hend .mainsLost s
  case low.mains => exact (hend .mainsLost s).trans (hend .batteryLow _)
  all_goals exact .refl _ s

theorem shedBulk_countsOnly (s : State) : countsOnly powerCounters s (shedBulk s) := by
  have hcut : countsOnly powerCounters s (cutShort 3 (fun src => src == .bulk) s) :=
    (cutShort_countsOnly 3 _ s).mono (by decide)
  have hempty : countsOnly powerCounters s (bulkEmptied s) :=
    hcut.trans ((bumpBy_countsOnly Ctr.bulkShed _ (onQm (fun q => { q with bulk := [] }) _)).mono (by decide))
  exact hempty.whenever (occurrence_powerCounters .bulkDrop 4)

theorem testPowerLimited_countsOnly (p : Port) (s : State) : countsOnly powerCounters s (testPowerLimited p s) := by
  unfold testPowerLimited
  cases s.tr.test with
  | none => exact .refl _ s
  | some x =>
    dsimp only
    split
    · have hstop : countsOnly powerCounters s (stopChannel p { s with free := s.free + 1 }) :=
        (countsOnly.refl _ s).congr (by simp)
      obtain ⟨-, -, honly⟩ := sendResult_facts x .powerLimited (Config.powerLimitedTime s.free).toNat
        (stopChannel p { s with free := s.free + 1 })
      exact (hstop.trans (honly.mono (by decide))).congr (by simp)
    · exact .refl _ s

theorem limitRinger_countsOnly (s : State) : countsOnly powerCounters s (limitRinger s) := by
  unfold limitRinger
  split
  · split
    · have hstop : countsOnly powerCounters s (stopRinging .b s) := (countsOnly.refl _ s).congr (by simp)
      exact ((hstop.trans ((leaveRingSet_countsOnly .b .power _).mono (by decide))).trans
        (occurrence_powerCounters .ringLimited 2 _)).trans ((takeIfLifted_countsOnly .b _).mono (by decide))
    · exact (occurrence_powerCounters .ringLimited 2 s).trans (testPowerLimited_countsOnly .b _)
  · exact .refl _ s

theorem powerChange_counted {mains low : Bool} (h : s.fu.power ≠ powerOf mains low) :
    counted Ctr.powerChanges 1 s (powerChange mains low s) := by
  have htaken : counted Ctr.powerChanges 1 s (powerTaken mains low s) := counter_bump_same _ _
  have hrest : countsOnly powerCounters (powerTaken mains low s) (powerChange mains low s) := by
    rw [powerChange_moves h]
    exact (powerConditions_countsOnly _ _ _).whenever fun v => (shedBulk_countsOnly v).trans (limitRinger_countsOnly _)
  exact counted_then htaken hrest (by decide)

/-! ## Leaving MAINS (R87, R181) -/

/-- The conditions of leaving MAINS. -/
structure LeftMains (new : PowerState) (s t : State) : Prop where
  queues : t.qm = { s.qm with fifo := t.qm.fifo }
  since : t.fu.since = s.fu.uptime
  lost : t.fault .mainsLost = reported .mainsLost (if new = .low then 3 else 2) s.fu.uptime (s.fault .mainsLost)
  records : recordsOnly [.mainsLost, .batteryLow] s t
  uptime : t.fu.uptime = s.fu.uptime
  blocks : changesOnly (.budget :: reportBlocks) s t

theorem Reports.onlyFifo (h : Reports s t) : t.qm = { s.qm with fifo := t.qm.fifo } := by
  obtain ⟨l, -, hq⟩ := h.queues
  rw [hq]

theorem batteryLow_facts (detail : Nat) (s : State) :
    (batteryLow detail s).qm = { s.qm with fifo := (batteryLow detail s).qm.fifo } ∧
      (batteryLow detail s).fu.since = s.fu.since ∧
      (batteryLow detail s).fu.gaspSent = (s.fu.gaspSent || s.ls.link == .carrying) ∧
      (batteryLow detail s).lbu = { s.lbu with urgent := s.lbu.urgent || (s.ls.link == .carrying && !s.fu.gaspSent) } ∧
      recordsOnly [.batteryLow] s (batteryLow detail s) ∧ changesOnly (.budget :: reportBlocks) s (batteryLow detail s) := by
  have hrep := occurrence_reports .batteryLow detail (.refl s)
  have hrec := occurrence_recordsOnly .batteryLow detail s
  have hqm := hrep.onlyFifo
  have hsince : (occurrence .batteryLow detail s).fu.since = s.fu.since := by rw [hrep.monitor]
  have hgasp : (occurrence .batteryLow detail s).fu.gaspSent = s.fu.gaspSent := by rw [hrep.monitor]
  have hlink : (s.carrying && !s.fu.gaspSent) = (s.ls.link == .carrying && !s.fu.gaspSent) := rfl
  unfold batteryLow
  rw [hlink]
  have hlbu : (occurrence .batteryLow detail s).lbu = s.lbu := by simp
  generalize hv : occurrence .batteryLow detail s = v at hqm hsince hgasp hrec hlbu ⊢
  have hblocks : changesOnly (.budget :: reportBlocks) s v := by
    rw [← hv]
    simp [changesOnly_iff, reportBlocks]
  cases hc : (s.ls.link == .carrying) <;> cases hg : s.fu.gaspSent
  case true.false =>
    exact ⟨hqm, hsince, rfl, by simp [whenever, hlbu], hrec, hblocks.trans (by simp [changesOnly_iff, whenever, reportBlocks])⟩
  all_goals exact ⟨hqm, hsince, by simp [whenever, hgasp, hg], by simp [whenever, hlbu], hrec, hblocks⟩

theorem mainsLost_facts (detail : Nat) (s : State) :
    (mainsLost detail s).qm = { s.qm with fifo := (mainsLost detail s).qm.fifo } ∧
      (mainsLost detail s).fu.since = s.fu.uptime ∧ (mainsLost detail s).fu.uptime = s.fu.uptime ∧
      (mainsLost detail s).fault .mainsLost = reported .mainsLost detail s.fu.uptime (s.fault .mainsLost) ∧
      recordsOnly [.mainsLost] s (mainsLost detail s) ∧ changesOnly (.budget :: reportBlocks) s (mainsLost detail s) := by
  have hrep := occurrence_reports .mainsLost detail (.refl s)
  have hsince : (mainsLost detail s).fu.since = (occurrence .mainsLost detail s).fu.uptime := rfl
  refine ⟨hrep.onlyFifo, hsince.trans hrep.uptime, hrep.uptime, fault_occurrence_reported .mainsLost detail s,
    occurrence_recordsOnly .mainsLost detail s, ?_⟩
  simp [changesOnly_iff, mainsLost, reportBlocks]

theorem powerConditions_leftMains {new : PowerState} (h : new ≠ .mains) (s : State) :
    LeftMains new s (powerConditions .mains new s) := by
  cases new with
  | mains => exact absurd rfl h
  | battery =>
    obtain ⟨hqm, hsince, huptime, hlost, hrec, hblocks⟩ := mainsLost_facts 2 s
    exact ⟨hqm, hsince, hlost, hrec.mono (by simp), huptime, hblocks⟩
  | low =>
    obtain ⟨hqm, hsince, huptime, hlost, hrec, hblocks⟩ := mainsLost_facts 3 s
    obtain ⟨hqm', hsince', -, -, hrec', hblocks'⟩ := batteryLow_facts 0 (mainsLost 3 s)
    have huptime' : (batteryLow 0 (mainsLost 3 s)).fu.uptime = (mainsLost 3 s).fu.uptime := by
      rw [batteryLow_sameInputs 0 (mainsLost 3 s)]
    exact ⟨hqm'.trans (by rw [hqm]; rfl), hsince'.trans hsince,
      (hrec'.kept (by decide)).trans hlost, (hrec.mono (by simp)).trans (hrec'.mono (by simp)), huptime'.trans huptime,
      hblocks.trans hblocks'⟩

/-- The Bulk queue emptied, and BULK_DROP reported where it held a frame (R87). -/
theorem shedBulk_facts (s : State) :
    (shedBulk s).qm = { s.qm with bulk := [], fifo := (shedBulk s).qm.fifo } ∧ (shedBulk s).fu.since = s.fu.since ∧
      (shedBulk s).fault .bulkDrop = (if s.qm.bulk = [] then s.fault .bulkDrop
        else (s.fault .bulkDrop).occurred false s.fu.uptime 4) ∧
      recordsOnly [.bulkDrop] s (shedBulk s) ∧ changesOnly (.framer :: .budget :: reportBlocks) s (shedBulk s) := by
  have hfu := bulkEmptied_fu s
  have hqm : (bulkEmptied s).qm = { s.qm with bulk := [] } := by simp [bulkEmptied]
  have hblocks : changesOnly (.framer :: .budget :: reportBlocks) s (bulkEmptied s) := by
    simp [changesOnly_iff, bulkEmptied, reportBlocks]
  rw [shedBulk_eq]
  cases hb : s.qm.bulk with
  | nil => exact ⟨by simp [whenever, hqm], by simp [whenever, hfu], by simp [whenever, fault_congr hfu],
      recordsOnly_of_fu hfu, hblocks⟩
  | cons f l =>
    have hrep := occurrence_reports .bulkDrop 4 (.refl (bulkEmptied s))
    have hone : decide (1 ≤ (f :: l).length) = true := by simp
    rw [hone, whenever, if_pos rfl]
    refine ⟨by rw [hrep.onlyFifo, hqm], by rw [hrep.monitor, hfu], ?_,
      (recordsOnly_of_fu hfu).trans (occurrence_recordsOnly .bulkDrop 4 _),
      hblocks.trans (by simp [changesOnly_iff, reportBlocks])⟩
    rw [if_neg (by simp), fault_occurrence_reported, fault_congr hfu, hfu, reported, if_neg (by simp [FaultKind.isCondition])]
    rfl

theorem limitRinger_one (h : s.holdsRinger .a = false ∨ s.holdsRinger .b = false) : limitRinger s = s := by
  have hboth : ¬ (s.holdsRinger .a && s.holdsRinger .b) = true := by
    rcases h with h | h <;> simp [h]
  rw [limitRinger, if_neg hboth]

theorem holdsRinger_congr (h : t.ppu = s.ppu) (p : Port) : t.holdsRinger p = s.holdsRinger p := by
  simp only [State.holdsRinger, port_congr h]

/-- Leaving MAINS with at most one port holding the ringer. -/
theorem powerChange_leavesMains {mains low : Bool} (h : s.fu.power = .mains) (hne : powerOf mains low ≠ .mains)
    (hring : s.holdsRinger .a = false ∨ s.holdsRinger .b = false) :
    powerChange mains low s = shedBulk (powerConditions .mains (powerOf mains low) (powerTaken mains low s)) := by
  have hmoves : s.fu.power ≠ powerOf mains low := fun e => hne (e ▸ h)
  have hppu : (shedBulk (powerConditions .mains (powerOf mains low) (powerTaken mains low s))).ppu = s.ppu := by
    simp [powerTaken]
  rw [powerChange_moves hmoves, h]
  exact limitRinger_one (by rwa [holdsRinger_congr hppu, holdsRinger_congr hppu])

/-- Settles O48: the inputs are taken first, the conditions of the change report next, and leaving MAINS sheds the Bulk queue. -/
theorem powerFollowsItsInputs : Obligations.PowerFollowsItsInputs := by
  intro s mains low new
  have hnew : new = powerOf mains low := rfl
  obtain ⟨v, hv, hin⟩ := powerChange_inputs mains low s
  have hfu : (powerChange mains low s).fu = { takeInputs mains low s.fu with
      power := powerOf mains low, records := (powerChange mains low s).fu.records,
      exchList := (powerChange mains low s).fu.exchList, locList := (powerChange mains low s).fu.locList,
      since := (powerChange mains low s).fu.since, gaspSent := (powerChange mains low s).fu.gaspSent } := by
    rw [hin, hv]
  rw [hnew]
  refine ⟨_, rfl, by rw [hfu], by rw [hfu]; rfl, by rw [hfu]; rfl, by rw [hfu]; rfl, by rw [hfu]; rfl, by rw [hfu]; rfl,
    fun h => ?_, fun h => powerChange_counted h, fun h hne hring => ?_, fun h hlow => ?_, fun h hmains => ?_⟩
  · rw [powerChange_same h]
    exact ⟨rfl, by simp [changesOnly_iff]⟩
  · have hl := powerConditions_leftMains hne (powerTaken mains low s)
    obtain ⟨hqm, hsince, hdrop, hrec, hblocks⟩ :=
      shedBulk_facts (powerConditions .mains (powerOf mains low) (powerTaken mains low s))
    have hbulk : (powerConditions .mains (powerOf mains low) (powerTaken mains low s)).qm.bulk = s.qm.bulk := by
      rw [hl.queues]
      rfl
    rw [powerChange_leavesMains h hne hring]
    refine ⟨by rw [hqm], ?_, hsince.trans hl.since, (hrec.kept (by decide)).trans hl.lost, ?_, ?_, ?_⟩
    · rw [hqm, hl.queues]
      rfl
    · rw [hdrop, hbulk, hl.uptime, hl.records.kept (by decide)]
      rfl
    · exact (hl.records.mono (by decide) : recordsOnly [.mainsLost, .batteryLow, .bulkDrop] s _).trans (hrec.mono (by decide))
    · have htaken : changesOnly (.framer :: .budget :: reportBlocks) s (powerTaken mains low s) := by
        simp [changesOnly_iff, powerTaken, reportBlocks]
      exact htaken.trans ((hl.blocks.mono (by decide)).trans hblocks)
  · have hmoves : s.fu.power ≠ powerOf mains low := by rw [h, hlow]; decide
    have he : powerChange mains low s = batteryLow (powerTaken mains low s).batterySeconds (powerTaken mains low s) := by
      rw [powerChange_moves hmoves, h, hlow]
      rfl
    obtain ⟨-, -, hgasp, hlbu, hrec, hblocks⟩ :=
      batteryLow_facts (powerTaken mains low s).batterySeconds (powerTaken mains low s)
    have htaken : changesOnly (.budget :: reportBlocks) s (powerTaken mains low s) := by
      simp [changesOnly_iff, powerTaken, reportBlocks]
    rw [he]
    exact ⟨hlbu, hgasp, hrec, htaken.trans hblocks⟩
  · have hmoves : s.fu.power ≠ powerOf mains low := by rw [h, hmains]; decide
    have he : powerChange mains low s = endCondition .mainsLost (powerTaken mains low s) := by
      rw [powerChange_moves hmoves, h, hmains]
      rfl
    have htaken : changesOnly [.faults, .counters] s (powerTaken mains low s) := by
      simp [changesOnly_iff, powerTaken]
    rw [he]
    exact ⟨fault_endCondition_same .mainsLost (powerTaken mains low s),
      endCondition_recordsOnly .mainsLost (powerTaken mains low s),
      htaken.trans ((endCondition_changesOnly .mainsLost _).mono (by decide))⟩

end Sys2Proof.Machine

/-! PROOFS. O33: an ALERT refused in the order of its checks, or ringing its ports. -/

namespace Sys2Proof.Machine

variable {s t u : State} {n : Slot}

/-! ## An ALERT refused (R148, R153) -/

/-- A signal joins a slot's queue where there is room. -/
theorem queueSignal_calls (n : Slot) (g : Signal) (s : State) :
    (queueSignal n g s).call n = { s.call n with signals := (s.call n).signals ++
      (if (s.call n).signals.length < 8 then [g] else []) } ∧
    (queueSignal n g s).call n.other = s.call n.other ∧ (queueSignal n g s).cc.stamp = s.cc.stamp := by
  by_cases hroom : (s.call n).signals.length < 8
  · rw [queueSignal_room hroom, if_pos hroom]
    exact ⟨call_signalled n g s, call_onCall_other n _ s, rfl⟩
  · have hfull : queueSignal n g s = bump Ctr.signalsLost s := if_neg hroom
    rw [hfull, if_neg hroom, List.append_nil]
    exact ⟨rfl, rfl, rfl⟩

theorem refuseAlert_facts (n : Slot) (cause : Cause) (s : State) :
    (refuseAlert n cause s).call n = { s.call n with signals := (s.call n).signals ++
      (if (s.call n).signals.length < 8 then [.refuse cause] else []) } ∧
    (refuseAlert n cause s).call n.other = s.call n.other ∧ (refuseAlert n cause s).cc.stamp = s.cc.stamp ∧
    counted Ctr.alertsRefused 1 s (refuseAlert n cause s) ∧
    countsOnly [Ctr.signalsLost, Ctr.alertsRefused] s (refuseAlert n cause s) ∧
    changesOnly [.calls, .counters] s (refuseAlert n cause s) := by
  have honly := queueSignal_countsOnly n (.refuse cause) s
  obtain ⟨hcall, hother, hstamp⟩ := queueSignal_calls n (.refuse cause) s
  exact ⟨hcall, hother, hstamp,
    counted_after honly (by decide) (counter_bump_same (queueSignal n (.refuse cause) s) Ctr.alertsRefused),
    (honly.mono (by simp)).bump (by simp), by simp [changesOnly_iff, refuseAlert]⟩

/-! ## An ALERT admitted (R57, R153) -/

/-- A slot that has taken an ALERT, before any port rings. -/
def alerted (n : Slot) (cad : Fin 8) (group : Bool) (s : State) : State :=
  s |> occupy n .alerting .inward |> onCall n (fun c => { c with cadence := cad.val, group := group }) |> followCall n

theorem alerted_facts (n : Slot) (cad : Fin 8) (group : Bool) (s : State) :
    (alerted n cad group s).call n = { s.call n with
      state := .alerting, dir := .inward, stamp := min (s.cc.stamp + 1) Config.max32, start := s.fu.uptime, sent := 0,
      received := 0, endCause := none, cadence := cad.val, group := group } ∧
    (alerted n cad group s).call n.other = s.call n.other ∧
    (alerted n cad group s).cc.stamp = min (s.cc.stamp + 1) Config.max32 ∧
    counted Ctr.admissionsGranted 1 s (alerted n cad group s) ∧
    countsOnly [Ctr.admissionsGranted, Ctr.staleVoice] s (alerted n cad group s) ∧
    changesOnly [.calls, .media, .counters] s (alerted n cad group s) := by
  have hcc : (alerted n cad group s).cc =
      (onCall n (fun c => { c with cadence := cad.val, group := group }) (occupy n .alerting .inward s)).cc := by simp [alerted]
  have hgranted : counted Ctr.admissionsGranted 1 s
      (onCall n (fun c => { c with cadence := cad.val, group := group }) (occupy n .alerting .inward s)) :=
    counter_bump_same s Ctr.admissionsGranted
  have hbefore : countsOnly [Ctr.admissionsGranted] s
      (onCall n (fun c => { c with cadence := cad.val, group := group }) (occupy n .alerting .inward s)) :=
    ((countsOnly.refl _ s).bump (c := Ctr.admissionsGranted) (by simp)).congr rfl
  have hfollow := followCall_countsOnly n
    (onCall n (fun c => { c with cadence := cad.val, group := group }) (occupy n .alerting .inward s))
  refine ⟨?_, ?_, ?_, counted_then hgranted hfollow (by decide), (hbefore.mono (by simp)).trans (hfollow.mono (by simp)),
    by simp [changesOnly_iff, alerted]⟩
  · rw [call_congr hcc, call_onCall_same]
    exact congrArg (fun c : CallSlot => { c with cadence := cad.val, group := group }) (call_onCall_same _ n _)
  · rw [call_congr hcc, call_onCall_other]
    exact call_onCall_other n _ _
  · rw [hcc]
    rfl

/-! ## Ports that ring (R105, R118 to R120) -/

/-- A port put into RINGING and counted. -/
def ringIn (p : Port) (s : State) : State := s |> enterPort p .ringing |> bump (Ctr.ringStarts p)

theorem port_ringIn (p q : Port) (s : State) :
    (ringIn p s).port q = if q = p then { s.port q with state := .ringing } else s.port q :=
  (port_bump _ q).trans (port_enterRinging p q)

/-- On mains every IDLE port of the set rings. -/
theorem ringPorts_mains {ports : PortSet} (cad : Fin 8) (group : Bool) (hm : s.onBattery = false)
    (hi : ∀ p, ports.has p = true → (s.port p).state = .idle) :
    ringPorts ports cad group s =
      (startRings cad group ports (s |> whenever ports.a (ringIn .a) |> whenever ports.b (ringIn .b)), ports) := by
  have hone (p : Port) {v : State} (h : (v.port p).state = .idle) (hv : v.onBattery = false) : ringOne p v = ringIn p v := by
    simp [ringOne, ringIn, h, hv]
  obtain ⟨a, b⟩ := ports
  have hb' : (ringIn .a s).onBattery = false := hm
  cases a <;> cases b
  · simp [ringPorts, whenever]
  · have hib := hi .b rfl
    simp [ringPorts, whenever, idle_beq_ringing, hib, hone .b hib hm, port_ringIn]
  · have hia := hi .a rfl
    simp [ringPorts, whenever, idle_beq_ringing, hia, hone .a hia hm, port_ringIn]
  · have hia := hi .a rfl
    have hib := hi .b rfl
    have hib' : ((ringIn .a s).port .b).state = .idle := by simpa [port_ringIn] using hib
    simp [ringPorts, whenever, idle_beq_ringing, hia, hib, hone .a hia hm, hone .b hib' hb', port_ringIn]

/-- Only a port's channel has moved, with its differ and trip counts. -/
def onlyChannel (u v : PortUnit) : Prop := v = { u with chan := v.chan, differ := v.differ, trip := v.trip }

theorem onlyChannel.refl (u : PortUnit) : onlyChannel u u := rfl

theorem onlyChannel.trans {u v w : PortUnit} (h : onlyChannel u v) (k : onlyChannel v w) : onlyChannel u w := by
  unfold onlyChannel at *
  rw [k, h]

theorem startRing_onlyChannel (p q : Port) (cad : Fin 8) (s : State) :
    onlyChannel (s.port q) ((startRing p cad s).port q) ∧ (p ≠ q → (startRing p cad s).port q = s.port q) ∧
      (startRing p cad s).ppu.cadences = s.ppu.cadences := by
  obtain ⟨hown, hother, hcad⟩ := startRing_port (s := s) p cad
  refine ⟨?_, fun h => ?_, hcad⟩
  · rcases Port.eq_or_eq_other p q with h | h
    · rw [h]
      exact hown
    · rw [h, hother]
      exact .refl _
  · rcases Port.eq_or_eq_other p q with h' | h'
    · exact absurd h'.symm h
    · rw [h', hother]

/-- Starting the channels of the ports that ring moves nothing else of any port. -/
theorem startRings_ports (cad : Fin 8) (group : Bool) (rung : PortSet) (s : State) :
    (∀ q, onlyChannel (s.port q) ((startRings cad group rung s).port q)) ∧
      (∀ q, rung.has q = false → (startRings cad group rung s).port q = s.port q) ∧
      (startRings cad group rung s).ppu.cadences = s.ppu.cadences := by
  have htwo (v : State) (hv : ∀ q, v.port q = s.port q) (hc : v.ppu.cadences = s.ppu.cadences) :
      (∀ q, onlyChannel (s.port q) ((startRing .b cad (startRing .a cad v)).port q)) ∧
        (startRing .b cad (startRing .a cad v)).ppu.cadences = s.ppu.cadences := by
    refine ⟨fun q => ?_, ((startRing_onlyChannel .b .b cad _).2.2.trans (startRing_onlyChannel .a .a cad v).2.2).trans hc⟩
    rw [← hv q]
    exact (startRing_onlyChannel .a q cad v).1.trans (startRing_onlyChannel .b q cad _).1
  obtain ⟨a, b⟩ := rung
  cases a <;> cases b
  · exact ⟨fun q => .refl _, fun q _ => rfl, rfl⟩
  · refine ⟨fun q => (startRing_onlyChannel .b q cad s).1, fun q hq => (startRing_onlyChannel .b q cad s).2.1 ?_,
      (startRing_onlyChannel .b .b cad s).2.2⟩
    rintro rfl
    cases hq
  · refine ⟨fun q => (startRing_onlyChannel .a q cad s).1, fun q hq => (startRing_onlyChannel .a q cad s).2.1 ?_,
      (startRing_onlyChannel .a .a cad s).2.2⟩
    rintro rfl
    cases hq
  · have hnone : ∀ q, ({ a := true, b := true } : PortSet).has q = false → False := fun q hq => by cases q <;> cases hq
    have hpair : (∀ q, onlyChannel (s.port q) ((startRings cad group { a := true, b := true } s).port q)) ∧
        (startRings cad group { a := true, b := true } s).ppu.cadences = s.ppu.cadences := by
      unfold startRings
      simp only [Bool.and_self, if_true]
      split
      · exact htwo _ (fun _ => rfl) rfl
      · split
        · exact htwo _ (fun _ => rfl) rfl
        · exact ⟨fun q => (startRing_onlyChannel .a q cad (onPpu (fun u => { u with pair := .waiting cad }) s)).1,
            (startRing_onlyChannel .a .a cad (onPpu (fun u => { u with pair := .waiting cad }) s)).2.2⟩
    exact ⟨hpair.1, fun q hq => (hnone q hq).elim, hpair.2⟩

/-! ## The alert on mains -/

/-- The ports of a set put into RINGING, port A first. -/
def ringInAll (ports : PortSet) (s : State) : State := s |> whenever ports.a (ringIn .a) |> whenever ports.b (ringIn .b)

theorem port_whenever_ringIn (b : Bool) (p q : Port) (s : State) : (whenever b (ringIn p) s).port q =
    if b = true ∧ q = p then { s.port q with state := .ringing } else s.port q := by
  cases b
  · simp [whenever]
  · simp only [whenever, if_true, port_ringIn, true_and]

theorem port_ringInAll (ports : PortSet) (q : Port) (s : State) : (ringInAll ports s).port q =
    if ports.has q = true then { s.port q with state := .ringing } else s.port q := by
  unfold ringInAll
  cases q <;> simp [port_whenever_ringIn, PortSet.has] <;> rfl

theorem ringInAll_changesOnly (ports : PortSet) (s : State) : changesOnly [.phones, .media, .counters] s (ringInAll ports s) := by
  have hone (b : Bool) (p : Port) (v : State) : changesOnly [.phones, .media, .counters] v (whenever b (ringIn p) v) := by
    cases b
    · exact .refl _ v
    · simp [changesOnly_iff, whenever, ringIn]
  exact (hone ports.a .a s).trans (hone ports.b .b _)

theorem ringInAll_counts (ports : PortSet) (s : State) :
    (∀ p, ports.has p = true → counted (Ctr.ringStarts p) 1 s (ringInAll ports s)) ∧
      countsOnly [Ctr.ringStarts .a, Ctr.ringStarts .b] s (ringInAll ports s) := by
  have hone (p : Port) (v : State) : counted (Ctr.ringStarts p) 1 v (ringIn p v) ∧ countsOnly [Ctr.ringStarts p] v (ringIn p v) :=
    ⟨counted_after (cs := []) ((countsOnly.refl _ v).congr (u := enterPort p .ringing v) (by simp)) (by simp)
      (counter_bump_same _ _), ((countsOnly.refl _ v).congr (u := enterPort p .ringing v) (by simp)).bump (by simp)⟩
  obtain ⟨a, b⟩ := ports
  cases a <;> cases b
  · exact ⟨fun p hp => (by cases p <;> cases hp), .refl _ s⟩
  · refine ⟨fun p hp => ?_, (hone .b s).2.mono (by simp)⟩
    cases p
    · cases hp
    · exact (hone .b s).1
  · refine ⟨fun p hp => ?_, (hone .a s).2.mono (by simp)⟩
    cases p
    · exact (hone .a s).1
    · cases hp
  · refine ⟨fun p _ => ?_, ((hone .a s).2.mono (by simp)).trans ((hone .b _).2.mono (by simp))⟩
    cases p
    · exact counted_then (hone .a s).1 (hone .b (ringIn .a s)).2 (by decide)
    · exact counted_after (hone .a s).2 (by decide) (hone .b (ringIn .a s)).1

/-- The slot that has taken an ALERT, its ports ringing: ring set and alert limit, the call counted. -/
def alertStarted (n : Slot) (rung : PortSet) (limit : Timer) (s : State) : State :=
  s |> onCall n (fun c => { c with ringSet := rung, alert := some limit }) |> bump Ctr.callsAlerted

theorem alertRings_eq (n : Slot) (ports : PortSet) (cad : Fin 8) (group : Bool) (s : State) : alertRings n ports cad group s =
    if (ringPorts ports cad group (alerted n cad group s)).2.isEmpty = true then
      reportIfIdle (refuseAlert n .power (freeSlot n .power (ringPorts ports cad group (alerted n cad group s)).1))
    else alertStarted n (ringPorts ports cad group (alerted n cad group s)).2 (startSec (s.param .alertLimit))
      (ringPorts ports cad group (alerted n cad group s)).1 := by
  have hp : (alerted n cad group s).param .alertLimit = s.param .alertLimit := param_congr (by simp [alerted]) _
  rw [← hp]
  rfl

theorem alertRings_rung {ports rung : PortSet} {cad : Fin 8} {group : Bool}
    (h : ringPorts ports cad group (alerted n cad group s) = (u, rung)) (hne : rung ≠ { a := false, b := false }) :
    alertRings n ports cad group s = alertStarted n rung (startSec (s.param .alertLimit)) u := by
  rw [alertRings_eq, h, if_neg fun e => hne ((portSet_isEmpty_iff rung).1 e)]

theorem alertRings_held {ports : PortSet} {cad : Fin 8} {group : Bool}
    (h : ringPorts ports cad group (alerted n cad group s) = (u, noPorts)) :
    alertRings n ports cad group s = reportIfIdle (refuseAlert n .power (freeSlot n .power u)) := by
  rw [alertRings_eq, h, if_pos ((portSet_isEmpty_iff noPorts).2 rfl)]

/-- An ALERT taken: the slot is ALERTING with these ports ringing, each counted. -/
structure AlertTaken (n : Slot) (cad : Fin 8) (group : Bool) (rung : PortSet) (s t : State) : Prop where
  call : t.call n = { s.call n with
    state := .alerting, dir := .inward, stamp := min (s.cc.stamp + 1) Config.max32, start := s.fu.uptime, sent := 0,
    received := 0, endCause := none, cadence := cad.val, group := group, ringSet := rung,
    alert := some (startSec (s.param .alertLimit)) }
  other : t.call n.other = s.call n.other
  stamp : t.cc.stamp = min (s.cc.stamp + 1) Config.max32
  granted : counted Ctr.admissionsGranted 1 s t
  alerted : counted Ctr.callsAlerted 1 s t
  ringing : ∀ p, rung.has p = true → onlyChannel { s.port p with state := .ringing } (t.port p) ∧
    counted (Ctr.ringStarts p) 1 s t
  silent : ∀ p, rung.has p = false → t.port p = s.port p
  cadences : t.ppu.cadences = s.ppu.cadences

/-- The counters of a ring request. -/
def ringCounters : List Counter := Ctr.ringStarts .a :: Ctr.ringStarts .b :: reportCounters

/-- An ALERT whose ports ring as `v` has them. -/
theorem alertTaken_of {cad : Fin 8} {group : Bool} {rung : PortSet} {v : State}
    (hcc : v.cc = (alerted n cad group s).cc)
    (hports : ∀ q, rung.has q = true → onlyChannel { s.port q with state := .ringing } (v.port q))
    (hothers : ∀ q, rung.has q = false → v.port q = s.port q) (hcad : v.ppu.cadences = s.ppu.cadences)
    (hrings : ∀ q, rung.has q = true → counted (Ctr.ringStarts q) 1 (alerted n cad group s) v)
    (honly : countsOnly ringCounters (alerted n cad group s) v) :
    AlertTaken n cad group rung s (alertStarted n rung (startSec (s.param .alertLimit)) v) := by
  obtain ⟨hcall, hother, hstamp, hgranted, hbefore, -⟩ := alerted_facts n cad group s
  have hslots : (alertStarted n rung (startSec (s.param .alertLimit)) v).cc =
      (onCall n (fun c => { c with ringSet := rung, alert := some (startSec (s.param .alertLimit)) }) v).cc := rfl
  have hend : countsOnly [Ctr.callsAlerted] v (alertStarted n rung (startSec (s.param .alertLimit)) v) :=
    ((countsOnly.refl _ v).congr
      (u := onCall n (fun c => { c with ringSet := rung, alert := some (startSec (s.param .alertLimit)) }) v) rfl).bump (by simp)
  have halerted : counted Ctr.callsAlerted 1 v (alertStarted n rung (startSec (s.param .alertLimit)) v) :=
    counter_bump_same (onCall n (fun c => { c with ringSet := rung, alert := some (startSec (s.param .alertLimit)) }) v) _
  refine ⟨?_, ?_, ?_, counted_then (counted_then hgranted honly (by decide)) hend (by decide),
    counted_after (hbefore.mono (ds := Ctr.admissionsGranted :: Ctr.staleVoice :: ringCounters) (by simp) |>.trans
      (honly.mono (by simp))) (by decide) halerted, fun p hp => ⟨hports p hp, ?_⟩, hothers, hcad⟩
  · rw [call_congr hslots, call_onCall_same, call_congr hcc, hcall]
  · rw [call_congr hslots, call_onCall_other, call_congr hcc, hother]
  · exact (congrArg CallController.stamp hcc).trans hstamp
  · refine counted_then (counted_after hbefore ?_ (hrings p hp)) hend ?_ <;> cases p <;> decide

/-- An admitted ALERT on mains. -/
theorem alertRings_mains {ports : PortSet} (cad : Fin 8) (group : Bool) (hm : s.onBattery = false)
    (hi : ∀ p, ports.has p = true → (s.port p).state = .idle) (hne : ports ≠ { a := false, b := false }) :
    alertRings n ports cad group s = alertStarted n ports (startSec (s.param .alertLimit))
      (startRings cad group ports (ringInAll ports (alerted n cad group s))) := by
  have hppu : (alerted n cad group s).ppu = s.ppu := by simp [alerted]
  have hfu : (alerted n cad group s).fu = s.fu := by simp [alerted]
  exact alertRings_rung (ringPorts_mains cad group (by rw [State.onBattery, hfu]; exact hm)
    fun p hp => by rw [port_congr hppu]; exact hi p hp) hne

theorem alertRings_mains_facts {ports : PortSet} (cad : Fin 8) (group : Bool) (hm : s.onBattery = false)
    (hi : ∀ p, ports.has p = true → (s.port p).state = .idle) (hne : ports ≠ { a := false, b := false }) :
    AlertTaken n cad group ports s (alertRings n ports cad group s) ∧
    changesOnly [.phones, .calls, .media, .counters] s (alertRings n ports cad group s) ∧
    countsOnly [Ctr.admissionsGranted, Ctr.callsAlerted, Ctr.ringStarts .a, Ctr.ringStarts .b, Ctr.staleVoice] s
      (alertRings n ports cad group s) := by
  have hppu : (alerted n cad group s).ppu = s.ppu := by simp [alerted]
  have hin : (ringInAll ports (alerted n cad group s)).ppu.cadences = s.ppu.cadences := by
    rw [← hppu]
    obtain ⟨a, b⟩ := ports
    cases a <;> cases b <;> rfl
  have hrung := alertRings_mains (n := n) cad group hm hi hne
  obtain ⟨hstarted, hcount⟩ := ringInAll_counts ports (alerted n cad group s)
  obtain ⟨hchan, hrest, hcad⟩ := startRings_ports cad group ports (ringInAll ports (alerted n cad group s))
  have hcounters : (startRings cad group ports (ringInAll ports (alerted n cad group s))).counters =
      (ringInAll ports (alerted n cad group s)).counters := by simp
  have hport (q : Port) : (ringInAll ports (alerted n cad group s)).port q =
      if ports.has q = true then { s.port q with state := .ringing } else s.port q := by
    rw [port_ringInAll, port_congr hppu]
  rw [hrung]
  have hch : changesOnly [.phones, .media, .counters] (alerted n cad group s)
      (startRings cad group ports (ringInAll ports (alerted n cad group s))) :=
    (ringInAll_changesOnly ports _).trans (by simp [changesOnly_iff])
  obtain ⟨-, -, -, -, hbefore, hach⟩ := alerted_facts n cad group s
  refine ⟨alertTaken_of (hch .calls (by decide)) (fun q hq => ?_) (fun q hq => ?_) (hcad.trans hin) (fun q hq => ?_) ?_, ?_, ?_⟩
  · have := hchan q
    rwa [hport, if_pos hq] at this
  · rw [hrest q hq, hport, if_neg (by simp [hq])]
  · exact (counter_congr hcounters _).trans (hstarted q hq)
  · exact (hcount.congr hcounters).mono (by simp [ringCounters])
  · exact ((hach.mono (by decide)).trans (hch.mono (by decide))).trans (by simp [changesOnly_iff, alertStarted])
  · have hstart : countsOnly [Ctr.callsAlerted] (startRings cad group ports (ringInAll ports (alerted n cad group s)))
        (alertStarted n ports (startSec (s.param .alertLimit))
          (startRings cad group ports (ringInAll ports (alerted n cad group s)))) :=
      ((countsOnly.refl _ _).congr (u := onCall n _ _) rfl).bump (by simp)
    exact ((hbefore.mono (by decide)).trans ((hcount.congr hcounters).mono (by decide))).trans (hstart.mono (by decide))

/-! ## The alert outside mains (R105, R120) -/

/-- The one port of a set, where the other one holds the ringer or is not asked for. -/
theorem alertRings_limited_held {p : Port} (cad : Fin 8) (group : Bool) (hb : s.onBattery = true)
    (hi : (s.port p).state = .idle) (hh : s.holdsRinger p.other = true) :
    alertRings n (noPorts.put p true) cad group s =
      reportIfIdle (refuseAlert n .power (freeSlot n .power (occurrence .ringLimited p.code (alerted n cad group s)))) := by
  have hppu : (alerted n cad group s).ppu = s.ppu := by simp [alerted]
  have hfu : (alerted n cad group s).fu = s.fu := by simp [alerted]
  exact alertRings_held (ringPorts_held p cad group (by rw [port_congr hppu]; exact hi) (by rw [State.onBattery, hfu]; exact hb)
    (by rw [holdsRinger_congr hppu]; exact hh))

/-- One port rings and the other was not asked for. -/
theorem alertRings_limited_one {p : Port} (cad : Fin 8) (group : Bool) (hi : (s.port p).state = .idle)
    (hh : s.holdsRinger p.other = false) :
    alertRings n (noPorts.put p true) cad group s = alertStarted n (noPorts.put p true) (startSec (s.param .alertLimit))
      (startRing p cad (ringIn p (alerted n cad group s))) := by
  have hppu : (alerted n cad group s).ppu = s.ppu := by simp [alerted]
  exact alertRings_rung (ringPorts_one p cad group (by rw [port_congr hppu]; exact hi) (by rw [holdsRinger_congr hppu]; exact hh))
    (by cases p <;> decide)

/-- Port A rings and port B is held back. -/
theorem alertRings_limited_both (cad : Fin 8) (group : Bool) (hb : s.onBattery = true) (ha : (s.port .a).state = .idle)
    (hbi : (s.port .b).state = .idle) :
    alertRings n { a := true, b := true } cad group s = alertStarted n (noPorts.put .a true) (startSec (s.param .alertLimit))
      (startRing .a cad (occurrence .ringLimited 2 (ringIn .a (alerted n cad group s)))) := by
  have hppu : (alerted n cad group s).ppu = s.ppu := by simp [alerted]
  have hfu : (alerted n cad group s).fu = s.fu := by simp [alerted]
  exact alertRings_rung (ringPorts_both_limited cad group (by rw [port_congr hppu]; exact ha) (by rw [port_congr hppu]; exact hbi)
    (by rw [State.onBattery, hfu]; exact hb)) (by decide)

theorem lastSlotFree_recordsOnly (s : State) :
    recordsOnly [.severeRun, .marginLow, .reassemblyLoss, .lineDown] s (lastSlotFree s) := by
  unfold lastSlotFree
  cases s.ls.link
  case retraining =>
    exact (recordsOnly_of_fu (t := onLs (fun l => { l with hold := none }) s) rfl).trans
      ((enterLink_recordsOnly .training _).mono (by decide))
  case carrying =>
    dsimp only
    split
    · cases s.stepUpDue with
      | none => exact .refl _ s
      | some i => exact (stepUpTo_records i s).1
    · exact .refl _ s
  all_goals exact .refl _ s

theorem reportIfIdle_recordsOnly (s : State) :
    recordsOnly [.severeRun, .marginLow, .reassemblyLoss, .lineDown] s (reportIfIdle s) := by
  unfold reportIfIdle
  split
  · exact .refl _ s
  · exact lastSlotFree_recordsOnly s

/-- Every port held back: the slot is FREE again, and the refusal goes out (R120, R153). -/
theorem alertHeld_facts (p : Port) (cad : Fin 8) (group : Bool) (hl : s.ls.link = .carrying)
    (ht : t = reportIfIdle (refuseAlert n .power (freeSlot n .power (occurrence .ringLimited p.code (alerted n cad group s))))) :
    t.call n = { s.call n with
      state := .free, dir := .inward, stamp := min (s.cc.stamp + 1) Config.max32, start := s.fu.uptime, sent := 0, received := 0,
      held := false, attached := noPorts, ringSet := noPorts, cadence := 0, group := false, alert := none,
      endCause := some .power,
      signals := (s.call n).signals ++ (if (s.call n).signals.length < 8 then [.refuse .power] else []) } ∧
    t.call n.other = s.call n.other ∧ t.cc.stamp = min (s.cc.stamp + 1) Config.max32 ∧
    counted Ctr.admissionsGranted 1 s t ∧ counted Ctr.alertsRefused 1 s t ∧
    t.counter Ctr.callsAlerted = s.counter Ctr.callsAlerted ∧
    t.fault .ringLimited = (s.fault .ringLimited).occurred false s.fu.uptime p.code ∧
    changesOnly ([.framer, .supervisor, .budget, .calls, .media, .outputs] ++ reportBlocks) s t := by
  obtain ⟨hcall, hother, hstamp, hgranted, hbefore, hach⟩ := alerted_facts n cad group s
  have hfu : (alerted n cad group s).fu = s.fu := by simp [alerted]
  have hhold : (alerted n cad group s).ls.link.isHold = false := by
    have : (alerted n cad group s).ls = s.ls := by simp [alerted]
    rw [this, hl]
    rfl
  generalize ha : alerted n cad group s = a at *
  have hocc := occurrence_countsOnly .ringLimited p.code a
  have hfault : (occurrence .ringLimited p.code a).fault .ringLimited =
      (s.fault .ringLimited).occurred false s.fu.uptime p.code := by
    rw [fault_occurrence_reported, fault_congr hfu, hfu]
    rfl
  have hocall (m : Slot) : (occurrence .ringLimited p.code a).call m = a.call m := call_congr (by simp) m
  have hostamp : (occurrence .ringLimited p.code a).cc.stamp = a.cc.stamp := by simp
  have hols : (occurrence .ringLimited p.code a).ls.link.isHold = a.ls.link.isHold := by simp
  have hoch : changesOnly ([.framer, .supervisor, .budget, .calls, .media, .outputs] ++ reportBlocks) a
      (occurrence .ringLimited p.code a) := by simp [changesOnly_iff, reportBlocks]
  generalize ho : occurrence .ringLimited p.code a = o at *
  have hfreed := freeSlot_countsOnly n .power o
  have hfcall : (freeSlot n .power o).call n = (a.call n).freed .power false := by
    rw [call_freeSlot, if_pos rfl, hols, hhold, hocall]
  have hfother : (freeSlot n .power o).call n.other = a.call n.other := by
    rw [call_freeSlot, if_neg (slot_ne_other n), hocall]
  have hfstamp : (freeSlot n .power o).cc.stamp = a.cc.stamp := by
    rw [← hostamp]
    simp [freeSlot, onCall, onCc]
  have hffu : (freeSlot n .power o).fu = o.fu := by simp
  have hfch : changesOnly ([.framer, .supervisor, .budget, .calls, .media, .outputs] ++ reportBlocks) o
      (freeSlot n .power o) := by
    simp [changesOnly_iff, reportBlocks]
  generalize hf : freeSlot n .power o = f at *
  obtain ⟨rcall, rother, rstamp, rcount, ronly, rch⟩ := refuseAlert_facts n .power f
  have hrfu : (refuseAlert n .power f).fu = f.fu := by simp [refuseAlert]
  generalize hr : refuseAlert n .power f = r at *
  have hidle := reportIfIdle_countsOnly r
  have hicc : (reportIfIdle r).cc = r.cc := by simp
  have hirec := reportIfIdle_recordsOnly r
  have hich : changesOnly ([.framer, .supervisor, .budget, .calls, .media, .outputs] ++ reportBlocks) r (reportIfIdle r) := by
    simp [changesOnly_iff, reportBlocks]
  have htail : countsOnly (Ctr.staleVoice :: Ctr.stepUps :: reportCounters) a f :=
    (hocc.mono (by simp)).trans (hfreed.mono (by simp))
  rw [ht]
  refine ⟨?_, ?_, ?_, ?_, ?_, ?_, ?_, ?_⟩
  · rw [call_congr hicc, rcall, hfcall, hcall]
    simp [CallSlot.freed]
  · rw [call_congr hicc, rother, hfother, hother]
  · rw [hicc, rstamp, hfstamp, hstamp]
  · exact counted_then (counted_then (counted_then hgranted htail (by decide)) ronly (by decide)) hidle (by decide)
  · exact counted_then (counted_after (hbefore.mono
        (ds := Ctr.admissionsGranted :: Ctr.staleVoice :: Ctr.stepUps :: reportCounters)
      (by simp) |>.trans (htail.mono (by simp))) (by decide) rcount) hidle (by decide)
  · rw [hidle _ (by decide), ronly _ (by decide), htail _ (by decide), hbefore _ (by decide)]
  · rw [hirec.kept (by decide), fault_congr hrfu, fault_congr hffu, hfault]
  · exact (((hach.mono (by decide)).trans hoch).trans hfch).trans ((rch.mono (by decide)).trans hich)

/-- One port put into RINGING and its channel started, whatever was reported between the two. -/
theorem alertTaken_one {p : Port} {cad : Fin 8} {group : Bool} {w : State}
    (hcc : w.cc = (alerted n cad group s).cc) (hppu : w.ppu = (ringIn p (alerted n cad group s)).ppu)
    (honly : countsOnly reportCounters (ringIn p (alerted n cad group s)) w) :
    AlertTaken n cad group (noPorts.put p true) s
      (alertStarted n (noPorts.put p true) (startSec (s.param .alertLimit)) (startRing p cad w)) := by
  have hport (q : Port) : w.port q = if q = p then { s.port q with state := .ringing } else s.port q := by
    have ha : (alerted n cad group s).ppu = s.ppu := by simp [alerted]
    rw [port_congr hppu, port_ringIn, port_congr ha]
  have hcad : w.ppu.cadences = s.ppu.cadences := by
    rw [hppu]
    cases p <;> simp [ringIn, alerted, enterPort_ppu, onPort, onPpu]
  have hin : counted (Ctr.ringStarts p) 1 (alerted n cad group s) (ringIn p (alerted n cad group s)) ∧
      countsOnly [Ctr.ringStarts p] (alerted n cad group s) (ringIn p (alerted n cad group s)) :=
    ⟨counted_after (cs := []) ((countsOnly.refl _ _).congr (u := enterPort p .ringing _) (by simp)) (by simp)
      (counter_bump_same _ _), ((countsOnly.refl _ _).congr (u := enterPort p .ringing _) (by simp)).bump (by simp)⟩
  have hcounters : (startRing p cad w).counters = w.counters := by simp
  have hmem (q : Port) : (noPorts.put p true).has q = true ↔ q = p := by cases p <;> cases q <;> decide
  have hmem' (q : Port) : (noPorts.put p true).has q = false ↔ q ≠ p := by cases p <;> cases q <;> decide
  have hring := startRing_onlyChannel p
  refine alertTaken_of (by simpa using hcc) (fun q hq => ?_) (fun q hq => ?_) ((hring p cad w).2.2.trans hcad) (fun q hq => ?_) ?_
  · have h := (hring q cad w).1
    rwa [hport, if_pos ((hmem q).1 hq)] at h
  · rw [(hring q cad w).2.1 (Ne.symm ((hmem' q).1 hq)), hport, if_neg ((hmem' q).1 hq)]
  · rw [(hmem q).1 hq]
    exact (counter_congr hcounters _).trans (counted_then hin.1 honly (by cases p <;> decide))
  · refine ((hin.2.mono ?_).trans (honly.mono (by simp [ringCounters]))).congr hcounters
    cases p <;> simp [ringCounters]

theorem alertOne_facts {p : Port} (cad : Fin 8) (group : Bool) (hi : (s.port p).state = .idle)
    (hh : s.holdsRinger p.other = false) :
    AlertTaken n cad group (noPorts.put p true) s (alertRings n (noPorts.put p true) cad group s) ∧
    (alertRings n (noPorts.put p true) cad group s).fu = s.fu ∧
    changesOnly ([.phones, .calls, .media] ++ reportBlocks) s (alertRings n (noPorts.put p true) cad group s) := by
  rw [alertRings_limited_one cad group hi hh]
  refine ⟨alertTaken_one (by simp [ringIn]) rfl (.refl _ _), by simp [alertStarted, ringIn, alerted], ?_⟩
  simp [changesOnly_iff, alertStarted, ringIn, alerted, reportBlocks]

theorem alertBoth_facts (cad : Fin 8) (group : Bool) (hb : s.onBattery = true) (ha : (s.port .a).state = .idle)
    (hbi : (s.port .b).state = .idle) :
    AlertTaken n cad group (noPorts.put .a true) s (alertRings n { a := true, b := true } cad group s) ∧
    (alertRings n { a := true, b := true } cad group s).fault .ringLimited =
      (s.fault .ringLimited).occurred false s.fu.uptime 2 ∧
    recordsOnly [.ringLimited] s (alertRings n { a := true, b := true } cad group s) ∧
    changesOnly ([.phones, .calls, .media] ++ reportBlocks) s (alertRings n { a := true, b := true } cad group s) := by
  have hfu : (ringIn .a (alerted n cad group s)).fu = s.fu := by simp [ringIn, alerted]
  rw [alertRings_limited_both cad group hb ha hbi]
  refine ⟨alertTaken_one (by simp [ringIn]) (by simp) (occurrence_countsOnly _ _ _), ?_, ?_, ?_⟩
  · have hend : (alertStarted n (noPorts.put .a true) (startSec (s.param .alertLimit))
        (startRing .a cad (occurrence .ringLimited 2 (ringIn .a (alerted n cad group s))))).fu =
        (occurrence .ringLimited 2 (ringIn .a (alerted n cad group s))).fu := by simp [alertStarted]
    rw [fault_congr hend, fault_occurrence_reported, fault_congr hfu, hfu]
    rfl
  · have hend : (alertStarted n (noPorts.put .a true) (startSec (s.param .alertLimit))
        (startRing .a cad (occurrence .ringLimited 2 (ringIn .a (alerted n cad group s))))).fu =
        (occurrence .ringLimited 2 (ringIn .a (alerted n cad group s))).fu := by simp [alertStarted]
    exact ((recordsOnly_of_fu hfu).trans (occurrence_recordsOnly .ringLimited 2 _)).trans (recordsOnly_of_fu hend)
  · simp [changesOnly_iff, alertStarted, ringIn, alerted, reportBlocks]

/-! ## The ALERT as it arrives (R150, R153) -/

/-- The IDLE ports of an ALERT's mask. -/
theorem idleOf_mask (mask : Byte) (s : State) : s.idleOf (portsOf mask.toNat) =
    { a := mask.getLsbD 0 && (s.port .a).state == .idle, b := mask.getLsbD 1 && (s.port .b).state == .idle } := by
  rw [testBit_eq, testBit_eq]
  simp [State.idleOf, portsOf]

theorem group_ne_zero (g : Byte) : (g.toNat != 0) = (g != 0) := by
  rw [Bool.eq_iff_iff]
  simp [BitVec.toNat_eq]

theorem deliver_alert (n : Slot) (cadence mask group : Byte) (s : State) :
    deliver n.chan [1, 16, cadence, mask, group] s =
      if (s.call n).state = .free then
        alert n cadence.toNat (portsOf mask.toNat) (group != 0) (bump (Ctr.framesDelivered n.chan) s)
      else refuseAlert n .slotBusy (bump (Ctr.framesDelivered n.chan) s) := by
  rw [deliver_signal, ← group_ne_zero]
  unfold signalArrives
  have hcall : (bump (Ctr.framesDelivered n.chan) s).call n = s.call n := rfl
  dsimp only [List.getD_cons_zero, List.getD_cons_succ]
  rw [hcall]
  cases (s.call n).state <;> rfl

theorem delivered_countsOnly (n : Slot) (s : State) :
    countsOnly [Ctr.framesDelivered n.chan] s (bump (Ctr.framesDelivered n.chan) s) := (countsOnly.refl _ s).bump (by simp)

/-- A refusal of an ALERT that has just been delivered. -/
theorem delivered_refused (n : Slot) (cause : Cause) (s : State) :
    let t := refuseAlert n cause (bump (Ctr.framesDelivered n.chan) s)
    (t.call n = { s.call n with signals := (s.call n).signals ++
      (if (s.call n).signals.length < 8 then [.refuse cause] else []) } ∧
      t.call n.other = s.call n.other ∧ t.cc.stamp = s.cc.stamp ∧ counted Ctr.alertsRefused 1 s t ∧
      counted (Ctr.framesDelivered n.chan) 1 s t) ∧ changesOnly [.calls, .counters] s t := by
  intro t
  obtain ⟨hcall, hother, hstamp, hcount, honly, hch⟩ := refuseAlert_facts n cause (bump (Ctr.framesDelivered n.chan) s)
  refine ⟨⟨hcall, hother, hstamp, counted_after (delivered_countsOnly n s) (by cases n <;> decide) hcount,
    counted_then (counter_bump_same s _) honly (by cases n <;> decide)⟩, ?_⟩
  have hbump : changesOnly [.calls, .counters] s (bump (Ctr.framesDelivered n.chan) s) := by simp [changesOnly_iff]
  exact hbump.trans hch

/-- The admission refused: counted, REFUSE(BUDGET) queued and CALL_REFUSED reported (R57, R158). -/
theorem delivered_overBudget {needs : Nat}
    (ht : t = refuseAdmission needs (refuseAlert n .budget (countAdmission false (bump (Ctr.framesDelivered n.chan) s)))) :
    (t.call n = { s.call n with signals := (s.call n).signals ++
      (if (s.call n).signals.length < 8 then [.refuse .budget] else []) } ∧
      t.call n.other = s.call n.other ∧ t.cc.stamp = s.cc.stamp ∧ counted Ctr.alertsRefused 1 s t ∧
      counted (Ctr.framesDelivered n.chan) 1 s t) ∧ counted Ctr.admissionsRefused 1 s t ∧
    t.fault .callRefused = (s.fault .callRefused).occurred false s.fu.uptime (needs * 256 + min s.lbu.sustained 255) ∧
    recordsOnly [.callRefused] s t ∧ Reports s t ∧ changesOnly (.calls :: reportBlocks) s t := by
  generalize hv : countAdmission false (bump (Ctr.framesDelivered n.chan) s) = v at ht
  have hvs : v.cc = s.cc ∧ v.fu = s.fu ∧ v.lbu = s.lbu := by rw [← hv]; exact ⟨rfl, rfl, rfl⟩
  have hvcount : counted (Ctr.framesDelivered n.chan) 1 s v ∧ counted Ctr.admissionsRefused 1 s v ∧
      countsOnly [Ctr.framesDelivered n.chan, Ctr.admissionsRefused] s v := by
    have honly : countsOnly [Ctr.admissionsRefused] (bump (Ctr.framesDelivered n.chan) s) v := by
      rw [← hv]
      exact (countsOnly.refl _ _).bump (by simp)
    refine ⟨counted_then (counter_bump_same s _) honly (by cases n <;> decide), ?_,
      ((delivered_countsOnly n s).mono (by simp)).trans (honly.mono (by simp))⟩
    rw [← hv]
    exact counted_after (delivered_countsOnly n s) (by cases n <;> decide) (counter_bump_same _ _)
  have hvch : changesOnly (.calls :: reportBlocks) s v := by
    rw [← hv]
    simp [changesOnly_iff, countAdmission, reportBlocks]
  have hvrep : Reports s v := reports_of_eq (by rw [← hv]; rfl) (by rw [← hv]; rfl) hvs.2.1
  obtain ⟨hcall, hother, hstamp, hcount, honly, hch⟩ := refuseAlert_facts n .budget v
  have hrfu : (refuseAlert n .budget v).fu = v.fu := by simp [refuseAlert]
  have hrlbu : (refuseAlert n .budget v).lbu = v.lbu := by simp [refuseAlert]
  have htail := occurrence_countsOnly .callRefused (needs * 256 + min (refuseAlert n .budget v).lbu.sustained 255)
    (refuseAlert n .budget v)
  have htcc : t.cc = (refuseAlert n .budget v).cc := by simp [ht, refuseAdmission]
  rw [← show t = occurrence .callRefused (needs * 256 + min (refuseAlert n .budget v).lbu.sustained 255) (refuseAlert n .budget v)
    from ht] at htail
  refine ⟨⟨?_, ?_, ?_, ?_, ?_⟩, ?_, ?_, ?_, ?_, ?_⟩
  · rw [call_congr htcc, hcall, call_congr hvs.1]
  · rw [call_congr htcc, hother, call_congr hvs.1]
  · rw [htcc, hstamp, hvs.1]
  · exact counted_then (counted_after hvcount.2.2 (by cases n <;> decide) hcount) htail (by decide)
  · exact counted_then (counted_then hvcount.1 honly (by cases n <;> decide)) htail (by cases n <;> decide)
  · exact counted_then (counted_then hvcount.2.1 honly (by decide)) htail (by decide)
  · rw [ht, refuseAdmission, fault_occurrence_reported, fault_congr hrfu, fault_congr hvs.2.1, hrfu, hvs.2.1, hrlbu, hvs.2.2]
    rfl
  · rw [ht]
    exact (recordsOnly_of_fu (hrfu.trans hvs.2.1)).trans (occurrence_recordsOnly .callRefused _ _)
  · rw [ht]
    exact occurrence_reports _ _ (reports_same hvrep (by simp [refuseAlert]) (by simp [refuseAlert]) hrfu)
  · exact (hvch.trans (hch.mono (by decide))).trans (by simp [changesOnly_iff, ht, refuseAdmission, reportBlocks])

theorem alert_busy {cadence : Nat} {ports : PortSet} {group : Bool} (h : s.idleOf ports = { a := false, b := false }) :
    alert n cadence ports group s = refuseAlert n .portsBusy s := by
  rw [alert, h]
  rfl

theorem alert_badCadence {cadence : Nat} {ports : PortSet} {group : Bool} (h : s.idleOf ports ≠ { a := false, b := false })
    (hc : s.cadenceOf cadence = none) : alert n cadence ports group s = refuseAlert n .badCadence s := by
  rw [alert, if_neg fun e => h ((portSet_isEmpty_iff _).1 e), hc]

theorem alert_checked {cadence : Nat} {ports : PortSet} {group : Bool} {cad : Fin 8}
    (h : s.idleOf ports ≠ { a := false, b := false }) (hc : s.cadenceOf cadence = some cad) :
    alert n cadence ports group s = if s.admissible = true then alertRings n (s.idleOf ports) cad group s
      else refuseAdmission s.requestNeeds (refuseAlert n .budget (countAdmission false s)) := by
  rw [alert, if_neg fun e => h ((portSet_isEmpty_iff _).1 e), hc]

/-- What an ALERT taken comes to, counted from before its delivery. -/
theorem AlertTaken.delivered {cad : Fin 8} {group : Bool} {rung : PortSet}
    (h : AlertTaken n cad group rung (bump (Ctr.framesDelivered n.chan) s) t) : AlertTaken n cad group rung s t := by
  have hd := delivered_countsOnly n s
  exact ⟨h.call, h.other, h.stamp, counted_after hd (by cases n <;> decide) h.granted,
    counted_after hd (by cases n <;> decide) h.alerted,
    fun p hp => ⟨(h.ringing p hp).1, counted_after hd (by cases n <;> cases p <;> decide) (h.ringing p hp).2⟩,
    h.silent, h.cadences⟩

theorem AlertTaken.call_eq {cadence : Nat} {group : Bool} {rung : PortSet}
    (h : AlertTaken n (Fin.ofNat 8 cadence) group rung s t) (hc : cadence < 8) : t.call n = { s.call n with
      state := .alerting, dir := .inward, stamp := t.cc.stamp, start := s.fu.uptime, sent := 0, received := 0, endCause := none,
      cadence := cadence, group := group, ringSet := rung,
      alert := some { limit := 1000 * s.param .alertLimit, elapsed := 0 } } := by
  rw [h.call, h.stamp, show (Fin.ofNat 8 cadence).val = cadence from Nat.mod_eq_of_lt hc]
  rfl

theorem onlyChannel.ringing {u v : PortUnit} (h : onlyChannel { u with state := .ringing } v) :
    v.state = .ringing ∧ v = { u with state := .ringing, chan := v.chan, differ := v.differ, trip := v.trip } :=
  ⟨by rw [h], h⟩

/-- A set with at least one port has both or just one. -/
theorem portSet_cases {c : PortSet} (h : c ≠ { a := false, b := false }) :
    c = { a := true, b := true } ∨ ∃ p, c = noPorts.put p true ∧ p = if c.a = true then .a else .b := by
  obtain ⟨a, b⟩ := c
  cases a <;> cases b
  · exact absurd rfl h
  · exact .inr ⟨.b, rfl, rfl⟩
  · exact .inr ⟨.a, rfl, rfl⟩
  · exact .inl rfl

/-- Outside MAINS a port is held back alone: what the ALERT comes to, counted from before its delivery. -/
theorem delivered_held (p : Port) (cad : Fin 8) (group : Bool) (hl : s.ls.link = .carrying)
    (ht : t = reportIfIdle (refuseAlert n .power (freeSlot n .power
      (occurrence .ringLimited p.code (alerted n cad group (bump (Ctr.framesDelivered n.chan) s)))))) :
    (t.cc.stamp = min (s.cc.stamp + 1) Config.max32 ∧ t.call n.other = s.call n.other ∧ counted Ctr.admissionsGranted 1 s t) ∧
    t.call n = { s.call n with
      dir := .inward, stamp := t.cc.stamp, start := s.fu.uptime, sent := 0, received := 0,
      state := .free, held := false, attached := { a := false, b := false }, ringSet := { a := false, b := false },
      cadence := 0, group := false, alert := none, endCause := some .power,
      signals := (s.call n).signals ++ (if (s.call n).signals.length < 8 then [.refuse .power] else []) } ∧
    t.fault .ringLimited = (s.fault .ringLimited).occurred false s.fu.uptime (if p = .a then 1 else 2) ∧
    counted Ctr.alertsRefused 1 s t ∧ t.counter Ctr.callsAlerted = s.counter Ctr.callsAlerted ∧
    changesOnly ([.framer, .supervisor, .budget, .calls, .media, .outputs] ++ reportBlocks) s t := by
  have hdel := delivered_countsOnly n s
  have hkept : (bump (Ctr.framesDelivered n.chan) s).counter Ctr.callsAlerted = s.counter Ctr.callsAlerted :=
    hdel Ctr.callsAlerted (by cases n <;> decide)
  have hcc : (bump (Ctr.framesDelivered n.chan) s).cc = s.cc := rfl
  have hfu : (bump (Ctr.framesDelivered n.chan) s).fu = s.fu := rfl
  have hls : (bump (Ctr.framesDelivered n.chan) s).ls = s.ls := rfl
  have hd : changesOnly ([.framer, .supervisor, .budget, .calls, .media, .outputs] ++ reportBlocks) s
      (bump (Ctr.framesDelivered n.chan) s) := by simp [changesOnly_iff, reportBlocks]
  generalize bump (Ctr.framesDelivered n.chan) s = v at *
  obtain ⟨hcall, hother, hstamp, hgranted, hrefused, halerted, hfault, hch⟩ := alertHeld_facts p cad group (by rw [hls, hl]) ht
  rw [call_congr hcc, hcc, hfu] at hcall
  rw [call_congr hcc] at hother
  rw [hcc] at hstamp
  rw [fault_congr hfu, hfu] at hfault
  refine ⟨⟨hstamp, hother, counted_after hdel (by cases n <;> decide) hgranted⟩, ?_, ?_,
    counted_after hdel (by cases n <;> decide) hrefused, halerted.trans hkept, hd.trans hch⟩
  · rw [hstamp, hcall]
    rfl
  · cases p <;> exact hfault

/-- Outside MAINS one port rings: what the ALERT comes to. -/
theorem AlertTaken.limited {cadence : Nat} {group : Bool} {p : Port}
    (h : AlertTaken n (Fin.ofNat 8 cadence) group (noPorts.put p true) s t) (hc : cadence < 8) :
    (t.cc.stamp = min (s.cc.stamp + 1) Config.max32 ∧ t.call n.other = s.call n.other ∧ counted Ctr.admissionsGranted 1 s t) ∧
    t.call n = { s.call n with
      dir := .inward, stamp := t.cc.stamp, start := s.fu.uptime, sent := 0, received := 0,
      state := .alerting, endCause := none, cadence := cadence, group := group,
      ringSet := noPorts.put p true, alert := some { limit := 1000 * s.param .alertLimit, elapsed := 0 } } ∧
    ((t.port p).state = .ringing ∧
      t.port p = { s.port p with state := .ringing, chan := (t.port p).chan, differ := (t.port p).differ,
                                 trip := (t.port p).trip } ∧
      t.port p.other = s.port p.other ∧ t.ppu.cadences = s.ppu.cadences) ∧
    counted (Ctr.ringStarts p) 1 s t ∧ counted Ctr.callsAlerted 1 s t := by
  have hring := h.ringing p (by cases p <;> rfl)
  exact ⟨⟨h.stamp, h.other, h.granted⟩, h.call_eq hc,
    ⟨hring.1.ringing.1, hring.1.ringing.2, h.silent p.other (by cases p <;> rfl), h.cadences⟩, hring.2, h.alerted⟩

/-- Settles O33: the checks one after another, then the ring request on mains, or for one port outside it. -/
theorem alertsRingTheirPorts : Obligations.AlertsRingTheirPorts := by
  intro s n cadence mask group t ring empty granted refused slotFree
  have hring : (bump (Ctr.framesDelivered n.chan) s).idleOf (portsOf mask.toNat) = ring := idleOf_mask mask s
  have hfree (h : slotFree) : t = alert n cadence.toNat (portsOf mask.toNat) (group != 0) (bump (Ctr.framesDelivered n.chan) s) :=
    (deliver_alert n cadence mask group s).trans (if_pos h)
  have hcad (h : cadence.toNat < 8) (hne : ¬ empty) : (bump (Ctr.framesDelivered n.chan) s).cadenceOf cadence.toNat =
      some (Fin.ofNat 8 cadence.toNat) := cadenceOf_some h hne
  have hrung (hf : slotFree) (hr : ring ≠ { a := false, b := false }) (hc : cadence.toNat < 8) (he : ¬ empty) (hg : granted) :
      t = alertRings n ring (Fin.ofNat 8 cadence.toNat) (group != 0) (bump (Ctr.framesDelivered n.chan) s) := by
    have hadm : (bump (Ctr.framesDelivered n.chan) s).admissible = true := admissible_of (n := n) hg.1 hf hg.2
    rw [hfree hf, alert_checked (by rwa [hring]) (hcad hc he), if_pos hadm, hring]
  refine ⟨fun hf => ?_, fun hf hr => ?_, fun hf hr hc => ?_, fun hf hr hc he hg => ?_, fun hf hr hc he hg hm => ?_,
    fun hf hr hc he hg hm => ?_⟩
  · have ht : t = refuseAlert n .slotBusy (bump (Ctr.framesDelivered n.chan) s) :=
      (deliver_alert n cadence mask group s).trans (if_neg hf)
    simp only [refused, ht]
    exact delivered_refused n .slotBusy s
  · simp only [refused, hfree hf, alert_busy (hring.trans hr)]
    exact delivered_refused n .portsBusy s
  · have hnone : (bump (Ctr.framesDelivered n.chan) s).cadenceOf cadence.toNat = none := cadenceOf_none hc
    simp only [refused, hfree hf, alert_badCadence (by rwa [hring]) hnone]
    exact delivered_refused n .badCadence s
  · have hadm : ¬ (bump (Ctr.framesDelivered n.chan) s).admissible = true := fun ha => by
      simp only [State.admissible, Bool.and_eq_true, decide_eq_true_eq] at ha
      exact hg ⟨beq_iff_eq.1 ha.1.1, ha.2⟩
    have ht := hfree hf
    rw [alert_checked (by rwa [hring]) (hcad hc he), if_neg hadm] at ht
    exact delivered_overBudget ht
  · have hbat : (bump (Ctr.framesDelivered n.chan) s).onBattery = false := by
      show (s.fu.power != .mains) = false
      rw [hm]
      rfl
    have hidle : ∀ p, ring.has p = true → ((bump (Ctr.framesDelivered n.chan) s).port p).state = .idle := fun p hp => by
      cases p
      · exact beq_iff_eq.1 (Bool.and_eq_true_iff.1 hp).2
      · exact beq_iff_eq.1 (Bool.and_eq_true_iff.1 hp).2
    obtain ⟨htaken, hch, honly⟩ := alertRings_mains_facts (n := n) (Fin.ofNat 8 cadence.toNat) (group != 0) hbat hidle hr
    rw [← hrung hf hr hc he hg] at htaken hch honly
    have htk := htaken.delivered
    have hd : changesOnly [.phones, .calls, .media, .counters] s (bump (Ctr.framesDelivered n.chan) s) := by
      simp [changesOnly_iff]
    refine ⟨htk.stamp, htk.call_eq hc, htk.other, fun p => ?_, htk.cadences, htk.granted, htk.alerted, hd.trans hch,
      ((delivered_countsOnly n s).mono (by simp)).trans (honly.mono (by simp))⟩
    split
    · rename_i hp
      obtain ⟨hport, hcount⟩ := htk.ringing p hp
      exact ⟨hport.ringing.1, hport.ringing.2, hcount⟩
    · rename_i hp
      exact htk.silent p (by simpa using hp)
  · have hbat : (bump (Ctr.framesDelivered n.chan) s).onBattery = true := by
      show (s.fu.power != .mains) = true
      simpa using hm
    have hidle : ∀ p, ring.has p = true → (s.port p).state = .idle := fun p hp => by
      cases p
      · exact beq_iff_eq.1 (Bool.and_eq_true_iff.1 hp).2
      · exact beq_iff_eq.1 (Bool.and_eq_true_iff.1 hp).2
    have ht := hrung hf hr hc he hg
    have hrep : Reports s t := by
      rw [ht]
      exact alertRings_reports n ring _ _ (reports_bump (.refl s))
    have hd : changesOnly ([.phones, .calls, .media] ++ reportBlocks) s (bump (Ctr.framesDelivered n.chan) s) := by
      simp [changesOnly_iff, reportBlocks]
    intro p limitedOf admitted
    rcases portSet_cases hr with hboth | ⟨q, hone, hq⟩
    · have hp : p = .a := if_pos (by rw [hboth])
      have hb : (s.port .b).state = .idle := hidle .b (by rw [hboth]; rfl)
      obtain ⟨htaken, hfault, hrec, hch⟩ := alertBoth_facts (n := n) (s := bump (Ctr.framesDelivered n.chan) s)
        (Fin.ofNat 8 cadence.toNat) (group != 0) hbat (hidle .a (by rw [hboth]; rfl)) hb
      rw [← hboth, ← ht] at htaken hfault hrec hch
      obtain ⟨⟨hstamp, hother, hgranted⟩, hcall, ⟨hstate, hport, hsilent, hcads⟩, hstarts, halerted⟩ :=
        htaken.delivered.limited hc
      have hset : noPorts.put .a true = { a := ring.a, b := !ring.a } := by rw [hboth]; rfl
      have hnot : s.holdsRinger Port.b = false := by simp [State.holdsRinger, hb]
      have hlow : ring.has .b = true := by rw [hboth]; rfl
      rw [hset] at hcall
      clear_value p
      subst hp
      exact ⟨hstamp, hother, hgranted, fun h => (Bool.false_ne_true (hnot.symm.trans h)).elim, fun _ => ⟨hcall, hstate, hport,
        hsilent, hcads, fun _ => hfault, fun h => (Bool.false_ne_true (h.symm.trans hlow)).elim, hrec, hrep, hstarts, halerted,
        hd.trans hch⟩⟩
    · have hset : noPorts.put q true = { a := ring.a, b := !ring.a } := by rw [hone]; cases q <;> rfl
      have hhas : ring.has q.other = false := by rw [hone]; cases q <;> rfl
      have hq' : (s.port q).state = .idle := hidle q (by rw [hone]; cases q <;> rfl)
      have hp : p = q := hq.symm
      clear_value p
      subst hp
      cases hh : s.holdsRinger p.other with
      | true =>
        have hheld := ht
        rw [hone, alertRings_limited_held (Fin.ofNat 8 cadence.toNat) (group != 0) hbat hq' hh] at hheld
        obtain ⟨⟨hstamp, hother, hgranted⟩, hrest⟩ := delivered_held p (Fin.ofNat 8 cadence.toNat) (group != 0) hg.1 hheld
        exact ⟨hstamp, hother, hgranted, fun _ => hrest, fun h => (Bool.false_ne_true h.symm).elim⟩
      | false =>
        obtain ⟨htaken, hfu, hch⟩ := alertOne_facts (n := n) (s := bump (Ctr.framesDelivered n.chan) s)
          (Fin.ofNat 8 cadence.toNat) (group != 0) hq' hh
        rw [← hone, ← ht] at hfu hch
        rw [← (congrArg (fun r => alertRings n r (Fin.ofNat 8 cadence.toNat) (group != 0) _) hone :), ← ht] at htaken
        obtain ⟨⟨hstamp, hother, hgranted⟩, hcall, ⟨hstate, hport, hsilent, hcads⟩, hstarts, halerted⟩ :=
          htaken.delivered.limited hc
        rw [hset] at hcall
        exact ⟨hstamp, hother, hgranted, fun h => (Bool.false_ne_true h).elim, fun _ => ⟨hcall, hstate, hport, hsilent, hcads,
          fun h => (Bool.false_ne_true (hhas.symm.trans h)).elim, fun _ => hfu, recordsOnly_of_fu hfu, hrep, hstarts, halerted,
          hd.trans hch⟩⟩

end Sys2Proof.Machine

/-! PROOFS. O60: the frames that carry directives: a management frame from home, a frame on channel 15. -/

namespace Sys2Proof.Machine

variable {s : State} {sender : Sender} {tag : Half} {r : Request}

/-! ## A management message read (R205, R219) -/

theorem Request.code_bounds (r : Request) : 1 ≤ r.code ∧ r.code ≤ 10 := by
  cases r <;> simp [Request.code]

/-- No body is longer than its message's length field can say. -/
theorem Request.body_length (h : r.fits = true) : r.body.length < 65536 := by
  cases r with
  | writeCadence i d rep =>
    have hd : d.length = 8 := by simpa [Request.fits] using h
    simp [Request.body, hd]
  | _ => simp [Request.body, profileImageBytes, matchImageBytes]

/-- A directive's message, with whatever pads its frame, reads back as the directive's code, tag and body. -/
theorem takeMessage_requestMsg (h : r.fits = true) (pad : Bytes) :
    takeMessage sender (requestMsg tag r ++ pad) s = takeBody sender r.code tag r.body s := by
  obtain ⟨hlow, hhigh⟩ := r.code_bounds
  have hcode : (byteOf r.code).toNat = r.code := by
    rw [byteOf_toNat]
    omega
  have hlength : (half (byteOf (r.body.length / 256)) (byteOf r.body.length)).toNat = r.body.length := by
    have hb := Request.body_length h
    have := congrArg BitVec.toNat (half_be16 (BitVec.ofNat 16 r.body.length))
    rwa [BitVec.toNat_ofNat, Nat.mod_eq_of_lt hb] at this
  have hmsg : requestMsg tag r ++ pad = 1 :: byteOf r.code :: byteOf (tag.toNat / 256) :: byteOf tag.toNat ::
      byteOf (r.body.length / 256) :: byteOf r.body.length :: (r.body ++ pad) := by
    simp [requestMsg, be16]
  have hnew : ¬ ((1 : Byte) ≠ 1 ∨ r.code = 0 ∨ 10 < r.code) := by
    rintro (h | h | h)
    · exact h rfl
    · omega
    · omega
  rw [hmsg]
  unfold takeMessage halfAt
  simp only [List.length_cons, List.length_append, List.getD_cons_zero, List.getD_cons_succ, hcode, half_be16, hlength,
    List.drop_succ_cons, List.drop_zero, List.take_left]
  rw [if_neg (by omega), if_neg hnew, if_neg (by omega)]

/-- A message on its way to the Directive Unit has the effect of the row that carries its directive. -/
theorem receive_requestMsg {c : Instr} (hc : requestOf c = some (sender, tag, r)) (h : r.fits = true) (pad : Bytes) :
    receiveDirective sender (takeMessage sender (requestMsg tag r ++ pad)) s = effect c s := by
  rw [effect_directive hc, directive]
  exact congrArg (fun take => receiveDirective sender take s) (funext fun u => takeMessage_requestMsg h pad)

/-! ## From home (R75, R203) -/

/-- A management frame built from its fields has no tag, the management type, its source and its payload (R76). -/
theorem managementFrame_fields (dest source : Mac) (payload : Bytes) :
    let f := etherFrame dest source 0x9A21 payload
    typeOffset f = 12 ∧ numAt f 12 2 = some 0x9A21 ∧ sourceOf f = source ∧ payloadOf f = payload := by
  intro f
  have hsplit : f.drop 12 = be16 0x9A21 ++ payload := rfl
  have htype : numAt f 12 2 = some 0x9A21 := by
    have hlen : 12 + 2 ≤ f.length := by
      show 12 + 2 ≤ (be48 dest.toNat ++ be48 source.toNat ++ be16 0x9A21 ++ payload).length
      simp only [List.length_append, be48_length, be16_length]
      omega
    rw [numAt, fieldAt, if_pos hlen, hsplit]
    rfl
  have htag : typeOffset f = 12 := by
    rw [typeOffset, isTagged, htype]
    rfl
  refine ⟨htag, htype, ?_, ?_⟩
  · exact word48_be48 source
  · rw [payloadOf, htag]
    rfl

/-- A management frame with a good check sequence reaches the Directive Unit with its source as its sender. -/
theorem homeFrameArrives_management {dest source : Mac} {payload : Bytes} (hup : s.qm.homeUp = true)
    (h60 : 60 ≤ (etherFrame dest source 0x9A21 payload).length) (h1518 : (etherFrame dest source 0x9A21 payload).length ≤ 1518) :
    homeFrameArrives (etherFrame dest source 0x9A21 payload ++ fcsBytes (etherFrame dest source 0x9A21 payload)) s =
      receiveDirective (.loc source) (takeMessage (.loc source) payload)
        (s |> bump Ctr.framesReceived |> bump Ctr.managementFrames) := by
  obtain ⟨htag, htype, hsource, hpayload⟩ := managementFrame_fields dest source payload
  generalize etherFrame dest source 0x9A21 payload = f at *
  have hlen : (f ++ fcsBytes f).length - 4 = f.length := by
    rw [List.length_append]
    exact Nat.add_sub_cancel f.length 4
  have hbound : 64 ≤ (f ++ fcsBytes f).length ∧ (f ++ fcsBytes f).length ≤ 1522 := by
    rw [List.length_append]
    exact ⟨Nat.add_le_add_right h60 4, Nat.add_le_add_right h1518 4⟩
  rw [homeFrameArrives_good hup hbound.1 hbound.2 (by rw [hlen, List.drop_left, List.take_left]), hlen, List.take_left,
    homeFrameTaken, htag]
  rw [if_pos htype, hsource, hpayload]

/-! ## From the exchange (R15, R204) -/

/-- A block WHOLE on channel 15, as it is read. -/
def wholeBlock (seq frameNo : Byte) (used : Nat) (area : Bytes) : LineBlock :=
  { chan := 15, kind := .whole, fill := false, seq := seq, used := used, frameNo := frameNo, payload := area }

/-- A frame WHOLE on channel 15, in sequence and with nothing collected there, reaches the Directive Unit. -/
theorem blockArrives_management {seq frameNo : Byte} {f : Bytes} (hl : s.ls.link = .carrying)
    (he : (s.chan 15).expected = some seq) (ha : (s.chan 15).asm = none) (h1 : 1 ≤ f.length)
    (hf : f.length ≤ s.lbu.size.payload) :
    blockArrives (blockBytes s.lbu.size 15 .whole false false seq f.length frameNo f) s =
      receiveDirective .exch (takeMessage .exch f) (s |> bump Ctr.goodReceived
        |> onChan 15 (fun h => { h with expected := some (seq + 1) }) |> bump (Ctr.framesDelivered 15)) := by
  have hlt := s.lbu.size.payload_lt
  have hloop : s.looped 15 = false := by
    unfold State.looped
    cases s.ls.loopback with
    | none => rfl
    | some l => cases h : l.channel <;> simp [h, LoopChannel.chan]
  have hdata : (f ++ List.replicate (s.lbu.size.payload - f.length) (0 : Byte)).take f.length = f := List.take_left
  rw [blockArrives_good hl (blockGood_blockBytes hf).2, readBlock_blockBytes hf (by omega)]
  generalize f ++ List.replicate (s.lbu.size.payload - f.length) (0 : Byte) = area at hdata
  have hsane : malformed s.lbu.size (wholeBlock seq frameNo f.length area) = false := by
    refine Bool.eq_false_iff.2 fun hm => ?_
    rcases (malformed_iff _ _).1 hm with ⟨h, -⟩ | ⟨-, h⟩ <;> simp only [wholeBlock] at h
    · rcases h with h | h <;> cases h
    · omega
  have hidle : ((inSequence (wholeBlock seq frameNo f.length area) s).chan 15).asm = none := by
    rw [inSequence, wholeBlock, chan_onChan_same]
    exact ha
  refine (goodBlock_inSequence (b := wholeBlock seq frameNo f.length area) rfl (by decide : assigned 15 = true) (.inr he) hsane
    hloop).trans ?_
  have hfits : ¬ largestFrame 15 < f.length := by
    have : largestFrame 15 = 256 := rfl
    omega
  have hwhole : reassemble (wholeBlock seq frameNo f.length area) (inSequence (wholeBlock seq frameNo f.length area) s) =
      if largestFrame 15 < f.length then
        oversizeBlock 15 (abandon 15 .superseded (inSequence (wholeBlock seq frameNo f.length area) s))
      else deliver 15 (area.take f.length) (abandon 15 .superseded (inSequence (wholeBlock seq frameNo f.length area) s)) := rfl
  rw [hwhole, abandon_idle _ hidle, if_neg hfits, hdata]
  rfl

/-- Settles O60: both frames read back as the directive, which the row then takes. -/
theorem framesCarryDirectives : Obligations.FramesCarryDirectives := by
  intro c tag r s h
  refine ⟨?_, fun hc => ⟨fun seq frameNo hl he ha hf => ?_, fun hfull => ?_⟩⟩
  · intro dest source pad hc hup f h60 h1518
    rw [exec_eq, exec_eq]
    exact congrArg Host.Outcome.next ((homeFrameArrives_management hup h60 h1518).trans (receive_requestMsg hc h pad))
  · rw [exec_eq, exec_eq]
    have h1 : 1 ≤ (requestMsg tag r).length := by
      simp only [requestMsg, List.length_append, be16_length, List.length_cons, List.length_nil]
      omega
    have hmsg := receive_requestMsg (s := s |> bump Ctr.goodReceived
      |> onChan 15 (fun h => { h with expected := some (seq + 1) }) |> bump (Ctr.framesDelivered 15)) hc h []
    rw [List.append_nil] at hmsg
    exact congrArg Host.Outcome.next ((blockArrives_management hl he ha h1 hf).trans hmsg)
  · refine ⟨_, exec_eq c s, ?_⟩
    rw [effect_directive hc, directive_discarded tag r (by simp [hfull, Config.replies])]
    have hreceived : countsOnly [Ctr.received .exch] s (bump (Ctr.received .exch) s) := (countsOnly.refl _ s).bump (by simp)
    obtain ⟨hcount, hch, honly⟩ := bump_alone Ctr.exchangeDiscarded (bump (Ctr.received .exch) s)
    exact ⟨counted_then (counter_bump_same s _) honly (by decide), counted_after hreceived (by decide) hcount,
      by simp [changesOnly_iff], (hreceived.mono (by simp)).trans (honly.mono (by simp))⟩

end Sys2Proof.Machine

/-! PROOFS. O59: a directed reset, with the LINE_DOWN that it reports and the start of the line. -/

namespace Sys2Proof.Machine

variable {s t u : State}

/-! ## An occurrence that finds both lists empty and none on offer (R169, R174) -/

/-- The item that a first occurrence leaves in a list of this level. -/
def firstItem (k : FaultKind) (level now : Nat) : List PendingItem :=
  if 1 ≤ level then [{ kind := k, level := level, entry := now, repeats := 1 }] else []

theorem listed_nil (k : FaultKind) (level now : Nat) : listed k level now [] = firstItem k level now := by
  unfold listed firstItem
  by_cases h : level = 0
  · rw [if_pos h, if_neg (by rw [h]; decide)]
  · rw [if_neg h, if_pos (Nat.one_le_iff_ne_zero.2 h)]
    rfl

theorem whenever_of {b : Prop} [Decidable b] (h : b) (f : State → State) (s : State) : whenever b f s = f s := by
  simp [whenever, h]

theorem whenever_of_not {b : Prop} [Decidable b] (h : ¬ b) (f : State → State) (s : State) : whenever b f s = s := by
  simp [whenever, h]

theorem counter_whenever_bump (b : Prop) [Decidable b] (c d : Counter) (s : State) :
    (whenever b (bump c) s).counter d = if b ∧ d = c then satAdd Config.max32 (s.counter d) 1 else s.counter d := by
  by_cases h : b
  · rw [whenever_of h, counter_bump]
    by_cases hd : d = c
    · rw [if_pos hd.symm, if_pos ⟨h, hd⟩, hd]
    · rw [if_neg fun e => hd e.symm, if_neg fun e => hd e.2]
  · rw [whenever_of_not h, if_neg fun e => h e.1]

/-- An empty exchange list takes the kind as a new item. -/
theorem counters_entersExch (level : Nat) (k : FaultKind) (h : s.fu.exchList = []) :
    (whenever (1 ≤ level) (enterExch k level) s).counters = (whenever (1 ≤ level) (bump Ctr.itemsEnteredExch) s).counters := by
  by_cases hl : 1 ≤ level
  · rw [whenever_of hl, whenever_of hl]
    simp only [enterExch, h, holdsKind, List.any_nil, Bool.false_eq_true, if_false]
    rfl
  · rw [whenever_of_not hl, whenever_of_not hl]

/-- An empty local list takes the kind as a new item, which stays where none is on offer and wakes nobody outside quiet. -/
theorem counters_entersLoc (level : Nat) (k : FaultKind) (ho : ¬ noticesOffered s) (hq : s.me.quiet = false)
    (h : s.fu.locList = []) :
    (whenever (1 ≤ level) (enterLoc k level) s).counters = (whenever (1 ≤ level) (bump Ctr.itemsEnteredLoc) s).counters ∧
      (whenever (1 ≤ level) (enterLoc k level) s).me = s.me := by
  by_cases hl : 1 ≤ level
  · rw [whenever_of hl, whenever_of hl, enterLoc_closed ho]
    simp only [h, hq, holdsKind, List.any_nil, Bool.false_eq_true, if_false, Bool.false_and]
    exact ⟨rfl, rfl⟩
  · rw [whenever_of_not hl, whenever_of_not hl]
    exact ⟨rfl, rfl⟩

/-- What the report of a kind comes to that is not active, with both lists empty, none on offer and every counter at 0. -/
structure FirstReported (k : FaultKind) (detail : Nat) (s t : State) : Prop where
  fault : t.fault k = (s.fault k).occurred k.isCondition s.fu.uptime detail
  others : recordsOnly [k] s t
  fu : t.fu = { s.fu with records := t.fu.records, exchList := firstItem k (s.fault k).exchLevel s.fu.uptime,
                          locList := firstItem k (s.fault k).locLevel s.fu.uptime }
  counters : ∀ c, t.counter c = if c = Ctr.occurrences ∨ c = Ctr.itemsEnteredExch ∧ 1 ≤ (s.fault k).exchLevel ∨
    c = Ctr.itemsEnteredLoc ∧ 1 ≤ (s.fault k).locLevel then 1 else 0
  rest : changesOnly [.faults, .counters] s t

theorem firstReported_occurrence {k : FaultKind} (h : k.isCondition = true → (s.fault k).active = false)
    (he : s.fu.exchList = []) (hl : s.fu.locList = []) (hup : s.qm.homeUp = false) (hq : s.me.quiet = false)
    (hz : ∀ c, s.counter c = 0) (detail : Nat) : FirstReported k detail s (occurrence k detail s) := by
  have ho : ¬ noticesOffered s := fun h => by simp [h.1] at hup
  obtain ⟨hloc, hqm⟩ := locList_occurrence_closed h ho detail
  have hexch := exchList_occurrence h detail
  rw [he, listed_nil] at hexch
  rw [hl, listed_nil] at hloc
  have heq := occurrence_eq h detail
  have hrfu := fu_recorded k detail s
  have hrcounter (c : Counter) : (recorded k detail s).counter c = if c = Ctr.occurrences then 1 else 0 := by
    have hset : (recorded k detail s).counter c = (bump Ctr.occurrences s).counter c := rfl
    rw [hset, counter_bump, hz, hz, if_congr eq_comm rfl rfl]
    rfl
  have hrme : (recorded k detail s).me = s.me := by simp [recorded]
  have hrqm : (recorded k detail s).qm = s.qm := by simp [recorded]
  generalize recorded k detail s = v at heq hrfu hrcounter hrme hrqm
  have hvcounters := counters_entersExch (s := v) (s.fault k).exchLevel k (by rw [hrfu]; exact he)
  have hwfu := fu_entersExch k (s.fault k).exchLevel v
  have hwme : (whenever (1 ≤ (s.fault k).exchLevel) (enterExch k (s.fault k).exchLevel) v).me = s.me :=
    Eq.trans (by simp) hrme
  have hwqm : (whenever (1 ≤ (s.fault k).exchLevel) (enterExch k (s.fault k).exchLevel) v).qm = s.qm :=
    Eq.trans (by simp) hrqm
  generalize whenever (1 ≤ (s.fault k).exchLevel) (enterExch k (s.fault k).exchLevel) v = w at heq hvcounters hwfu hwme hwqm
  obtain ⟨hcounters, hme⟩ := counters_entersLoc (s := w) (s.fault k).locLevel k
    (fun h => by simp [noticesOffered, hwqm, hup] at h) (by rw [hwme]; exact hq) (by rw [hwfu, hrfu]; exact hl)
  have hfu : (whenever (1 ≤ (s.fault k).locLevel) (enterLoc k (s.fault k).locLevel) w).fu =
      { w.fu with locList := (whenever (1 ≤ (s.fault k).locLevel) (enterLoc k (s.fault k).locLevel) w).fu.locList } := by
    unfold whenever
    split
    · exact fu_enterLoc k _ w
    · rfl
  rw [← heq] at hcounters hme hfu
  refine ⟨fault_occurrence_recorded h detail, occurrence_recordsOnly k detail s, ?_, fun c => ?_, ?_⟩
  · rw [← hexch, ← hloc, hfu, hwfu, hrfu]
  · have hc : (occurrence k detail s).counter c =
        (whenever (1 ≤ (s.fault k).locLevel) (bump Ctr.itemsEnteredLoc) w).counter c :=
      congrArg (fun v => vget v c) hcounters
    have hw (d : Counter) : w.counter d =
        (whenever (1 ≤ (s.fault k).exchLevel) (bump Ctr.itemsEnteredExch) v).counter d :=
      congrArg (fun v => vget v d) hvcounters
    rw [hc, counter_whenever_bump, hw, counter_whenever_bump, hrcounter]
    have hone : satAdd Config.max32 0 1 = 1 := rfl
    by_cases hocc : c = Ctr.occurrences
    · have hexch : c ≠ Ctr.itemsEnteredExch := hocc ▸ by decide
      have hloc : c ≠ Ctr.itemsEnteredLoc := hocc ▸ by decide
      simp only [hocc, true_or, if_true] at hexch hloc ⊢
      rw [if_neg fun e => hloc e.2, if_neg fun e => hexch e.2]
    · rw [if_neg hocc]
      by_cases hexch : c = Ctr.itemsEnteredExch
      · have hloc : c ≠ Ctr.itemsEnteredLoc := hexch ▸ by decide
        rw [if_neg fun e => hloc e.2, hone]
        exact if_congr (by tauto) rfl rfl
      · rw [if_neg fun e : _ ∧ _ => hexch e.2, hone]
        exact if_congr (by tauto) rfl rfl
  · intro b hb
    have hall : changesOnly reportBlocks s (occurrence k detail s) := by simp [changesOnly_iff, reportBlocks]
    by_cases hm : b = .matchEngine
    · rw [hm]
      exact hme.trans hwme
    · by_cases hqs : b = .queues
      · rw [hqs]
        exact hqm
      · refine hall b fun hin => ?_
        simp only [reportBlocks, List.mem_cons, List.not_mem_nil, or_false, not_or] at hin hb
        tauto

/-! ## Every block at its reset values, the conditions ended (R216) -/

/-- The conditions that a directed reset ends. -/
def endedAtReset : List FaultKind := [.noRung, .severeRun, .marginLow, .portParked, .clipping, .playoutLoss]

/-- The part of a directed reset before LINE_DOWN is reported and the line started. -/
def resetDone (a : Authority) (s : State) : State := s |> resetBlocks a |> sendHalt |> endAtReset

theorem fault_endAtReset (k : FaultKind) (s : State) :
    (endAtReset s).fault k = if k ∈ endedAtReset then { s.fault k with active := false } else s.fault k := by
  cases k <;> simp [endAtReset, endedAtReset, fault_endCondition]

theorem fu_endAtReset (s : State) : (endAtReset s).fu = { s.fu with records := (endAtReset s).fu.records } := rfl

theorem fault_resetDone (a : Authority) (k : FaultKind) (s : State) :
    (resetDone a s).fault k = if k ∈ endedAtReset then { s.fault k with active := false } else s.fault k :=
  fault_endAtReset k _

theorem fu_resetDone (a : Authority) (s : State) : (resetDone a s).fu =
    { s.fu with records := (resetDone a s).fu.records, exchList := [], locList := [] } := rfl

theorem out_resetDone (a : Authority) (s : State) :
    (resetDone a s).out = { s.out with xcvr := s.out.xcvr ++ [.halt] } := rfl

theorem ls_resetDone (a : Authority) (s : State) : (resetDone a s).ls = supervisorReset s.ls.profile := rfl

theorem ppu_resetDone (a : Authority) (s : State) : (resetDone a s).ppu.cadences = s.ppu.cadences := rfl

theorem du_resetDone (a : Authority) (s : State) :
    (resetDone a s).du = { params := keptParams s.du.params, manager := s.du.manager, cause := resetCauseOf a } := rfl

/-- The exchange's parameters are kept and the local authority's return to their defaults (R208). -/
theorem param_resetDone (a : Authority) (s : State) (p : Param) :
    (resetDone a s).param p = if p.owner = .exch then s.param p else p.default := by
  have hkept : (resetDone a s).param p = keepParam s.du.params p := keptParams_get s.du.params p
  rw [hkept]
  unfold keepParam
  cases p.owner <;> rfl

theorem counter_resetDone (a : Authority) (s : State) (c : Counter) : (resetDone a s).counter c = 0 := by
  have h : (resetDone a s).counters = Vector.replicate 176 0 := by simp [resetDone, resetBlocks]
  rw [State.counter, h]
  simp

theorem blocksReset_resetDone (a : Authority) (s : State) : BlocksReset (s.param .dataFloor) (resetDone a s) where
  channels c := by
    have h : (resetDone a s).bf = framerReset := rfl
    rw [State.chan, h]
    simp [framerReset, channelReset]
  loopStore := rfl
  budget := rfl
  matchTable i := by
    have h : (resetDone a s).me = matchEngineReset := rfl
    rw [h]
    simp [matchEngineReset, matchReset]
  answerTable i := by
    have h : (resetDone a s).me = matchEngineReset := rfl
    rw [h]
    simp [matchEngineReset, answerReset]
  quiet := ⟨rfl, rfl⟩
  queues := rfl
  ports p := by cases p <;> rfl
  pair := rfl
  slots n := by cases n <;> rfl
  stamp := rfl
  media n := by cases n <;> rfl
  mediaPorts p := by cases p <;> rfl
  mediaCounts := ⟨rfl, rfl, rfl⟩
  tests := rfl

/-! ## LINE_DOWN afresh (R49) -/

theorem wasUp_iff {l : LinkState} : l.wasUp = true ↔ l = .carrying ∨ l = .riding ∨ l = .retraining := by
  cases l <;> simp [LinkState.wasUp]

/-- LINE_DOWN as the reset reports it: an occurrence where the line was up and the condition was not active. -/
def lineDownAtReset (a : Authority) (s : State) : State :=
  whenever s.ls.link.wasUp (occurrence .lineDown s.ls.rate) (resetDone a s)

theorem directedReset_eq (a : Authority) (s : State) : directedReset a s =
    whenever (lineDownAtReset a s).autoStart startLine (lineDownAtReset a s) := rfl

theorem lineDownAtReset_fresh (a : Authority) (hup : s.ls.link.wasUp = true) (hr : (s.fault .lineDown).active = false) :
    FirstReported .lineDown s.ls.rate (resetDone a s) (lineDownAtReset a s) := by
  have hf : (resetDone a s).fault .lineDown = s.fault .lineDown := fault_resetDone a .lineDown s
  rw [lineDownAtReset, hup]
  exact firstReported_occurrence (fun _ => by rw [hf]; exact hr) rfl rfl rfl rfl (counter_resetDone a s) _

theorem lineDownAtReset_not (a : Authority) (h : ¬ (s.ls.link.wasUp = true ∧ (s.fault .lineDown).active = false)) :
    lineDownAtReset a s = resetDone a s := by
  have hf : (resetDone a s).fault .lineDown = s.fault .lineDown := fault_resetDone a .lineDown s
  unfold lineDownAtReset
  cases hup : s.ls.link.wasUp with
  | false => rfl
  | true =>
    have hactive : (s.fault .lineDown).active = true := by
      cases ha : (s.fault .lineDown).active with
      | true => rfl
      | false => exact absurd ⟨hup, ha⟩ h
    show occurrence .lineDown s.ls.rate (resetDone a s) = _
    rw [occurrence, State.isActive, hf, hactive]
    rfl

theorem lineDownAtReset_rest (a : Authority) (s : State) :
    changesOnly [.faults, .counters] (resetDone a s) (lineDownAtReset a s) ∧
      recordsOnly [.lineDown] (resetDone a s) (lineDownAtReset a s) ∧
      (lineDownAtReset a s).fu = { s.fu with
        records := (lineDownAtReset a s).fu.records, exchList := (lineDownAtReset a s).fu.exchList,
        locList := (lineDownAtReset a s).fu.locList } := by
  by_cases h : s.ls.link.wasUp = true ∧ (s.fault .lineDown).active = false
  · have hfirst := lineDownAtReset_fresh a h.1 h.2
    refine ⟨hfirst.rest, hfirst.others, ?_⟩
    rw [hfirst.fu, fu_resetDone]
  · rw [lineDownAtReset_not a h]
    exact ⟨.refl _ _, .refl _ _, rfl⟩

/-! ## The line started (R28) -/

/-- A directed reset of `s` with auto-start on: the line started in the state `w` that the report of LINE_DOWN left. -/
structure ResetAndStarted (a : Authority) (s w t : State) : Prop where
  blocks : BlocksReset (s.param .dataFloor) t
  cadences : t.ppu.cadences = s.ppu.cadences
  du : t.du = { params := keptParams s.du.params, manager := s.du.manager, cause := resetCauseOf a }
  param : ∀ p, t.param p = if p.owner = .exch then s.param p else p.default
  ls : t.ls = lineStarted s.ls.profile (s.rungFrom (Fin.ofNat 8 (s.param .startRung))) (s.param .trainTimeout)
  out : t.out = { s.out with xcvr := s.out.xcvr ++
    [.halt, .train (vget s.ls.profile (s.rungFrom (Fin.ofNat 8 (s.param .startRung)))).cap] }
  fu : t.fu = w.fu
  counters : ∀ c, t.counter c = if c = Ctr.trainingsStarted then satAdd Config.max32 (w.counter c) 1 else w.counter c
  clock : t.clock = s.clock
  pending : t.pending = s.pending
  free : t.free = s.free

theorem directedReset_started (a : Authority) (h : s.param .autoStart = 1) :
    ResetAndStarted a s (lineDownAtReset a s) (directedReset a s) := by
  obtain ⟨hch, -, -⟩ := lineDownAtReset_rest a s
  have hdu : (lineDownAtReset a s).du = (resetDone a s).du := hch .directives (by decide)
  have hparam (p : Param) : (lineDownAtReset a s).param p = if p.owner = .exch then s.param p else p.default :=
    (param_congr hdu p).trans (param_resetDone a s p)
  have hls : (lineDownAtReset a s).ls = supervisorReset s.ls.profile := (hch .supervisor (by decide)).trans (ls_resetDone a s)
  have hout : (lineDownAtReset a s).out = { s.out with xcvr := s.out.xcvr ++ [.halt] } :=
    (hch .outputs (by decide)).trans (out_resetDone a s)
  have hauto : (lineDownAtReset a s).autoStart = true := by
    have hon : (lineDownAtReset a s).param .autoStart = 1 := (hparam .autoStart).trans h
    rw [State.autoStart, hon]
    rfl
  have hdone : directedReset a s = startLine (lineDownAtReset a s) := by
    rw [directedReset_eq, hauto]
    rfl
  have hclock : (directedReset a s).clock = s.clock := by simp
  have hpending : (directedReset a s).pending = s.pending := by simp
  have hfree : (directedReset a s).free = s.free := by simp
  rw [hdone] at hclock hpending hfree ⊢
  have hkept := blocksReset_resetDone a s
  have hppu : (lineDownAtReset a s).ppu = (resetDone a s).ppu := hch .phones (by decide)
  have hbf : (lineDownAtReset a s).bf = (resetDone a s).bf := hch .framer (by decide)
  have hlbu : (lineDownAtReset a s).lbu = (resetDone a s).lbu := hch .budget (by decide)
  have hme : (lineDownAtReset a s).me = (resetDone a s).me := hch .matchEngine (by decide)
  have hqm : (lineDownAtReset a s).qm = (resetDone a s).qm := hch .queues (by decide)
  have hcc : (lineDownAtReset a s).cc = (resetDone a s).cc := hch .calls (by decide)
  have hmdu : (lineDownAtReset a s).mdu = (resetDone a s).mdu := hch .media (by decide)
  have htr : (lineDownAtReset a s).tr = (resetDone a s).tr := hch .tests (by decide)
  generalize lineDownAtReset a s = w at *
  obtain ⟨hstarted, hsent, hfu, hcount, honly, hline⟩ := startLine_facts (s := w) (by rw [hls]; rfl)
  have hrung (i : Fin 8) : w.rungFrom i = s.rungFrom i := rungFrom_congr (by rw [hls]; rfl) i
  have hsp : w.param .startRung = s.param .startRung := hparam .startRung
  have htp : w.param .trainTimeout = s.param .trainTimeout := hparam .trainTimeout
  have hprofile : w.ls.profile = s.ls.profile := by rw [hls]; rfl
  rw [hrung, hsp, htp, hls] at hstarted
  rw [hrung, hsp, hprofile, hout] at hsent
  refine ⟨hkept.congr ((hline .framer (by decide)).trans hbf) ((hline .budget (by decide)).trans hlbu)
      ((hline .matchEngine (by decide)).trans hme) ((hline .queues (by decide)).trans hqm)
      ((hline .phones (by decide)).trans hppu) ((hline .calls (by decide)).trans hcc)
      ((hline .media (by decide)).trans hmdu) ((hline .tests (by decide)).trans htr),
    (congrArg PhoneUnit.cadences ((hline .phones (by decide)).trans hppu)).trans (ppu_resetDone a s),
    ((hline .directives (by decide)).trans hdu).trans (du_resetDone a s),
    fun p => (param_congr (hline .directives (by decide)) p).trans (hparam p), hstarted, ?_, hfu, fun c => ?_, hclock,
    hpending, hfree⟩
  · rw [hsent, List.append_assoc]
    rfl
  · by_cases hc : c = Ctr.trainingsStarted
    · rw [if_pos hc, hc]
      exact hcount
    · rw [if_neg hc]
      exact honly c (by simpa using hc)

/-- LINE_DOWN afresh: its record, its items and the counters of the reset. -/
theorem ResetAndStarted.reported {a : Authority} (h : ResetAndStarted a s (lineDownAtReset a s) t)
    (hup : s.ls.link.wasUp = true) (hr : (s.fault .lineDown).active = false) :
    t.fault .lineDown = (s.fault .lineDown).occurred true s.fu.uptime s.ls.rate ∧
    t.fu.exchList = firstItem .lineDown (s.fault .lineDown).exchLevel s.fu.uptime ∧
    t.fu.locList = firstItem .lineDown (s.fault .lineDown).locLevel s.fu.uptime ∧
    ∀ c, t.counter c = if c = Ctr.trainingsStarted ∨ (c = Ctr.occurrences ∨
      c = Ctr.itemsEnteredExch ∧ 1 ≤ (s.fault .lineDown).exchLevel ∨
      c = Ctr.itemsEnteredLoc ∧ 1 ≤ (s.fault .lineDown).locLevel) then 1 else 0 := by
  have hold : (resetDone a s).fault .lineDown = s.fault .lineDown := fault_resetDone a .lineDown s
  have hnow : (resetDone a s).fu.uptime = s.fu.uptime := rfl
  obtain ⟨hrec, -, hlists, hcount, -⟩ := lineDownAtReset_fresh a hup hr
  rw [hold, hnow] at hrec hlists
  rw [hold] at hcount
  have hfu := h.fu
  have hcounters := h.counters
  clear h
  generalize lineDownAtReset a s = w at *
  refine ⟨(fault_congr hfu _).trans hrec, ?_, ?_, fun c => ?_⟩
  · rw [hfu, hlists]
  · rw [hfu, hlists]
  · rw [hcounters, hcount]
    by_cases hc : c = Ctr.trainingsStarted
    · have hocc : c ≠ Ctr.occurrences := hc ▸ by decide
      have hexch : c ≠ Ctr.itemsEnteredExch := hc ▸ by decide
      have hloc : c ≠ Ctr.itemsEnteredLoc := hc ▸ by decide
      have hnone : ¬ (c = Ctr.occurrences ∨ c = Ctr.itemsEnteredExch ∧ 1 ≤ (s.fault .lineDown).exchLevel ∨
        c = Ctr.itemsEnteredLoc ∧ 1 ≤ (s.fault .lineDown).locLevel) := by tauto
      rw [if_pos hc, if_neg hnone, if_pos (.inl hc)]
      rfl
    · rw [if_neg hc]
      exact if_congr (or_iff_right hc).symm rfl rfl

/-- LINE_DOWN left as it was: both lists are empty, and the start of the line alone is counted. -/
theorem ResetAndStarted.unreported {a : Authority} (h : ResetAndStarted a s (lineDownAtReset a s) t)
    (hno : ¬ (s.ls.link.wasUp = true ∧ (s.fault .lineDown).active = false)) :
    t.fault .lineDown = s.fault .lineDown ∧ t.fu.exchList = [] ∧ t.fu.locList = [] ∧
    ∀ c, t.counter c = if c = Ctr.trainingsStarted then 1 else 0 := by
  obtain ⟨-, -, -, -, -, -, hfu, hcounters, -, -, -⟩ := h
  rw [lineDownAtReset_not a hno] at hfu hcounters
  refine ⟨(fault_congr hfu _).trans (fault_resetDone a .lineDown s), by rw [hfu, fu_resetDone], by rw [hfu, fu_resetDone],
    fun c => ?_⟩
  rw [hcounters, counter_resetDone]
  rfl

theorem effect_reset {sender : Sender} (tag : Half) (h : accepts sender s) :
    effect (.reset sender tag) s = directedReset (senderAuthority sender) (arrived sender s) :=
  (effect_directive rfl).trans (directive_passes sender tag .reset h rfl rfl)

/-- Settles O59: the blocks reset, LINE_DOWN as the reset reports it, and the line started. -/
theorem resetReturnsTheBlocks : Obligations.ResetReturnsTheBlocks := by
  intro sender tag s ha hauto
  refine ⟨_, (exec_eq _ s).trans (congrArg _ (effect_reset tag ha)), ?_⟩
  have hdu : (arrived sender s).du = seenBy sender s.du := by cases sender <;> rfl
  have hls : (arrived sender s).ls = s.ls := by cases sender <;> rfl
  have hfu : (arrived sender s).fu = s.fu := by cases sender <;> rfl
  have hppu : (arrived sender s).ppu = s.ppu := by cases sender <;> rfl
  have hout : (arrived sender s).out = s.out := by cases sender <;> rfl
  have hrest : (arrived sender s).clock = s.clock ∧ (arrived sender s).pending = s.pending ∧
      (arrived sender s).free = s.free := by cases sender <;> exact ⟨rfl, rfl, rfl⟩
  have hparam (p : Param) : (arrived sender s).param p = s.param p := by cases sender <;> rfl
  have hcause : resetCauseOf (senderAuthority sender) =
      if sender = .exch then .exchangeDirective else .localDirective := by cases sender <;> rfl
  generalize arrived sender s = v at *
  have hrung (i : Fin 8) : v.rungFrom i = s.rungFrom i := rungFrom_congr (by rw [hls]) i
  have hfault (k : FaultKind) : v.fault k = s.fault k := fault_congr hfu k
  have hreset := directedReset_started (senderAuthority sender) ((hparam .autoStart).trans hauto)
  have ⟨hblocks, hcadences, htdu, htparam, htls, htout, htfu, _, hclock, hpending, hfree⟩ := hreset
  obtain ⟨-, hrecords, hwfu⟩ := lineDownAtReset_rest (senderAuthority sender) v
  have htfault (k : FaultKind) : (directedReset (senderAuthority sender) v).fault k =
      (lineDownAtReset (senderAuthority sender) v).fault k := fault_congr htfu k
  have hother (k : FaultKind) (hk : k ≠ .lineDown) : (directedReset (senderAuthority sender) v).fault k =
      if k ∈ endedAtReset then { s.fault k with active := false } else s.fault k := by
    rw [htfault, hrecords k (by simpa using hk), fault_resetDone, hfault]
  rw [hrung, hparam, hparam, hls] at htls
  rw [hrung, hparam, hout, hls] at htout
  refine ⟨by rw [← hparam]; exact hblocks, by rw [hcadences, hppu], fun p => by rw [htparam, hparam], by rw [htdu, hdu],
    by rw [htdu, hcause], ⟨htls, htout⟩, fun k hk => ?_, fun k hk => ?_, ?_, ?_, by rw [hclock, hrest.1],
    by rw [hpending, hrest.2.1], by rw [hfree, hrest.2.2]⟩
  · have hne : k ≠ .lineDown := by
      rintro rfl
      cases (by decide : FaultKind.lineDown ∉ endedAtReset) hk
    rw [hother k hne]
    exact if_pos hk
  · have hne : k ≠ .lineDown := by
      rintro rfl
      exact hk (by decide)
    have hin : k ∉ endedAtReset := fun h => hk (List.mem_append_left [FaultKind.lineDown] h)
    rw [hother k hne, if_neg hin]
  · rw [htfu, hwfu, hfu]
  · intro r fresh item
    by_cases hf : fresh
    · obtain ⟨hrec, hexch, hloc, hcount⟩ := hreset.reported (by rw [hls]; exact wasUp_iff.2 hf.1) (by rw [hfault]; exact hf.2)
      rw [hfault, hfu] at hrec hexch hloc
      rw [hls] at hrec
      rw [hfault] at hcount
      have hitem (level : Nat) : item level = firstItem .lineDown level s.fu.uptime :=
        if_congr (and_iff_right hf) rfl rfl
      refine ⟨hrec.trans (if_pos hf).symm, hexch.trans (hitem _).symm, hloc.trans (hitem _).symm, fun c => ?_⟩
      exact (hcount c).trans (if_congr (or_congr_right (and_iff_right hf).symm) rfl rfl)
    · obtain ⟨hrec, hexch, hloc, hcount⟩ := hreset.unreported fun h =>
        hf ⟨wasUp_iff.1 (by rw [← hls]; exact h.1), by rw [hfault] at h; exact h.2⟩
      have hitem (level : Nat) : item level = [] := if_neg fun h => hf h.1
      refine ⟨hrec.trans ((hfault .lineDown).trans (if_neg hf).symm), hexch.trans (hitem _).symm, hloc.trans (hitem _).symm,
        fun c => ?_⟩
      exact (hcount c).trans (if_congr (or_iff_left fun h => hf h.1).symm rfl rfl)

end Sys2Proof.Machine

/-! PROOFS. The line's return (R60, R162): what a slot cut leaves of its call, its ports and its media. -/

namespace Sys2Proof.Machine

variable {s t u : State} {p : Port} {n : Slot}

/-! ## Ports released (R108) -/

theorem mediaPort_startPark (p q : Port) (s : State) : (startPark p s).mediaPort q = s.mediaPort q := rfl

/-- A port released has its tone phase at 0, and nothing else of the media moves. -/
theorem toReleased_media (p : Port) (s : State) :
    (toReleased p s).mediaPort p = { s.mediaPort p with phase := 0 } ∧
    (toReleased p s).mediaPort p.other = s.mediaPort p.other ∧
    (toReleased p s).mdu = { s.mdu with ports := (toReleased p s).mdu.ports } := by
  have hmdu : (enterPort p .released s).mdu = s.mdu := mdu_enterPort (by decide) (by decide)
  refine ⟨?_, ?_, ?_⟩
  · show (startTone p .release (enterPort p .released s)).mediaPort p = _
    rw [mediaPort_startTone]
    exact congrArg (fun m : MediaUnit => { m.ports.get p with phase := 0 }) hmdu
  · show (startTone p .release (enterPort p .released s)).mediaPort p.other = _
    exact (mediaPort_toneSegment_other p .release true _).trans (congrArg (fun m : MediaUnit => m.ports.get p.other) hmdu)
  · have hstep : (toReleased p s).mdu =
        { (enterPort p .released s).mdu with ports := (toReleased p s).mdu.ports } := by cases p <;> rfl
    rw [hstep, hmdu]

theorem toReleasedIf_ports (p q : Port) (b : Bool) (s : State) :
    (whenever b (toReleased p) s).port q =
      (if p = q ∧ b = true then (s.port q).toned .released .release (s.param .parkTime) else s.port q) ∧
    (whenever b (toReleased p) s).mediaPort q =
      (if p = q ∧ b = true then { s.mediaPort q with phase := 0 } else s.mediaPort q) := by
  cases b with
  | false => simp [whenever]
  | true =>
    obtain ⟨hsame, hother, -⟩ := toReleased_media p s
    show (toReleased p s).port q = _ ∧ (toReleased p s).mediaPort q = _
    rcases Port.eq_or_eq_other p q with rfl | rfl
    · rw [if_pos ⟨rfl, rfl⟩, if_pos ⟨rfl, rfl⟩]
      exact ⟨port_toReleased q s, hsame⟩
    · rw [if_neg fun h => Port.ne_other p h.1, if_neg fun h => Port.ne_other p h.1]
      exact ⟨(toReleased_onlyPort p s).other, hother⟩

theorem toReleasedIf_rest (p : Port) (b : Bool) (s : State) :
    (whenever b (toReleased p) s).ppu.pair = s.ppu.pair ∧ (whenever b (toReleased p) s).ppu.cadences = s.ppu.cadences ∧
    (whenever b (toReleased p) s).mdu = { s.mdu with ports := (whenever b (toReleased p) s).mdu.ports } := by
  cases b with
  | false => exact ⟨rfl, rfl, rfl⟩
  | true => exact ⟨(toReleased_onlyPort p s).pair, (toReleased_onlyPort p s).cadences, (toReleased_media p s).2.2⟩

/-- A set of ports released: each of its ports has the release tone, the others are as they were. -/
theorem releaseAll_ports (ports : PortSet) (q : Port) (s : State) :
    (releaseAll ports s).port q =
      (if ports.has q = true then (s.port q).toned .released .release (s.param .parkTime) else s.port q) ∧
    (releaseAll ports s).mediaPort q =
      (if ports.has q = true then { s.mediaPort q with phase := 0 } else s.mediaPort q) := by
  obtain ⟨hport, hmedia⟩ := toReleasedIf_ports .a q ports.a s
  obtain ⟨hport', hmedia'⟩ := toReleasedIf_ports .b q ports.b (whenever ports.a (toReleased .a) s)
  have hparam : (whenever ports.a (toReleased .a) s).param .parkTime = s.param .parkTime := param_congr (by simp) _
  unfold releaseAll
  rw [hport', hmedia', hparam, hport, hmedia]
  cases q <;> simp [PortSet.has] <;> exact ⟨rfl, rfl⟩

theorem releaseAll_rest (ports : PortSet) (s : State) :
    (releaseAll ports s).ppu.pair = s.ppu.pair ∧ (releaseAll ports s).ppu.cadences = s.ppu.cadences ∧
    (releaseAll ports s).mdu = { s.mdu with ports := (releaseAll ports s).mdu.ports } := by
  obtain ⟨hpair, hcad, hmdu⟩ := toReleasedIf_rest .a ports.a s
  obtain ⟨hpair', hcad', hmdu'⟩ := toReleasedIf_rest .b ports.b (whenever ports.a (toReleased .a) s)
  refine ⟨hpair'.trans hpair, hcad'.trans hcad, ?_⟩
  unfold releaseAll
  rw [hmdu', hmdu]

theorem cadences_stopAll_apart (h : s.ppu.pair = .apart) (ports : PortSet) :
    (stopAll ports s).ppu.pair = s.ppu.pair ∧ (stopAll ports s).ppu.cadences = s.ppu.cadences := by
  have hone (p : Port) (b : Bool) (v : State) (hv : v.ppu.pair = .apart) :
      (whenever b (stopRinging p) v).ppu.pair = v.ppu.pair ∧ (whenever b (stopRinging p) v).ppu.cadences = v.ppu.cadences := by
    cases b with
    | false => exact ⟨rfl, rfl⟩
    | true => exact ⟨(stopRinging_apart hv p).2.pair, (stopRinging_apart hv p).2.cadences⟩
  obtain ⟨hpair, hcad⟩ := hone .a ports.a s h
  obtain ⟨hpair', hcad'⟩ := hone .b ports.b _ (hpair.trans h)
  exact ⟨hpair'.trans hpair, hcad'.trans hcad⟩

/-! ## A slot cut (R60, R162) -/

/-- A call record as a cut leaves it. -/
def CallSlot.cut (c : CallSlot) : CallSlot :=
  { c with state := .free, held := false, attached := { a := false, b := false }, ringSet := { a := false, b := false },
           cadence := 0, group := false, alert := none, endCause := some .budget,
           signals := c.signals ++ (if c.signals.length < 8 then [.clear .budget] else []) }

/-- The counters that a slot cut can touch. -/
def cutCounters : List Counter := Ctr.signalsLost :: Ctr.staleVoice :: Ctr.callsCut :: reportCounters

/-- What the cut of a slot in CARRYING comes to. -/
structure SlotCut (n : Slot) (s t : State) : Prop where
  call : t.call n = (s.call n).cut
  other : t.call n.other = s.call n.other
  stamp : t.cc.stamp = s.cc.stamp
  port : ∀ q, t.port q =
    if (s.call n).attached.has q = true then (s.port q).toned .released .release (s.param .parkTime)
    else if (s.call n).ringSet.has q = true ∧ (s.port q).state = .ringing then (s.port q).silent .idle else s.port q
  mediaPort : ∀ q, t.mediaPort q =
    if (s.call n).attached.has q = true then { s.mediaPort q with phase := 0 } else s.mediaPort q
  pair : t.ppu.pair = .apart
  cadences : t.ppu.cadences = s.ppu.cadences
  media : t.media n = (s.media n).change .off
  mediaOther : t.media n.other = s.media n.other
  mediaUnit : t.mdu = { s.mdu with slots := t.mdu.slots, ports := t.mdu.ports }
  ls : t.ls = s.ls
  lbu : t.lbu = s.lbu
  record : t.fault .callCut = (s.fault .callCut).occurred false s.fu.uptime n.number
  records : recordsOnly [.callCut] s t
  reports : Reports s t
  counted : counted Ctr.callsCut 1 s t
  counts : countsOnly cutCounters s t
  changes : changesOnly ([.phones, .calls, .media] ++ reportBlocks) s t

/-- The line has nothing to do for its last slot in CARRYING unless a step-up was deferred (R44). -/
theorem reportIfIdle_carrying (hl : s.ls.link = .carrying) (hd : s.ls.stepUpDeferred = false) : reportIfIdle s = s := by
  unfold reportIfIdle lastSlotFree
  rw [hl, hd]
  split <;> rfl

theorem followCall_mdu (n : Slot) (s : State) : (followCall n s).mdu = { s.mdu with slots := (followCall n s).mdu.slots } := by
  unfold followCall setMedia whenever
  dsimp only
  split <;> rfl

theorem freeSlot_mdu (n : Slot) (cause : Cause) (s : State) :
    (freeSlot n cause s).mdu = { s.mdu with slots := (freeSlot n cause s).mdu.slots } := by
  have hmdu : (freeSlot n cause s).mdu = (followCall n (onCall n (fun c => c.freed cause s.ls.link.isHold) s)).mdu := by
    simp [freeSlot]
  rw [hmdu, followCall_mdu]
  rfl

theorem freeSlot_stamp (n : Slot) (cause : Cause) (s : State) : (freeSlot n cause s).cc.stamp = s.cc.stamp := by
  have hcc : (freeSlot n cause s).cc = (onCall n (fun c => c.freed cause s.ls.link.isHold) s).cc := by simp [freeSlot]
  rw [hcc]
  rfl

/-- A slot freed with its CLEAR, where no data floor waits. -/
theorem clearedSlot_facts (hl : s.ls.link = .carrying) (hf : s.lbu.pendingFloor = none)
    (ht : t = queueSignal n (.clear .budget) (freeSlot n .budget s)) :
    (t.call n = (s.call n).cut ∧ t.call n.other = s.call n.other ∧ t.cc.stamp = s.cc.stamp) ∧
    (t.media n = (s.media n).change .off ∧ t.media n.other = s.media n.other ∧ t.mdu = { s.mdu with slots := t.mdu.slots }) ∧
    (t.ls = s.ls ∧ t.lbu = s.lbu ∧ t.ppu = s.ppu ∧ t.fu = s.fu) ∧
    countsOnly [Ctr.signalsLost, Ctr.staleVoice] s t ∧ changesOnly [.calls, .media, .counters] s t := by
  have hcall := call_freeSlot n n .budget s
  have hother := call_freeSlot n n.other .budget s
  have hmedia := media_freeSlot n n .budget s
  have hmother := media_freeSlot n n.other .budget s
  have hmdu := freeSlot_mdu n .budget s
  have hstamp := freeSlot_stamp n .budget s
  have hcounts := freeSlot_countsOnly n .budget s
  have hlbu : (freeSlot n .budget s).lbu = s.lbu := by
    rw [lbu_freeSlot, floorCheck_lbu]
    show Option.elim s.lbu.pendingFloor s.lbu _ = s.lbu
    rw [hf]
    rfl
  rw [if_pos rfl, hl] at hcall
  rw [if_pos rfl] at hmedia
  rw [if_neg (slot_ne_other n)] at hother hmother
  have hch : changesOnly [.budget, .calls, .media, .counters] s t := by simp [ht, changesOnly_iff]
  have hkept : t.ls = s.ls ∧ t.ppu = s.ppu ∧ t.fu = s.fu := by simp [ht]
  obtain ⟨qcall, qother, qstamp⟩ := queueSignal_calls n (.clear .budget) (freeSlot n .budget s)
  have qcounts := queueSignal_countsOnly n (.clear .budget) (freeSlot n .budget s)
  have qmdu : (queueSignal n (.clear .budget) (freeSlot n .budget s)).mdu = (freeSlot n .budget s).mdu := by simp
  have qlbu : (queueSignal n (.clear .budget) (freeSlot n .budget s)).lbu = (freeSlot n .budget s).lbu := by simp
  rw [← ht] at qcall qother qstamp qcounts qmdu qlbu
  generalize freeSlot n .budget s = w at *
  refine ⟨⟨?_, qother.trans hother, qstamp.trans hstamp⟩, ⟨(media_congr qmdu n).trans hmedia,
    (media_congr qmdu n.other).trans hmother, ?_⟩, ⟨hkept.1, qlbu.trans hlbu, hkept.2⟩,
    (hcounts.mono (by simp)).trans (qcounts.mono (by simp)), hch.drop (qlbu.trans hlbu)⟩
  · rw [qcall, hcall]
    simp [CallSlot.freed, CallSlot.cut, LinkState.isHold, noPorts]
  · rw [qmdu, hmdu]

/-- The record of a slot cut, counted. -/
theorem cutRecorded_facts (n : Slot) (s : State) (ht : t = bump Ctr.callsCut (occurrence .callCut n.number s)) :
    t.fault .callCut = (s.fault .callCut).occurred false s.fu.uptime n.number ∧ recordsOnly [.callCut] s t ∧
    counted Ctr.callsCut 1 s t ∧ countsOnly (Ctr.callsCut :: reportCounters) s t ∧ changesOnly reportBlocks s t := by
  have honly := occurrence_countsOnly .callCut n.number s
  have hfault : t.fault .callCut = (occurrence .callCut n.number s).fault .callCut := by rw [ht]; rfl
  have hcount : counted Ctr.callsCut 1 (occurrence .callCut n.number s) t := by rw [ht]; exact counter_bump_same _ _
  refine ⟨hfault.trans (fault_occurrence_recorded (fun h => absurd h (by decide)) _), ?_,
    counted_after honly (by decide) hcount, ?_,
    by simp [ht, changesOnly_iff, reportBlocks]⟩
  · rw [ht]
    exact occurrence_recordsOnly .callCut n.number s
  · rw [ht]
    exact (honly.mono (by simp)).bump (by simp)

theorem slotCut_cutSlot (hl : s.ls.link = .carrying) (hd : s.ls.stepUpDeferred = false) (hf : s.lbu.pendingFloor = none)
    (hp : s.ppu.pair = .apart) (hc : ∀ q, (s.call n).ringSet.has q = true → (s.port q).closed = false) :
    SlotCut n s (cutSlot n s) := by
  -- the ports
  obtain ⟨rpair, rcad, rmdu⟩ := releaseAll_rest (s.call n).attached s
  have rport (q : Port) := (releaseAll_ports (s.call n).attached q s).1
  have rmedia (q : Port) := (releaseAll_ports (s.call n).attached q s).2
  obtain ⟨spair, scad⟩ := cadences_stopAll_apart (rpair.trans hp) (s.call n).ringSet
  have sport := port_stopAll_apart (rpair.trans hp) (s.call n).ringSet
  have smdu := mdu_stopAll (s.call n).ringSet (releaseAll (s.call n).attached s)
  generalize hv : stopAll (s.call n).ringSet (releaseAll (s.call n).attached s) = v at *
  have hcut : cutSlot n s = takeLifted (s.call n).ringSet (reportIfIdle (bump Ctr.callsCut (occurrence .callCut n.number
      (queueSignal n (.clear .budget) (freeSlot n .budget v))))) := by
    rw [← hv]
    rfl
  obtain ⟨vcc, vls, vlbu, vfu, vdu, vqm, vme, vcounters⟩ : v.cc = s.cc ∧ v.ls = s.ls ∧ v.lbu = s.lbu ∧ v.fu = s.fu ∧
      v.du = s.du ∧ v.qm = s.qm ∧ v.me = s.me ∧ v.counters = s.counters := by
    rw [← hv]
    simp
  generalize hx : queueSignal n (.clear .budget) (freeSlot n .budget v) = x at hcut
  obtain ⟨⟨xcall, xother, xstamp⟩, ⟨xmedia, xmother, xmdu⟩, ⟨xls, xlbu, xppu, xfu⟩, xcounts, xch⟩ :=
    clearedSlot_facts (s := v) (t := x) (n := n) (by rw [vls]; exact hl) (by rw [vlbu]; exact hf) hx.symm
  obtain ⟨hfault, hrec, hcount, honly, hch⟩ := cutRecorded_facts n x (t := bump Ctr.callsCut (occurrence .callCut n.number x)) rfl
  have zmdu : (bump Ctr.callsCut (occurrence .callCut n.number x)).mdu = x.mdu := by simp
  have zcc : (bump Ctr.callsCut (occurrence .callCut n.number x)).cc = x.cc := by simp
  have zppu : (bump Ctr.callsCut (occurrence .callCut n.number x)).ppu = v.ppu := Eq.trans (by simp) xppu
  have zls : (bump Ctr.callsCut (occurrence .callCut n.number x)).ls = s.ls := Eq.trans (by simp) (xls.trans vls)
  have zlbu : (bump Ctr.callsCut (occurrence .callCut n.number x)).lbu = s.lbu := Eq.trans (by simp) (xlbu.trans vlbu)
  generalize bump Ctr.callsCut (occurrence .callCut n.number x) = z at *
  have zport (q : Port) : z.port q =
      if (s.call n).attached.has q = true then (s.port q).toned .released .release (s.param .parkTime)
      else if (s.call n).ringSet.has q = true ∧ (s.port q).state = .ringing then (s.port q).silent .idle else s.port q := by
    rw [port_congr zppu, sport, rport]
    by_cases ha : (s.call n).attached.has q = true
    · rw [if_pos ha, if_pos ha]
      exact if_neg fun h => nomatch h.2
    · rw [if_neg ha, if_neg ha]
      rfl
  have hdown : takeLifted (s.call n).ringSet z = z := takeLifted_down fun q hq => by
    rw [zport]
    split
    · exact hc q hq
    · split <;> exact hc q hq
  rw [reportIfIdle_carrying (by rw [zls]; exact hl) (by rw [zls]; exact hd), hdown] at hcut
  have hreports := cutSlot_reports n (.refl s)
  rw [hcut] at hreports ⊢
  have zmedia (m : Slot) : z.media m = x.media m := media_congr zmdu m
  have vmedia (m : Slot) : v.media m = s.media m := by
    have hslots : (releaseAll (s.call n).attached s).mdu.slots = s.mdu.slots :=
      (congrArg MediaUnit.slots rmdu :)
    rw [media_congr smdu]
    exact congrArg (fun v => v.get m) hslots
  refine ⟨?_, ?_, ?_, zport, fun q => ?_, ?_, ?_, ?_, ?_, ?_, zls, zlbu, ?_, ?_, hreports, ?_, ?_, ?_⟩
  · rw [call_congr zcc, xcall, call_congr vcc]
  · rw [call_congr zcc, xother, call_congr vcc]
  · rw [zcc, xstamp, vcc]
  · have hports : z.mdu.ports = (releaseAll (s.call n).attached s).mdu.ports := by rw [zmdu, xmdu, smdu]
    rw [← rmedia q]
    exact congrArg (fun m => m.get q) hports
  · rw [zppu, spair, rpair, hp]
  · rw [zppu, scad, rcad]
  · rw [zmedia, xmedia, vmedia]
  · rw [zmedia, xmother, vmedia]
  · rw [zmdu, xmdu, smdu, rmdu]
  · rw [hfault, fault_congr xfu, fault_congr vfu, xfu, vfu]
  · exact (recordsOnly_of_fu (xfu.trans vfu)).trans hrec
  · have hx' : countsOnly [Ctr.signalsLost, Ctr.staleVoice] s x := ((countsOnly.refl _ s).congr vcounters).trans xcounts
    exact counted_after hx' (by decide) hcount
  · have hx' : countsOnly [Ctr.signalsLost, Ctr.staleVoice] s x := ((countsOnly.refl _ s).congr vcounters).trans xcounts
    exact (hx'.mono (by simp [cutCounters])).trans (honly.mono (by simp [cutCounters]))
  · have hv' : changesOnly ([.phones, .calls, .media] ++ reportBlocks) s v := by
      rw [← hv]
      simp [changesOnly_iff, reportBlocks]
    exact hv'.trans ((xch.mono (by decide)).trans (hch.mono (by decide)))

/-! ## The cuts of a preemption check, one after another -/

/-- The pieces that a slot cut can touch. -/
def cutBlocks : List Block := [.phones, .calls, .media] ++ reportBlocks

/-- What cutting these slots in their order comes to. -/
structure CutsMade (cuts : List Slot) (s t : State) : Prop where
  same : cuts = [] → t = s
  cut : ∀ n ∈ cuts, t.call n = (s.call n).cut
  kept : ∀ n, n ∉ cuts → t.call n = s.call n
  stamp : t.cc.stamp = s.cc.stamp
  released : ∀ p, attachedTo cuts s p → t.port p = (s.port p).toned .released .release (s.param .parkTime) ∧
    t.mediaPort p = { s.mediaPort p with phase := 0 }
  stopped : ∀ p, ¬ attachedTo cuts s p → ringsFor cuts s p → t.port p = (s.port p).silent .idle ∧ t.mediaPort p = s.mediaPort p
  others : ∀ p, ¬ attachedTo cuts s p → ¬ ringsFor cuts s p → t.port p = s.port p ∧ t.mediaPort p = s.mediaPort p
  phones : t.ppu.pair = s.ppu.pair ∧ t.ppu.cadences = s.ppu.cadences
  mediaCut : ∀ n ∈ cuts, t.media n = (s.media n).change .off
  mediaKept : ∀ n, n ∉ cuts → t.media n = s.media n
  mediaUnit : t.mdu = { s.mdu with slots := t.mdu.slots, ports := t.mdu.ports }
  ls : t.ls = s.ls
  lbu : t.lbu = s.lbu
  uptime : t.fu.uptime = s.fu.uptime
  record : t.fault .callCut = cuts.foldl (fun r n => r.occurred false s.fu.uptime n.number) (s.fault .callCut)
  records : recordsOnly [.callCut] s t
  callsCut : countedIf (cuts ≠ []) Ctr.callsCut cuts.length s t
  counts : countsOnly cutCounters s t
  changes : changesOnly cutBlocks s t

theorem CutsMade.none (s : State) : CutsMade [] s s where
  same _ := rfl
  cut _ h := nomatch h
  kept _ _ := rfl
  stamp := rfl
  released _ h := by
    obtain ⟨n, hn, -⟩ := h
    cases hn
  stopped _ _ h := by
    obtain ⟨-, n, hn, -⟩ := h
    cases hn
  others _ _ _ := ⟨rfl, rfl⟩
  phones := ⟨rfl, rfl⟩
  mediaCut _ h := nomatch h
  mediaKept _ _ := rfl
  mediaUnit := rfl
  ls := rfl
  lbu := rfl
  uptime := rfl
  record := rfl
  records := .refl _ s
  callsCut := ⟨fun h => absurd rfl h, fun _ => rfl⟩
  counts := .refl _ s
  changes := .refl _ s

theorem attachedTo_append {cuts : List Slot} {p : Port} :
    attachedTo (cuts ++ [n]) s p ↔ attachedTo cuts s p ∨ (s.call n).attached.has p = true := by
  simp [attachedTo, or_and_right, exists_or]

theorem ringsFor_append {cuts : List Slot} {p : Port} :
    ringsFor (cuts ++ [n]) s p ↔ ringsFor cuts s p ∨ (s.port p).state = .ringing ∧ (s.call n).ringSet.has p = true := by
  simp [ringsFor, or_and_right, exists_or, and_or_left]

/-- A port keeps its loop through the cuts. -/
theorem CutsMade.closed {cuts : List Slot} (h : CutsMade cuts s t) (p : Port) : (t.port p).closed = (s.port p).closed := by
  by_cases ha : attachedTo cuts s p
  · rw [(h.released p ha).1]
    rfl
  · by_cases hr : ringsFor cuts s p
    · rw [(h.stopped p ha hr).1]
      rfl
    · rw [(h.others p ha hr).1]

/-- One slot more cut. -/
theorem CutsMade.snoc {cuts : List Slot} (h : CutsMade cuts s t) (hn : n ∉ cuts) (k : SlotCut n t u)
    (hpair : s.ppu.pair = .apart) :
    CutsMade (cuts ++ [n]) s u := by
  have hcall : t.call n = s.call n := h.kept n hn
  have hparam : t.param .parkTime = s.param .parkTime := param_congr (h.changes .directives (by decide)) _
  have hport := k.port
  have hmedia := k.mediaPort
  rw [hcall, hparam] at hport
  rw [hcall] at hmedia
  have hotherSlot (m : Slot) (hm : m ∉ cuts ++ [n]) : m ∉ cuts ∧ m = n.other := by
    rw [List.mem_append, List.mem_singleton, not_or] at hm
    exact ⟨hm.1, Slot.eq_other hm.2⟩
  refine ⟨fun e => absurd e (by simp), fun m hm => ?_, fun m hm => ?_, k.stamp.trans h.stamp, fun p hp => ?_, fun p hp hr => ?_,
    fun p hp hr => ?_, ⟨k.pair.trans hpair.symm, k.cadences.trans h.phones.2⟩, fun m hm => ?_, fun m hm => ?_, ?_,
    k.ls.trans h.ls, k.lbu.trans h.lbu, ?_, ?_, h.records.trans k.records, ?_, h.counts.trans k.counts, h.changes.trans k.changes⟩
  · by_cases hc : m ∈ cuts
    · have hne : m ≠ n := fun e => hn (e ▸ hc)
      obtain rfl := Slot.eq_other hne
      rw [k.other, h.cut _ hc]
    · have he : m = n := by simpa [hc] using hm
      rw [he, k.call, hcall]
  · obtain ⟨hm, rfl⟩ := hotherSlot m hm
    rw [k.other, h.kept _ hm]
  · rw [hport, hmedia]
    by_cases hcut : (s.call n).attached.has p = true
    · rw [if_pos hcut, if_pos hcut]
      by_cases ha : attachedTo cuts s p
      · rw [(h.released p ha).1, (h.released p ha).2]
        exact ⟨rfl, rfl⟩
      · by_cases hr : ringsFor cuts s p
        · rw [(h.stopped p ha hr).1, (h.stopped p ha hr).2]
          exact ⟨rfl, rfl⟩
        · rw [(h.others p ha hr).1, (h.others p ha hr).2]
          exact ⟨rfl, rfl⟩
    · have ha : attachedTo cuts s p := (attachedTo_append.1 hp).resolve_right hcut
      rw [if_neg hcut, if_neg hcut, (h.released p ha).1, (h.released p ha).2]
      exact ⟨if_neg (fun e => nomatch e.2), rfl⟩
  · rw [attachedTo_append, not_or] at hp
    rw [hport, hmedia, if_neg hp.2, if_neg hp.2]
    by_cases hrings : ringsFor cuts s p
    · rw [(h.stopped p hp.1 hrings).1, (h.stopped p hp.1 hrings).2]
      exact ⟨if_neg (fun e => nomatch e.2), rfl⟩
    · obtain ⟨hstate, hset⟩ := (ringsFor_append.1 hr).resolve_left hrings
      rw [(h.others p hp.1 hrings).1, (h.others p hp.1 hrings).2, if_pos ⟨hset, hstate⟩]
      exact ⟨rfl, rfl⟩
  · rw [attachedTo_append, not_or] at hp
    rw [ringsFor_append, not_or] at hr
    rw [hport, hmedia, if_neg hp.2, if_neg hp.2, (h.others p hp.1 hr.1).1, (h.others p hp.1 hr.1).2]
    exact ⟨if_neg fun e => hr.2 ⟨e.2, e.1⟩, rfl⟩
  · by_cases hc : m ∈ cuts
    · have hne : m ≠ n := fun e => hn (e ▸ hc)
      obtain rfl := Slot.eq_other hne
      rw [k.mediaOther, h.mediaCut _ hc]
    · have he : m = n := by simpa [hc] using hm
      rw [he, k.media, h.mediaKept n hn]
  · obtain ⟨hm, rfl⟩ := hotherSlot m hm
    rw [k.mediaOther, h.mediaKept _ hm]
  · rw [k.mediaUnit, h.mediaUnit]
  · exact k.reports.uptime.trans h.uptime
  · rw [List.foldl_append, k.record, h.record, h.uptime]
    rfl
  · refine ⟨fun _ => ?_, fun e => absurd e (by simp)⟩
    have hone := k.counted
    by_cases hc : cuts = []
    · rw [h.same hc] at hone
      rw [hc]
      exact hone
    · have hbefore := h.callsCut.1 hc
      unfold counted at hbefore hone ⊢
      rw [hone, hbefore, satAdd_add, List.length_append]
      rfl

/-! ## The preemption check (R60) -/

theorem nonFree_iff (n : Slot) : s.nonFree n = true ↔ (s.call n).state ≠ .free := bne_iff_ne

/-- The slots cut, by the slot that was admitted last. -/
theorem cutsAtReturn_eq (met : Nat → Bool) (s : State) : cutsAtReturn met s =
    if met s.reserved = true then []
    else if (s.nonFree .zero && s.nonFree .one && !met 1) = true then [s.lastAdmitted, s.lastAdmitted.other]
    else [s.lastAdmitted] := by
  have hnewest : (if (s.nonFree .zero && s.nonFree .one) = true then
      (if (s.call .zero).stamp ≤ (s.call .one).stamp then Slot.one else .zero)
      else if s.nonFree .one = true then .one else .zero) = s.lastAdmitted := by
    unfold State.lastAdmitted
    cases s.nonFree .zero <;> cases s.nonFree .one <;> simp
  rw [← hnewest]
  rfl

/-- The bound of the preemption check is not required with no slot in use. -/
theorem boundHolds_free (h : ∀ m, (s.call m).state = .free) (d : Nat) : s.boundHolds d = true := by
  have hres : s.reserved = 0 := by simp [State.reserved, State.nonFree, h]
  rw [State.boundHolds, hres]
  rfl

/-- With the bound not met some slot is in use, and the one admitted last is. -/
theorem lastAdmitted_used {d : Nat} (h : s.boundHolds d = false) : (s.call s.lastAdmitted).state ≠ .free := by
  rw [← nonFree_iff]
  unfold State.lastAdmitted
  by_cases hone : s.nonFree .one = true
  · by_cases hzero : s.nonFree .zero = true
    · split <;> assumption
    · simp [hone, hzero]
  · by_cases hzero : s.nonFree .zero = true
    · simp [hone, hzero]
    · refine absurd (boundHolds_free (s := s) (fun m => ?_) d) (by simp [h])
      rw [nonFree_iff, not_not] at hone hzero
      cases m
      · exact hzero
      · exact hone

theorem lastAdmitted_other (hn : (s.call n).state = .free) (ho : (s.call n.other).state ≠ .free) : s.lastAdmitted = n.other := by
  unfold State.lastAdmitted
  cases n <;> simp_all [State.nonFree, Slot.other]

/-- What the preemption check needs of the line and of the slots it cuts. -/
def CutReady (cuts : List Slot) (s : State) : Prop :=
  s.ls.stepUpDeferred = false ∧ s.ppu.pair = .apart ∧
    ∀ n ∈ cuts, ∀ p, (s.call n).ringSet.has p = true → (s.port p).closed = false

/-- The preemption check in CARRYING cuts the slots that the bound does not hold, last admitted first. -/
theorem preempt_cuts {met : Nat → Bool} (hmet : met = boundMet s.lbu.size s.lbu.sustained s.lbu.floor)
    (hl : s.ls.link = .carrying) (hf : s.lbu.pendingFloor = none)
    (hready : cutsAtReturn met s ≠ [] → CutReady (cutsAtReturn met s) s) : CutsMade (cutsAtReturn met s) s (preempt s) := by
  have hbound (v : State) (hv : v.lbu = s.lbu) : v.boundHolds v.lbu.floor = met v.reserved := by
    rw [hmet, ← hv]
    rfl
  have honce (v : State) : preemptOnce v = if v.boundHolds v.lbu.floor = true then v else cutSlot v.lastAdmitted v := rfl
  rw [cutsAtReturn_eq] at hready ⊢
  show CutsMade _ s (preemptOnce (preemptOnce s))
  cases hm : met s.reserved with
  | true =>
    have hstay : preemptOnce s = s := (honce s).trans (if_pos ((hbound s rfl).trans hm))
    rw [if_pos rfl, hstay, hstay]
    exact .none s
  | false =>
    have hb : s.boundHolds s.lbu.floor = false := (hbound s rfl).trans hm
    have hused := lastAdmitted_used hb
    have hfirst : preemptOnce s = cutSlot s.lastAdmitted s := by
      rw [honce, hb]
      rfl
    rw [hfirst]
    rw [hm] at hready
    simp only [Bool.false_eq_true, if_false] at hready ⊢
    generalize s.lastAdmitted = n at *
    have hin : n ∈ (if (s.nonFree .zero && s.nonFree .one && !met 1) = true then [n, n.other] else [n]) := by split <;> simp
    obtain ⟨hd, hp, hc⟩ := hready fun e => by rw [e] at hin; cases hin
    have hcut := slotCut_cutSlot (n := n) hl hd hf hp (hc n hin)
    have hmade : CutsMade [n] s (cutSlot n s) := (CutsMade.none s).snoc (by simp) hcut hp
    generalize cutSlot n s = u at *
    have hufree : (u.call n).state = .free := by rw [hcut.call]; rfl
    have huother := hcut.other
    cases hboth : (s.nonFree .zero && s.nonFree .one && !met 1) with
    | true =>
      rw [hboth] at hc
      simp only [Bool.and_eq_true, Bool.not_eq_true'] at hboth
      have ho : (u.call n.other).state ≠ .free := by
        rw [huother, ← nonFree_iff]
        cases n
        · exact hboth.1.2
        · exact hboth.1.1
      have hub : u.boundHolds u.lbu.floor = false := by
        rw [hbound u hcut.lbu, reserved_eq_one hufree ho, hboth.2]
      have hsecond : preemptOnce u = cutSlot n.other u := by
        rw [honce, hub, lastAdmitted_other hufree ho]
        rfl
      rw [hsecond]
      refine hmade.snoc (n := n.other) ?_ (slotCut_cutSlot ?_ ?_ ?_ ?_ ?_) hp
      · rw [List.mem_singleton]
        exact (slot_ne_other n).symm
      · rw [hcut.ls]; exact hl
      · rw [hcut.ls]; exact hd
      · rw [hcut.lbu]; exact hf
      · exact hcut.pair
      · intro q hq
        rw [huother] at hq
        rw [hmade.closed]
        exact hc n.other (by simp) q hq
    | false =>
      have hub : u.boundHolds u.lbu.floor = true := by
        by_cases ho : (u.call n.other).state = .free
        · refine boundHolds_free (fun m => ?_) _
          by_cases hmn : m = n
          · rw [hmn]; exact hufree
          · rw [Slot.eq_other hmn]; exact ho
        · have hone : met 1 = true := by
            have hso : s.nonFree n.other = true := (nonFree_iff _).2 (by rw [← huother]; exact ho)
            have hsn : s.nonFree n = true := (nonFree_iff _).2 hused
            cases n <;> simp_all [Slot.other]
          rw [hbound u hcut.lbu, reserved_eq_one hufree ho, hone]
      have hstay : preemptOnce u = u := (honce u).trans (if_pos hub)
      rw [hstay]
      exact hmade

/-! ## REFRESH and the holds released (R162) -/

/-- A call record with its REFRESH in front; a full queue gives up the signal at its back. -/
def CallSlot.refreshed (c : CallSlot) : CallSlot :=
  if c.state = .free then c
  else { c with signals := .refresh c.state (if c.state = .alerting then c.ringSet else c.attached) ::
    c.signals.take (if c.signals.length < 8 then 8 else 7) }

theorem refreshSlot_facts (n : Slot) (s : State) :
    (refreshSlot n s).call n = (s.call n).refreshed ∧ (refreshSlot n s).call n.other = s.call n.other ∧
    (refreshSlot n s).cc.stamp = s.cc.stamp ∧ countsOnly [Ctr.refreshes, Ctr.signalsLost] s (refreshSlot n s) ∧
    changesOnly [.calls, .counters] s (refreshSlot n s) := by
  have hch : changesOnly [.calls, .counters] s (refreshSlot n s) := by simp [changesOnly_iff]
  unfold CallSlot.refreshed
  by_cases hf : (s.call n).state = .free
  · have hstay : refreshSlot n s = s := if_neg (by simp [State.nonFree, hf])
    rw [hstay, if_pos hf]
    exact ⟨rfl, rfl, rfl, .refl _ s, .refl _ s⟩
  · have hgo : refreshSlot n s = bump Ctr.refreshes (frontSignal n (.refresh (s.call n).state
        (if (s.call n).state = .alerting then (s.call n).ringSet else (s.call n).attached)) s) :=
      if_pos ((nonFree_iff n).2 hf)
    rw [if_neg hf]
    generalize (if (s.call n).state = .alerting then (s.call n).ringSet else (s.call n).attached) = ports at hgo ⊢
    generalize Signal.refresh (s.call n).state ports = g at hgo ⊢
    have hcall (m : Slot) : (refreshSlot n s).call m = (onCall n (fun c => { c with signals := g ::
        (if 8 ≤ (s.call n).signals.length then c.signals.take 7 else c.signals) }) s).call m := by
      rw [hgo]
      unfold frontSignal whenever
      dsimp only
      split <;> rfl
    have hstamp : (refreshSlot n s).cc.stamp = s.cc.stamp := by
      rw [hgo]
      unfold frontSignal whenever
      dsimp only
      split <;> rfl
    have hcounts : countsOnly [Ctr.refreshes, Ctr.signalsLost] s (refreshSlot n s) := by
      rw [hgo]
      have hlost (v : State) : countsOnly [Ctr.refreshes, Ctr.signalsLost] v (bump Ctr.signalsLost v) :=
        (countsOnly.refl _ v).bump (by simp)
      have hfront : countsOnly [Ctr.refreshes, Ctr.signalsLost] s (frontSignal n g s) := by
        unfold frontSignal
        exact countsOnly.whenever ((countsOnly.refl _ s).congr rfl) hlost
      exact hfront.bump (by simp)
    refine ⟨?_, ?_, hstamp, hcounts, hch⟩
    · rw [hcall, call_onCall_same]
      by_cases hroom : (s.call n).signals.length < 8
      · rw [if_neg (by omega), if_pos hroom, List.take_of_length_le (by omega)]
      · rw [if_pos (by omega), if_neg hroom]
    · rw [hcall, call_onCall_other]

theorem endHold_facts (n : Slot) (s : State) :
    (endHold n s).call n = { s.call n with held := false, mark := false } ∧ (endHold n s).call n.other = s.call n.other ∧
    (endHold n s).cc.stamp = s.cc.stamp ∧
    (endHold n s).media n = (s.media n).change ((endHold n s).call n).mediaState ∧
    (endHold n s).media n.other = s.media n.other ∧ (endHold n s).mdu = { s.mdu with slots := (endHold n s).mdu.slots } ∧
    countsOnly [Ctr.staleVoice] s (endHold n s) ∧ changesOnly [.calls, .media, .counters] s (endHold n s) := by
  have hcc : (endHold n s).cc = (onCall n (fun c => { c with held := false, mark := false }) s).cc := by simp [endHold]
  refine ⟨?_, ?_, ?_, ?_, ?_, ?_, ?_, by simp [changesOnly_iff]⟩
  · rw [call_congr hcc, call_onCall_same]
  · rw [call_congr hcc, call_onCall_other]
  · rw [hcc]
    rfl
  · rw [call_congr hcc]
    unfold endHold
    rw [followCall_media, if_pos rfl]
    rfl
  · unfold endHold
    rw [followCall_media, if_neg (slot_ne_other n)]
    rfl
  · unfold endHold
    rw [followCall_mdu]
    rfl
  · exact ((countsOnly.refl _ s).congr rfl).trans (followCall_countsOnly n _)

/-- The call records after the REFRESH signals and the end of the holds. -/
def refreshedAndEnded (s : State) : State := s |> refreshSlot .zero |> refreshSlot .one |> endHold .zero |> endHold .one

theorem refreshedAndEnded_facts (s : State) (ht : t = refreshedAndEnded s) :
    (∀ n, t.call n = { (s.call n).refreshed with held := false, mark := false }) ∧ t.cc.stamp = s.cc.stamp ∧
    (∀ n, t.media n = (s.media n).change (t.call n).mediaState) ∧ t.mdu = { s.mdu with slots := t.mdu.slots } ∧
    countsOnly [Ctr.refreshes, Ctr.signalsLost, Ctr.staleVoice] s t ∧ changesOnly [.calls, .media, .counters] s t := by
  obtain ⟨acall, aother, astamp, acounts, ach⟩ := refreshSlot_facts .zero s
  have amdu : (refreshSlot .zero s).mdu = s.mdu := by simp
  unfold refreshedAndEnded at ht
  generalize refreshSlot .zero s = a at *
  obtain ⟨bcall, bother, bstamp, bcounts, bch⟩ := refreshSlot_facts .one a
  have bmdu : (refreshSlot .one a).mdu = a.mdu := by simp
  generalize refreshSlot .one a = b at *
  obtain ⟨ccall, cother, cstamp, cmedia, cmother, cmdu, ccounts, cch⟩ := endHold_facts .zero b
  generalize endHold .zero b = c at *
  obtain ⟨dcall, dother, dstamp, dmedia, dmother, dmdu, dcounts, dch⟩ := endHold_facts .one c
  rw [← ht] at dcall dother dstamp dmedia dmother dmdu dcounts dch
  have aone : a.call .one = s.call .one := aother
  have bzero : b.call .zero = a.call .zero := bother
  have cone : c.call .one = b.call .one := cother
  have dzero : t.call .zero = c.call .zero := dother
  have conemedia : c.media .one = b.media .one := cmother
  have dzeromedia : t.media .zero = c.media .zero := dmother
  have hcall : ∀ n, t.call n = { (s.call n).refreshed with held := false, mark := false } := fun n => by
    cases n
    · exact dzero.trans (ccall.trans (by rw [bzero, acall]))
    · exact dcall.trans (by rw [cone, bcall, aone])
  refine ⟨hcall, (dstamp.trans (cstamp.trans (bstamp.trans astamp))), fun n => ?_, ?_,
    (acounts.mono (by simp)).trans ((bcounts.mono (by simp)).trans ((ccounts.mono (by simp)).trans (dcounts.mono (by simp)))),
    (ach.mono (by decide)).trans ((bch.mono (by decide)).trans (cch.trans dch))⟩
  · cases n
    · rw [dzeromedia, cmedia, media_congr (bmdu.trans amdu), dzero]
    · rw [dmedia, conemedia, media_congr (bmdu.trans amdu)]
  · rw [dmdu, cmdu, bmdu, amdu]

/-! ## The line's return -/

/-- Media that has ended stays as it is. -/
theorem MediaSlot.change_off_off (m : MediaSlot) : (m.change .off).change .off = m.change .off := by
  have hoff : (m.change .off).media = .off := by
    cases hm : m.media <;> simp [MediaSlot.change, hm, MediaSlot.finish]
  generalize m.change .off = x at *
  unfold MediaSlot.change
  rw [hoff]

/-- The cuts, then the REFRESH signals and the end of every hold. -/
theorem callsReturned {cuts : List Slot} (h : CutsMade cuts s u) (ht : t = refreshedAndEnded u) : CallsReturned cuts s t := by
  obtain ⟨hcall, hstamp, hmedia, hmdu, hcounts, hch⟩ := refreshedAndEnded_facts u ht
  have hppu : t.ppu = u.ppu := hch .phones (by decide)
  have hfu : t.fu = u.fu := hch .faults (by decide)
  have hport (p : Port) : t.port p = u.port p := port_congr hppu p
  have hmediaPort (p : Port) : t.mediaPort p = u.mediaPort p := by
    have hports : t.mdu.ports = u.mdu.ports := (congrArg MediaUnit.ports hmdu :)
    exact congrArg (fun v => v.get p) hports
  refine ⟨fun n hn => ?_, fun n hn hs => ?_, fun n hn hs => ?_, hstamp.trans h.stamp, fun p hp => ?_, fun p hp hr => ?_,
    fun p hp hr => ?_, ⟨by rw [hppu]; exact h.phones.1, by rw [hppu]; exact h.phones.2⟩, fun n => ?_, ?_,
    (fault_congr hfu _).trans h.record, countedIf_then h.callsCut hcounts (by decide)⟩
  · rw [hcall, h.cut n hn]
    rfl
  · rw [hcall, h.kept n hn, CallSlot.refreshed, if_neg hs]
  · rw [hcall, h.kept n hn, CallSlot.refreshed, if_pos hs]
  · rw [hport, hmediaPort]
    exact h.released p hp
  · rw [hport, hmediaPort]
    exact h.stopped p hp hr
  · rw [hport, hmediaPort]
    exact h.others p hp hr
  · by_cases hn : n ∈ cuts
    · have hoff : (t.call n).mediaState = .off := by
        rw [hcall, h.cut n hn]
        rfl
      rw [hmedia, h.mediaCut n hn, hoff, MediaSlot.change_off_off]
    · rw [hmedia, h.mediaKept n hn]
  · rw [hmdu, h.mediaUnit]

/-- The return is judged from any state whose calls, ports and media are the same. -/
theorem CallsReturned.of_same {cuts : List Slot} {r : State} (h : CallsReturned cuts s t) (hcc : s.cc = r.cc)
    (hppu : s.ppu = r.ppu)
    (hmdu : s.mdu = r.mdu) (hdu : s.du = r.du) (huptime : s.fu.uptime = r.fu.uptime)
    (hfault : s.fault .callCut = r.fault .callCut) (hcount : s.counter Ctr.callsCut = r.counter Ctr.callsCut) :
    CallsReturned cuts r t := by
  have hcall := call_congr hcc
  have hport := port_congr hppu
  have hmp := mediaPort_congr hmdu
  have hattached (p : Port) : attachedTo cuts s p ↔ attachedTo cuts r p := by simp only [attachedTo, hcall]
  have hrings (p : Port) : ringsFor cuts s p ↔ ringsFor cuts r p := by simp only [ringsFor, hcall, hport]
  refine ⟨fun n hn => ?_, fun n hn hs => ?_, fun n hn hs => ?_, ?_, fun p hp => ?_, fun p hp hr => ?_, fun p hp hr => ?_, ?_,
    fun n => ?_, ?_, ?_, ?_⟩
  · rw [← hcall]
    exact h.cut n hn
  · rw [← hcall] at hs ⊢
    exact h.kept n hn hs
  · rw [← hcall] at hs ⊢
    exact h.free n hn hs
  · rw [← hcc]
    exact h.stamp
  · have := h.released p ((hattached p).2 hp)
    rwa [hport, hmp, param_congr hdu] at this
  · have := h.stopped p (fun e => hp ((hattached p).1 e)) ((hrings p).2 hr)
    rwa [hport, hmp] at this
  · have := h.others p (fun e => hp ((hattached p).1 e)) (fun e => hr ((hrings p).1 e))
    rwa [hport, hmp] at this
  · rw [← hppu]
    exact h.phones
  · rw [← media_congr hmdu]
    exact h.media n
  · rw [← hmdu]
    exact h.mediaUnit
  · rw [← huptime, ← hfault]
    exact h.record
  · obtain ⟨hyes, hno⟩ := h.callsCut
    unfold counted at hyes
    rw [hcount] at hyes hno
    exact ⟨hyes, hno⟩

/-- What the return of the line in CARRYING leaves of everything else, with no data floor waiting. -/
structure LineReturned (cuts : List Slot) (s t : State) : Prop where
  calls : CallsReturned cuts s t
  ls : t.ls = s.ls
  lbu : t.lbu = s.lbu
  records : recordsOnly [.callCut] s t
  untouched : cuts = [] → t.fu = s.fu
  changes : changesOnly ([.calls, .media, .counters] ++ if cuts.isEmpty then [] else .phones :: reportBlocks) s t
  counts : countsOnly ([Ctr.refreshes, Ctr.signalsLost, Ctr.staleVoice] ++
    if cuts.isEmpty then [] else Ctr.callsCut :: reportCounters) s t

theorem lineReturned {met : Nat → Bool} (hmet : met = boundMet s.lbu.size s.lbu.sustained s.lbu.floor)
    (hl : s.ls.link = .carrying) (hf : s.lbu.pendingFloor = none)
    (hready : cutsAtReturn met s ≠ [] → CutReady (cutsAtReturn met s) s) :
    LineReturned (cutsAtReturn met s) s (lineReturns s) := by
  have hcuts := preempt_cuts hmet hl hf hready
  have ht : lineReturns s = refreshedAndEnded (preempt s) := rfl
  rw [ht]
  generalize cutsAtReturn met s = cuts at *
  generalize preempt s = u at *
  obtain ⟨-, -, -, -, hcounts, hch⟩ := refreshedAndEnded_facts u rfl
  have hreturned := callsReturned hcuts rfl
  generalize refreshedAndEnded u = t at *
  have hfu : t.fu = u.fu := hch .faults (by decide)
  have hkept (e : cuts = []) : u = s := hcuts.same e
  refine ⟨hreturned, (hch .supervisor (by decide)).trans hcuts.ls, (hch .budget (by decide)).trans hcuts.lbu,
    hcuts.records.trans (recordsOnly_of_fu hfu), fun e => by rw [hfu, hkept e], ?_, ?_⟩
  · cases cuts with
    | nil =>
      rw [hkept rfl] at hch
      exact hch
    | cons n rest =>
      show changesOnly ([.calls, .media, .counters] ++ .phones :: reportBlocks) s t
      exact (hcuts.changes.mono (by decide)).trans (hch.mono (by decide))
  · cases cuts with
    | nil =>
      rw [hkept rfl] at hcounts
      exact hcounts
    | cons n rest => exact (hcuts.counts.mono (by simp [cutCounters])).trans (hcounts.mono (by simp))

end Sys2Proof.Machine

/-! PROOFS. O20 and O24: CARRYING entered by a training and by the end of a ride. -/

namespace Sys2Proof.Machine

variable {s t u : State} {cuts : List Slot}

/-! ## The return of the line, whatever is cut -/

theorem LineReturned.within (h : LineReturned cuts s t) :
    changesOnly ([.calls, .media, .counters] ++ .phones :: reportBlocks) s t ∧
      countsOnly ([Ctr.refreshes, Ctr.signalsLost, Ctr.staleVoice] ++ Ctr.callsCut :: reportCounters) s t := by
  have hch := h.changes
  have hcounts := h.counts
  cases cuts with
  | nil => exact ⟨hch.mono (by decide), hcounts.mono (by decide)⟩
  | cons n rest => exact ⟨hch, hcounts⟩

theorem cutsAtReturn_congr (met : Nat → Bool) (h : t.cc = s.cc) : cutsAtReturn met t = cutsAtReturn met s := by
  simp only [cutsAtReturn, State.reserved, State.nonFree, call_congr h]

/-! ## CARRYING started (R12, R34, R39) -/

theorem startCarrying_facts (s : State) (ht : t = startCarrying s) :
    t.ls = { s.ls with link := .carrying, lowMargin := 0, silence := some 0 } ∧ t.bf.loopStore = s.bf.loopStore ∧
    (∀ c, t.chan c = { s.chan c with expected := none }) ∧
    (∀ k, t.fault k = if k = .lineDown then { s.fault k with active := false } else s.fault k) ∧
    t.fu = { s.fu with records := t.fu.records } := by
  have hbf : t.bf = (unsetExpected (onLs (fun l => { l with link := .carrying, lowMargin := 0, silence := some 0 }) s)).bf := by
    simp [ht, startCarrying]
  have hunset : (unsetExpected (onLs (fun l => { l with link := .carrying, lowMargin := 0, silence := some 0 }) s)).fu =
      s.fu := by
    simp
  refine ⟨by simp [ht, startCarrying], ?_, fun c => ?_, fun k => ?_, ?_⟩
  · rw [hbf, loopStore_unsetExpected]
    rfl
  · rw [chan_congr hbf, chan_unsetExpected]
    rfl
  · rw [ht, startCarrying, fault_endCondition, fault_congr hunset]
    exact if_congr eq_comm rfl rfl
  · rw [ht, startCarrying]
    exact congrArg (fun u : FaultUnit => { u with records := (endCondition .lineDown
      (unsetExpected (onLs (fun l => { l with link := .carrying, lowMargin := 0, silence := some 0 }) s))).fu.records }) hunset

/-! ## A training accepted (R29, R51) -/

/-- The rate, the rung's settings and the budget taken from a training. -/
def trainingStaged (rate : Nat) (margin : Int) (s : State) : State :=
  let r := vget s.ls.profile s.ls.rung
  s |> onLs (fun l =>
      { l with train := none, hold := none, backoffLength := 30,
               inUse := { size := r.size, eff := r.eff, minMargin := r.minMargin }, rate := rate, margin := margin })
    |> stageBudget rate r.size r.eff
    |> onLs (fun l =>
      { l with cleanRun := 0, gradesSince := 0, crcBad := 0, gapMark := false, syncLostMark := false,
               stepUpDeferred := false })

/-- The line in CARRYING by a training, before the calls are told. -/
def trainedUp (rate : Nat) (margin : Int) (s : State) : State :=
  trainingStaged rate margin s |> startCarrying |> endCondition .noRung |> bump Ctr.trainingsSucceeded

theorem trainingStaged_facts (rate : Nat) (margin : Int) (s : State) :
    (let rung := vget s.ls.profile s.ls.rung
     (trainingStaged rate margin s).ls = { s.ls with
       train := none, hold := none, backoffLength := 30,
       inUse := { size := rung.size, eff := rung.eff, minMargin := rung.minMargin }, rate := rate, margin := margin,
       cleanRun := 0, gradesSince := 0, crcBad := 0, gapMark := false, syncLostMark := false, stepUpDeferred := false } ∧
     (trainingStaged rate margin s).lbu = { s.lbu with
       rate := rate, size := rung.size, eff := rung.eff, bitsCarry := 0, blockCarry := 0, floor := s.param .dataFloor,
       pendingFloor := none }) ∧
    (trainingStaged rate margin s).bf = s.bf ∧ (trainingStaged rate margin s).fu = s.fu ∧
    (trainingStaged rate margin s).counters = s.counters ∧
    changesOnly [.supervisor, .budget] s (trainingStaged rate margin s) :=
  ⟨⟨rfl, rfl⟩, rfl, rfl, rfl, by simp [changesOnly_iff, trainingStaged]⟩

theorem enterCarrying_eq (rate : Nat) (margin : Int) (s : State) :
    enterCarrying rate margin s = lineReturns (trainedUp rate margin s) := rfl

theorem trainedUp_facts (rate : Nat) (margin : Int) (s : State) (ht : t = trainedUp rate margin s) :
    (let rung := vget s.ls.profile s.ls.rung
     t.ls = { s.ls with link := .carrying, train := none, hold := none, backoffLength := 30,
                        inUse := { size := rung.size, eff := rung.eff, minMargin := rung.minMargin },
                        rate := rate, margin := margin, cleanRun := 0, gradesSince := 0, crcBad := 0, gapMark := false,
                        syncLostMark := false, lowMargin := 0, stepUpDeferred := false, silence := some 0 } ∧
     t.lbu = { s.lbu with rate := rate, size := rung.size, eff := rung.eff, bitsCarry := 0, blockCarry := 0,
                          floor := s.param .dataFloor, pendingFloor := none }) ∧
    t.bf.loopStore = s.bf.loopStore ∧ (∀ c, t.chan c = { s.chan c with expected := none }) ∧
    (∀ k, t.fault k = if k = .lineDown ∨ k = .noRung then { s.fault k with active := false } else s.fault k) ∧
    t.fu = { s.fu with records := t.fu.records } ∧ counted Ctr.trainingsSucceeded 1 s t ∧
    countsOnly [Ctr.trainingsSucceeded] s t ∧ changesOnly [.framer, .supervisor, .budget, .faults, .counters] s t := by
  obtain ⟨⟨hls, hlbu⟩, hbf, hfu, hcounters, hch⟩ := trainingStaged_facts rate margin s
  unfold trainedUp at ht
  generalize trainingStaged rate margin s = x at *
  obtain ⟨yls, yloop, ychan, yfault, yfu⟩ := startCarrying_facts x rfl
  have ylbu : (startCarrying x).lbu = x.lbu := by simp
  have ycounters : (startCarrying x).counters = x.counters := by simp
  have ych : changesOnly [.framer, .supervisor, .faults] x (startCarrying x) := by simp [changesOnly_iff]
  generalize startCarrying x = y at *
  have tls : t.ls = y.ls := by simp [ht]
  have tlbu : t.lbu = y.lbu := by simp [ht]
  have tbf : t.bf = y.bf := by simp [ht]
  have hend : (endCondition .noRung y).counters = s.counters := Eq.trans (by simp) (ycounters.trans hcounters)
  refine ⟨⟨?_, ?_⟩, ?_, fun c => ?_, fun k => ?_, ?_, ?_, ?_, ?_⟩
  · rw [tls, yls, hls]
  · rw [tlbu, ylbu, hlbu]
  · rw [tbf, yloop, hbf]
  · rw [chan_congr tbf, ychan, chan_congr hbf]
  · have hk : t.fault k = (endCondition .noRung y).fault k := by rw [ht]; rfl
    rw [hk, fault_endCondition, yfault, fault_congr hfu]
    cases k <;> rfl
  · have hy : y.fu = { s.fu with records := y.fu.records } := by rw [yfu, hfu]
    have he : t.fu = { y.fu with records := t.fu.records } := by rw [ht]; rfl
    rw [he, hy]
  · rw [ht]
    exact (counter_bump_same _ _).trans (congrArg (fun n => satAdd Config.max32 n 1) (counter_congr hend _))
  · rw [ht]
    exact ((countsOnly.refl _ s).congr hend).bump (by simp)
  · have hty : changesOnly [.faults, .counters] y t := by simp [ht, changesOnly_iff]
    exact (hch.mono (by decide)).trans ((ych.mono (by decide)).trans (hty.mono (by decide)))

theorem trainedEvent_accepted {rate : Nat} {margin : Int} (hl : s.ls.link = .training ∨ s.ls.link = .retraining)
    (hf : s.param .floorRate ≤ min rate (vget s.ls.profile s.ls.rung).cap) : trainedEvent rate margin s =
      lineReturns (trainedUp (min rate (vget s.ls.profile s.ls.rung).cap) margin
        (whenever ((vget s.ls.profile s.ls.rung).cap < rate) (bump Ctr.ratesClamped) s)) := by
  have htaken : trainedEvent rate margin s = trainedTaken rate margin s := if_pos ((isTraining_iff _).2 hl)
  have hparam : (whenever ((vget s.ls.profile s.ls.rung).cap < rate) (bump Ctr.ratesClamped) s).param .floorRate =
      s.param .floorRate := param_congr (by simp) _
  rw [htaken, trainedTaken]
  rw [hparam, if_neg (by omega)]
  rfl

/-- What the entry to CARRYING by a training comes to, from a state `v` that differs from `s` in its counters alone. -/
theorem trainedUp_returned {rate : Nat} {margin : Int} {v : State} {met : Nat → Bool} (hv : changesOnly [.counters] s v)
    (hmet : met = boundMet (vget s.ls.profile s.ls.rung).size (10 * rate * (vget s.ls.profile s.ls.rung).eff / 512 /
      (8 * (vget s.ls.profile s.ls.rung).size.bytes)) (s.param .dataFloor))
    (hready : cutsAtReturn met s ≠ [] → s.ppu.pair = .apart ∧
      ∀ n ∈ cutsAtReturn met s, ∀ p, (s.call n).ringSet.has p = true → (s.port p).closed = false)
    (ht : t = trainedUp rate margin v) :
    LineReturned (cutsAtReturn met s) t (lineReturns t) ∧ CallsReturned (cutsAtReturn met s) v (lineReturns t) := by
  have hls : v.ls = s.ls := hv .supervisor (by decide)
  have hdu : v.du = s.du := hv .directives (by decide)
  obtain ⟨⟨tls, tlbu⟩, -, -, tfault, tfu, -, tcounts, tch⟩ := trainedUp_facts rate margin v ht
  clear ht
  have tcc : t.cc = v.cc := tch .calls (by decide)
  have tppu : t.ppu = v.ppu := tch .phones (by decide)
  have hcuts : cutsAtReturn met t = cutsAtReturn met s := cutsAtReturn_congr met (tcc.trans (hv .calls (by decide)))
  have hbound : met = boundMet t.lbu.size t.lbu.sustained t.lbu.floor := by
    rw [hmet, tlbu, hls, param_congr hdu]
    rfl
  have hret := lineReturned hbound (by rw [tls]) (by rw [tlbu]) fun hne => by
    rw [hcuts] at hne ⊢
    obtain ⟨hpair, hdown⟩ := hready hne
    have hppu : t.ppu = s.ppu := tppu.trans (hv .phones (by decide))
    refine ⟨by rw [tls], by rw [hppu]; exact hpair, fun n hn p hp => ?_⟩
    rw [call_congr (tcc.trans (hv .calls (by decide)))] at hp
    rw [port_congr hppu]
    exact hdown n hn p hp
  rw [hcuts] at hret
  refine ⟨hret, hret.calls.of_same tcc tppu (tch .media (by decide)) (tch .directives (by decide)) ?_ ?_ ?_⟩
  · exact (congrArg FaultUnit.uptime tfu :)
  · rw [tfault, if_neg (by decide)]
  · exact tcounts _ (by decide)

/-- Settles O20: the training staged and CARRYING started, then the return of the line. -/
theorem trainedEntersCarrying : Obligations.TrainedEntersCarrying := by
  intro rate margin s rung r met cuts hl hfloor hready
  refine ⟨_, congrArg Host.Outcome.next (trainedEvent_accepted hl hfloor), ?_⟩
  obtain ⟨v, hvdef⟩ : ∃ v, v = whenever ((vget s.ls.profile s.ls.rung).cap < rate) (bump Ctr.ratesClamped) s := ⟨_, rfl⟩
  rw [← hvdef]
  have hv : changesOnly [.counters] s v := by simp [hvdef, changesOnly_iff]
  have hvreports : Reports s v := by
    rw [hvdef]
    exact reports_whenever (.refl s) fun u hu => reports_bump hu
  have hvclamped (c : Counter) : v.counter c =
      if (vget s.ls.profile s.ls.rung).cap < rate ∧ c = Ctr.ratesClamped then satAdd Config.max32 (s.counter c) 1
      else s.counter c := by
    rw [hvdef]
    exact counter_whenever_bump _ _ c s
  have hvcounts : countsOnly [Ctr.ratesClamped] s v := fun c hc => by
    rw [hvclamped, if_neg fun e => hc (by simp [e.2])]
  clear hvdef
  obtain ⟨t, ht⟩ : ∃ t, t = trainedUp (min rate (vget s.ls.profile s.ls.rung).cap) margin.toInt v := ⟨_, rfl⟩
  obtain ⟨hret, hcalls⟩ : LineReturned cuts t (lineReturns t) ∧ CallsReturned cuts v (lineReturns t) :=
    trainedUp_returned hv (met := met) rfl hready ht
  have hreports := enterCarrying_reports (min rate (vget s.ls.profile s.ls.rung).cap) margin.toInt hvreports
  rw [enterCarrying_eq] at hreports
  rw [← ht] at hreports ⊢
  obtain ⟨⟨tls, tlbu⟩, tloop, tchan, tfault, tfu, tsucceeded, tcounts, tch⟩ := trainedUp_facts _ margin.toInt v ht
  clear ht
  obtain ⟨hwithin, hafter⟩ := hret.within
  obtain ⟨-, zls, zlbu, zrecords, zuntouched, zch, zcounts⟩ := hret
  generalize lineReturns t = z at *
  have vls : v.ls = s.ls := hv .supervisor (by decide)
  have vbf : v.bf = s.bf := hv .framer (by decide)
  have vfu : v.fu = s.fu := hv .faults (by decide)
  have zbf : z.bf = t.bf := hwithin .framer (by decide)
  rw [vls] at tls
  rw [vls, hv .budget (by decide), param_congr (hv .directives (by decide))] at tlbu
  have hbefore : countsOnly [Ctr.trainingsSucceeded, Ctr.ratesClamped] s t :=
    (hvcounts.mono (by simp)).trans (tcounts.mono (by simp))
  have hblocks : changesOnly [.framer, .supervisor, .budget, .faults, .counters] s t := (hv.mono (by decide)).trans tch
  have hsame : CallsReturned cuts s z := hcalls.of_same (hv .calls (by decide)) (hv .phones (by decide)) (hv .media (by decide))
    (hv .directives (by decide)) (by rw [vfu]) (fault_congr vfu _) (hvcounts _ (by decide))
  refine ⟨zls.trans tls, zlbu.trans tlbu, ?_, fun c => ?_, fun k hk => ?_, hsame, hreports, fun e => ?_, ?_, ?_, ?_, ?_⟩
  · rw [zbf, tloop, vbf]
  · rw [chan_congr zbf, tchan, chan_congr vbf]
  · rw [zrecords k (by simpa using hk), tfault, fault_congr vfu]
  · rw [zuntouched e, tfu, vfu]
  · exact counted_then (counted_after hvcounts (by decide) tsucceeded) hafter (by decide)
  · rw [hafter _ (by decide), tcounts _ (by decide), hvclamped]
    exact if_congr (and_iff_left rfl) rfl rfl
  · clear_value cuts
    cases cuts with
    | nil => exact (hblocks.mono (by decide)).trans (zch.mono (by decide))
    | cons n rest =>
      show changesOnly ([.framer, .supervisor, .budget, .calls, .media, .faults, .counters] ++
        [.phones, .matchEngine, .queues]) s z
      exact (hblocks.mono (by decide)).trans (hwithin.mono (by decide))
  · generalize (if cuts.isEmpty = true then [] else Ctr.callsCut :: reportCounters) = more at zcounts ⊢
    exact (hbefore.mono (by simp)).trans (zcounts.mono (by simp))

/-! ## A ride ended (R34) -/

/-- The line in CARRYING at the end of a ride, before the calls are told. -/
def rideEnded (s : State) : State :=
  s |> onLs (fun l => { l with ride := none }) |> copyFloor |> startCarrying |> occurrence .ride s.rideLength
    |> bump Ctr.ridesEndedBySyncBack

theorem endRide_eq (s : State) : endRide s = lineReturns (rideEnded s) := rfl

theorem rideEnded_facts (s : State) (ht : t = rideEnded s) :
    (t.ls = { s.ls with link := .carrying, ride := none, lowMargin := 0, silence := some 0 } ∧
      t.lbu = { s.lbu with floor := s.param .dataFloor, pendingFloor := none }) ∧
    t.bf.loopStore = s.bf.loopStore ∧ (∀ c, t.chan c = { s.chan c with expected := none }) ∧
    (t.fault .ride = reported .ride s.rideLength s.fu.uptime (s.fault .ride) ∧
      t.fault .lineDown = { s.fault .lineDown with active := false } ∧ recordsOnly [.ride, .lineDown] s t) ∧
    t.fu.uptime = s.fu.uptime ∧ counted Ctr.ridesEndedBySyncBack 1 s t ∧
    countsOnly (Ctr.ridesEndedBySyncBack :: reportCounters) s t ∧
    changesOnly ([.framer, .supervisor, .budget] ++ reportBlocks) s t := by
  unfold rideEnded at ht
  obtain ⟨x, hx⟩ : ∃ x, x = copyFloor (onLs (fun l => { l with ride := none }) s) := ⟨_, rfl⟩
  rw [← hx] at ht
  have xls : x.ls = { s.ls with ride := none } := by rw [hx]; rfl
  have xlbu : x.lbu = { s.lbu with floor := s.param .dataFloor, pendingFloor := none } := by rw [hx]; rfl
  have xbf : x.bf = s.bf := by rw [hx]; rfl
  have xfu : x.fu = s.fu := by rw [hx]; rfl
  have xcounters : x.counters = s.counters := by rw [hx]; rfl
  have xch : changesOnly [.supervisor, .budget] s x := by simp [hx, changesOnly_iff]
  clear hx
  obtain ⟨yls, yloop, ychan, yfault, yfu⟩ := startCarrying_facts x rfl
  have ylbu : (startCarrying x).lbu = x.lbu := by simp
  have ycounters : (startCarrying x).counters = s.counters := Eq.trans (by simp) xcounters
  have ych : changesOnly [.framer, .supervisor, .faults] x (startCarrying x) := by simp [changesOnly_iff]
  generalize startCarrying x = y at *
  have yuptime : y.fu.uptime = s.fu.uptime := by rw [yfu, xfu]
  have hfault (k : FaultKind) : t.fault k = (occurrence .ride s.rideLength y).fault k := by rw [ht]; rfl
  have hrecords := occurrence_recordsOnly .ride s.rideLength y
  have honly : countsOnly reportCounters s (occurrence .ride s.rideLength y) :=
    ((countsOnly.refl _ s).congr ycounters).trans (occurrence_countsOnly .ride s.rideLength y)
  have hty : changesOnly reportBlocks y t := by simp [ht, changesOnly_iff, reportBlocks]
  have tls : t.ls = y.ls := by simp [ht]
  have tlbu : t.lbu = y.lbu := by simp [ht]
  have tbf : t.bf = y.bf := by simp [ht]
  refine ⟨⟨by rw [tls, yls, xls], by rw [tlbu, ylbu, xlbu]⟩, by rw [tbf, yloop, xbf], fun c => ?_, ⟨?_, ?_, fun k hk => ?_⟩, ?_,
    ?_, ?_, (xch.mono (by decide)).trans ((ych.mono (by decide)).trans (hty.mono (by decide)))⟩
  · rw [chan_congr tbf, ychan, chan_congr xbf]
  · rw [hfault, fault_occurrence_reported, yuptime, yfault, if_neg (by decide), fault_congr xfu]
  · rw [hfault, fault_occurrence_other (by decide), yfault, if_pos rfl, fault_congr xfu]
  · simp only [List.mem_cons, List.not_mem_nil, or_false, not_or] at hk
    rw [hfault, hrecords k (by simpa using hk.1), yfault, if_neg hk.2, fault_congr xfu]
  · rw [ht]
    show (occurrence .ride s.rideLength y).fu.uptime = _
    rw [occurrence_uptime, yuptime]
  · rw [ht]
    exact counted_after honly (by decide) (counter_bump_same _ _)
  · rw [ht]
    exact (honly.mono (by simp)).bump (by simp)

/-- Settles O24: CARRYING started with the RIDE event, then the return of the line. -/
theorem syncBackEndsTheRide : Obligations.SyncBackEndsTheRide := by
  intro s cuts hl hready
  refine ⟨endRide s, congrArg Host.Outcome.next (if_pos hl), ?_⟩
  have hreports : Reports s (endRide s) := endRide_reports (.refl s)
  rw [endRide_eq] at hreports ⊢
  obtain ⟨t, ht⟩ : ∃ t, t = rideEnded s := ⟨_, rfl⟩
  rw [← ht] at hreports ⊢
  obtain ⟨⟨tls, tlbu⟩, tloop, tchan, ⟨tride, tdown, trecords⟩, tuptime, tcount, tcounts, tch⟩ := rideEnded_facts s ht
  have tcc : t.cc = s.cc := tch .calls (by decide)
  have tppu : t.ppu = s.ppu := tch .phones (by decide)
  obtain ⟨met, hmet⟩ : ∃ met, met = boundMet s.lbu.size s.lbu.sustained (s.param .dataFloor) := ⟨_, rfl⟩
  have hcuts : cutsAtReturn met t = cuts := by
    rw [hmet]
    exact cutsAtReturn_congr _ tcc
  have hbound : met = boundMet t.lbu.size t.lbu.sustained t.lbu.floor := by
    rw [hmet, tlbu]
    rfl
  have hret := lineReturned hbound (by rw [tls]) (by rw [tlbu]) fun hne => by
    rw [hcuts] at hne ⊢
    obtain ⟨hdeferred, hpair, hdown⟩ := hready hne
    refine ⟨by rw [tls]; exact hdeferred, by rw [tppu]; exact hpair, fun n hn p hp => ?_⟩
    rw [call_congr tcc] at hp
    rw [port_congr tppu]
    exact hdown n hn p hp
  rw [hcuts] at hret
  clear_value cuts
  obtain ⟨hwithin, hafter⟩ := hret.within
  obtain ⟨zcalls, zls, zlbu, zrecords, -, zch, zcounts⟩ := hret
  generalize lineReturns t = z at *
  have zbf : z.bf = t.bf := hwithin .framer (by decide)
  have hcalls : CallsReturned cuts s z := zcalls.of_same tcc tppu (tch .media (by decide)) (tch .directives (by decide)) tuptime
    (trecords _ (by decide)) (tcounts _ (by decide))
  refine ⟨zls.trans tls, zlbu.trans tlbu, ?_, fun c => ?_, ?_, ?_, ?_, hreports, hcalls, ?_, ?_, ?_⟩
  · rw [zbf, tloop]
  · rw [chan_congr zbf, tchan]
  · rw [zrecords _ (by decide), tride]
    rfl
  · rw [zrecords _ (by decide), tdown]
  · exact (trecords.mono (by simp)).trans (zrecords.mono (by simp))
  · exact counted_then tcount hafter (by decide)
  · cases cuts with
    | nil => exact (tch.mono (by decide)).trans (zch.mono (by decide))
    | cons n rest =>
      show changesOnly ([.framer, .supervisor, .budget, .calls, .media] ++ reportBlocks ++ [.phones]) s z
      exact (tch.mono (by decide)).trans (hwithin.mono (by decide))
  · cases cuts with
    | nil => exact (tcounts.mono (by decide)).trans (zcounts.mono (by decide))
    | cons n rest =>
      show countsOnly ([Ctr.ridesEndedBySyncBack, Ctr.refreshes, Ctr.signalsLost, Ctr.staleVoice] ++ reportCounters ++
        [Ctr.callsCut]) s z
      exact (tcounts.mono (by decide)).trans (hafter.mono (by decide))

end Sys2Proof.Machine
